-- ==== Sys2Proof/Word.lean ====
section
/-! DEFINITION. The word types of the BM-4816 and the sparse table every address-indexed store is written with. -/

namespace Sys2Proof

/-- One byte of memory. -/
abbrev Byte := BitVec 8

/-- A 64-bit register of a register page (R47). -/
abbrev Word := BitVec 64

/-- A table from Nat keys to values, kept as a list of entries with keys strictly rising and no entry equal to what an
unlisted key reads as (the operations and the canonical form are in Machine/Bits.lean). -/
abbrev Table (α : Type) := List (Nat × α)

/-- A block of the device: its type code (R12, R13), its quarter and its local index (R45). A device-wide block has
quarter 15 and local index 0, as IDENT reports it (R52). -/
structure UnitId where
  ty : Nat
  q : Nat
  i : Nat
  deriving DecidableEq, Repr

/-- An exact binary number `num · 2^exp`, never rounded: a quantity an engine hands to a tally (R87). -/
structure Dyadic where
  num : Nat
  exp : Int
  deriving DecidableEq, Repr

end Sys2Proof
end

