-- ==== Sys2Proof/Syntax.lean ====
section
/-! DEFINITION. The commands of the block: one constructor per row of the opcode table, in the table's order, with the
operands the row's rule gives it. What the spec lets the world outside a step choose (an ECC outcome, the columns that
mismatch, a sensor's reading, a message that arrives) is an operand of that step's command. -/

namespace Sys2Proof

/-- An engine's update of a tally slot (R87): the kind it names, the count it adds to W0, its two quantities (the value,
for a maximum) and, for a maximum, the element identifier. -/
structure TallyUpd where
  slot : Nat
  kind : Nat
  count : Nat
  a : Dyadic
  b : Dyadic
  ident : Nat
  deriving DecidableEq, Repr

/-- What the Reed-Solomon code of a sector finds when the sector is read (R341): nothing, a corrected error with its
bank, row and symbol, or an uncorrectable error with its bank and row. -/
inductive Ecc where
  | clean
  | corrected (bank row symbol : Nat)
  | uncorrectable (bank row : Nat)
  deriving DecidableEq, Repr

/-- A memory request: who makes it (type 0x21 the host, 0x0C a peer device, R372), the partition it carries (R353), its
64-bit address (R335), its length for a read, and its bytes for a write. -/
structure MemReq where
  who : UnitId
  part : Nat
  addr : Nat
  len : Nat
  write : Bool
  data : List Byte
  deriving DecidableEq, Repr

/-- A data or idle frame as it arrives (R379 to R381): its 128 header bits, its 5,120 data bytes (none in an idle frame that
carries no data), its corrected codewords, and the logical lanes whose codeword was uncorrectable. -/
structure Frame where
  header : Nat
  data : List Byte
  corrected : Nat
  bad : List Nat
  deriving DecidableEq, Repr

/-- What an identity frame carries (R382, R383): the peer's DEVICE_ID, DOMAIN_TAG, global port number, behaviour level and
protocol version, and in a retraining its free buffer space in credits. -/
structure Identity where
  device : Nat
  tag : Nat
  port : Nat
  level : Nat
  version : Nat
  free : List Nat
  deriving DecidableEq, Repr

/-- What a receiver measures of a physical lane over a window (R382, R384): symbol errors, and their ratio per million. -/
structure LaneTest where
  errors : Nat
  ratio : Nat
  deriving DecidableEq, Repr

/-- A management command's call (R520, R521): whether it comes over MCTP, which carries its data, its length and its offset or
index in the message, or over CXL, which takes them from ARG0 and ARG1; and whether the accesses to the host and the programs
and erases of the flash that it makes complete (R522). -/
structure McCall where
  mctp : Bool
  body : List Byte
  length : Nat
  offset : Nat
  hostOk : Bool
  flashOk : Bool
  deriving DecidableEq, Repr

/-- An SPDM 1.2 request (R491, R518, R519). -/
inductive Spdm where
  | getVersion
  | getCapabilities
  | negotiateAlgorithms
  | getCertificate (slot : Nat)
  | getMeasurements
  | keyExchange
  | endSession
  deriving DecidableEq, Repr

/-- A data object in the DOE mailbox by its protocol (R491, R492), with its length: an IDE_KM object programs the keys of the
CXL.io stream or of the CXL.cachemem stream. -/
inductive DoeObject where
  | discovery (length : Nat)
  | spdm (length : Nat) (r : Spdm)
  | secured (length : Nat) (r : Spdm)
  | ideKm (length : Nat) (mem : Bool)
  | cdat (length : Nat)
  deriving DecidableEq, Repr

/-- A request to the MCTP endpoint by its message type (R520): MCTP control, PLDM monitoring of a sensor of R532, a step of a
PLDM firmware update as the command of R521 that it is, SPDM, and a vendor-defined command of R521. -/
inductive MctpMessage where
  | control
  | sensor (index : Nat)
  | firmware (op : Nat) (c : McCall)
  | spdm (r : Spdm)
  | vendor (op : Nat) (c : McCall)
  deriving DecidableEq, Repr

/-- The commands, one per row of the opcode table. -/
inductive Instr where
  /-- REGISTER_WRITE (R59): A host write to a register field that has no behaviour of its own updates each unlocked field and keeps locked fields. -/
  | registerWrite (off size val : Nat)
  /-- BAD_ACCESS (R47): A malformed register access, or an access to a reserved BAR0 address, reads 0 or is ignored and is recorded in DEV BAD_ACCESS_ADDR. -/
  | badAccess (write : Bool) (off size : Nat)
  /-- RC_READ (R17): A read of a read-to-clear field returns its value and clears it; a 64-bit read is needed to clear a field that spans both halves. -/
  | rcRead (off size : Nat)
  /-- ASSAY (R65): Writing CTRL ENABLE = 1 while ENABLE reads 0 starts an assay and sets STATUS ASSAY_BUSY. -/
  | assay (u : UnitId)
  /-- DISABLE_CHECK (R68): Writing CTRL ENABLE = 0 while ENABLE reads 1 starts a disable check and stops new dispatch to the block. -/
  | disableCheck (u : UnitId)
  /-- ASSAY_DONE (R65): An assay or disable check finishes, sets ENABLE and ASSAY, increments SEQUENCE and raises ASSAY_DONE. -/
  | assayDone (u : UnitId)
  /-- RESET (R57): Writing CTRL RESET = 1 while the block is disabled starts a block reset. -/
  | reset (u : UnitId)
  /-- RESET_COMPLETE (R57): A block reset completes, returning the page to its reset values except the fields that persist. -/
  | resetComplete (u : UnitId)
  /-- TIME_LATCH (R83): A 32-bit read of TB TIME [31:0] copies TIME [63:32] from the same instant into TIME_LATCH_HI. -/
  | timeLatch
  /-- LOAD (R81): TB CMD LOAD loads TIME from SET_VALUE while TB is disabled, and is otherwise ignored with LOCKED_WRITE. -/
  | load
  /-- COMPARE_WRITE (R84): A write of TB COMPARE arms the compare, and sets INT_STATUS COMPARE at once when the value is at or below TIME. -/
  | compareWrite (value : Nat)
  /-- COMPARE (R84): TB TIME reaches the armed COMPARE value and INT_STATUS COMPARE sets once. -/
  | compare
  /-- SYNC_INTERVAL (R421): Each INTERVAL a grandmaster sends SYNC on every named port, and a follower measures its link delay. -/
  | syncInterval
  /-- HOLDOVER (R82): No sync message arrives for four intervals, so HOLDOVER sets and TIME runs on at the last RATE. -/
  | holdover (errEst : Nat)
  /-- TALLY_WRITE (R90): A software write to a live tally slot word changes the live view; a write to W3 changes the configuration in both views. -/
  | tallyWrite (slot word value : Nat)
  /-- TALLY_UPDATE (R87): An engine update to a tally slot is applied as one indivisible read-modify-write when its kind matches. -/
  | tallyUpdate (upd : TallyUpd)
  /-- TALLY_SNAPSHOT (R92): A write to DEV TALLY_SNAP_IDX clears SNAP_VALID and starts a coherent snapshot of a live slot. -/
  | tallySnapshot (slot : Nat)
  /-- SNAP_VALID (R92): The four words of the slot from one instant appear in TALLY_SNAP_W0-W3, and SNAP_VALID sets. -/
  | snapValid
  /-- CLEAR_ALL (R93): DEV TALLY_CTRL CLEAR_ALL starts a clear of every slot in both views, holding updates that arrive meanwhile. -/
  | clearAll
  /-- CLEAR_COMPLETE (R93): The tally clear completes and the held updates and writes are applied in arrival order. -/
  | clearComplete
  /-- TBL_QUERY (R216): A write to GE TBL_QUERY clears VALID and starts a read of a table registry entry. -/
  | tblQuery (ge table : Nat)
  /-- TBL_QUERY_DONE (R216): The registry entry as of one instant appears in the page's query registers, and VALID sets. -/
  | tblQueryDone (ge : Nat)
  /-- INVALIDATE (R364): VB CMD INVALIDATE, written while the bank is disabled, starts invalidating all cache tags. -/
  | invalidate (bank : Nat)
  /-- INV_DONE (R364): An invalidation completes, TAGS_VALID reads 0 and INT_STATUS INV_DONE sets. -/
  | invDone (bank : Nat)
  /-- RETRAIN (R383): KP CMD RETRAIN starts a retraining of the port's link. -/
  | retrain (port : Nat)
  /-- READ (R402): PD ENTRY_CMD READ copies a directory entry and its load counters into the entry registers. -/
  | read
  /-- WRITE (R402): PD ENTRY_CMD WRITE checks and changes a directory entry at once. -/
  | write
  /-- STAGE (R402): PD ENTRY_CMD STAGE checks a directory change and queues it for the next commit. -/
  | stage
  /-- DISCARD_STAGED (R402): PD ENTRY_CMD DISCARD_STAGED drops every staged directory change. -/
  | discardStaged
  /-- UNDEFINED_ENTRY_OP (R402): An undefined PD ENTRY_CMD OP changes nothing and reports RANGE. -/
  | undefinedEntryOp (op : Nat)
  /-- FLUSH (R425): PD REPL_CMD FLUSH frees every hot-row replica of the device. -/
  | flush
  /-- ENABLE (R495): HI RING_CMD ENABLE checks a ring pair's configuration and enables it with pointers set to RING_START. -/
  | enable
  /-- DISABLE (R483): HI RING_CMD DISABLE stops fetching at once and puts the pair in DRAINING until its admitted tasks have written records. -/
  | disable
  /-- SQ_TAIL (R478): A doorbell write delivers a submission tail, which is latched when in range and otherwise sets DB_RANGE. -/
  | sqTail (ring tail : Nat)
  /-- CQ_HEAD (R478): A doorbell write delivers a completion head, which is taken when in range and otherwise sets DB_RANGE. -/
  | cqHead (ring head : Nat)
  /-- ERR_HEAD (R489): The host writes its consumed count of the error ring, freeing room for further error records. -/
  | errHead (head : Nat)
  /-- MSIX_UNMASK (R485): Unmasking an MSI-X vector sends the message whose pending bit is set. -/
  | msixUnmask (vector : Nat)
  /-- DECODER_COMMIT (R472): The host commits an HDM decoder, which fails with Commit Error when its range or state is not accepted. -/
  | decoderCommit (n ways base size : Nat)
  /-- EPOCH_START (R441): Writing EX EPOCH_CTRL RUN = 1 while PHASE reads 0 assigns the commit role and starts epochs on the device. -/
  | epochStart
  /-- EPOCH_STOP (R442): Writing RUN = 0 makes the device open no further epoch after its next commit. -/
  | epochStop
  /-- CLOSE (R443): EX CMD CLOSE requests an early close of the open epoch from the root. -/
  | close
  /-- CFG_LOCK (R523): Setting MC CFG_LOCK blocks the marked commands over CXL until the next release of PERST_N. -/
  | cfgLock
  /-- UPDATE_BEGIN (R504): An MC command opens an update session, checks the image header and writes the header page. -/
  | updateBegin (c : McCall)
  /-- UPDATE_DATA (R504): An MC command erases and programs one body chunk and adds it to the running hash. -/
  | updateData (c : McCall)
  /-- UPDATE_END (R504): An MC command reads the body back, compares its hash and ends the session as DONE or HASH. -/
  | updateEnd (c : McCall)
  /-- UPDATE_ABORT (R505): An MC command closes the open update session. -/
  | updateAbort (c : McCall)
  /-- PROFILE_WRITE (R510): An MC command checks a profile record's structure and level and commits it to the record store. -/
  | profileWrite (c : McCall)
  /-- PROFILE_SELECT_NEXT (R513): An MC command makes a profile pending for use at the next release of PERST_N. -/
  | profileSelectNext (c : McCall)
  /-- PROFILE_READ (R521): An MC command copies a profile record into a host buffer. -/
  | profileRead (c : McCall)
  /-- CLEAR_BOOT_COUNT (R521): An MC command writes a boot-counter record of 0. -/
  | clearBootCount (c : McCall)
  /-- ENTER_STRONGBOX (R508): An MC command requests strongbox mode for the next start. -/
  | enterStrongbox (c : McCall)
  /-- FUSE_SVN (R502): An authorised MC command blows anti-rollback fuses up to its argument. -/
  | fuseSvn (c : McCall)
  /-- REVOKE_SLOT (R503): An authorised MC command blows the revocation fuse of a key slot. -/
  | revokeSlot (c : McCall)
  /-- DIAG_TRAIN (R521): An MC command runs stack training on one stack and writes a 64-byte report. -/
  | diagTrain (c : McCall) (bad : List Nat)
  /-- DIAG_PORT (R521): An MC command runs the internal loopback test on one port and writes a 64-byte report. -/
  | diagPort (c : McCall) (lanes : List LaneTest)
  /-- RECORD_READ (R521): An MC command copies part of the flash record store into a host buffer. -/
  | recordRead (c : McCall)
  /-- UNDEFINED_MC_OP (R522): An MC command with an undefined OP completes with RESULT OPCODE. -/
  | undefinedMcOp (op : Nat) (c : McCall)
  /-- MCTP_REQUEST (R520): An MCTP message arrives over SMBus or CXL vendor messages and is served, or is answered BUSY while a command runs. -/
  | mctpRequest (m : MctpMessage)
  /-- SESSION_TIMEOUT (R505): After 60 s without a command, the update session closes. -/
  | sessionTimeout
  /-- DOE_OBJECT (R491): A data object arrives in the DOE mailbox and is served by its protocol, or is discarded with Error when too long. -/
  | doeObject (o : DoeObject)
  /-- IDE_FAIL (R492): An IDE integrity failure puts the stream in the insecure state and discards the failing data. -/
  | ideFail (mem : Bool)
  /-- CXL_MEM_READ (R473): A host CXL.mem read is performed as an access to its stack-form address. -/
  | cxlMemRead (hpa : Nat) (ecc : Ecc)
  /-- CXL_MEM_WRITE (R473): A host CXL.mem write is performed at its stack-form address and acknowledged when accepted at its point of coherence. -/
  | cxlMemWrite (hpa : Nat) (data : List Byte)
  /-- SUBMISSION_LINE_SNOOP (R475): A host write to a submission-ring line snoops that line out of the device cache. -/
  | submissionLineSnoop (addr : Nat) (line : List Byte)
  /-- AUX_POWER_UP (R498): The auxiliary supply becomes valid; MC leaves reset, TB TIME starts and the boot ROM replays the record store. -/
  | auxPowerUp (identityOk : Bool)
  /-- AUX_POWER_LOSS (R550): The auxiliary supply is removed and the auxiliary-domain state is lost. -/
  | auxPowerLoss
  /-- PWR_GOOD (R536): PWR_GOOD asserts with P54 in range and the main regulators start. -/
  | pwrGood
  /-- PWR_GOOD_DEASSERT (R537): PWR_GOOD is deasserted and the main regulators switch off, a loss of power when PERST_N is released. -/
  | pwrGoodDeassert
  /-- P54_UNDERVOLTAGE (R537): P54 below 43 V for more than 100 µs switches off the main regulators, a loss of power. -/
  | p54Undervoltage (value : Nat)
  /-- P54_OVERVOLTAGE (R537): P54 above 59 V switches off the main regulators, a loss of power. -/
  | p54Overvoltage (value : Nat)
  /-- PERST_RELEASE (R498): PERST_N is released; MC samples the profile selection and the start sequence begins. -/
  | perstRelease (pins : Nat)
  /-- PERST_ASSERT (R470): PERST_N is asserted and the whole device restarts, losing volatile state. -/
  | perstAssert
  /-- CXL_RESET (R470): A hot reset, link disable or CXL Reset restarts the whole device as PERST_N does. -/
  | cxlReset
  /-- FUNCTION_LEVEL_RESET (R470): A function level reset disables every ring pair at once and resets HI, the MSI-X table and the device cache. -/
  | functionLevelReset
  /-- CXL_LINK_TRAINED (R498): The CXL link trains and configuration space and BAR0 answer. -/
  | cxlLinkTrained (width speed : Nat)
  /-- IMAGE_VERIFY (R500): The boot ROM completes verification of the firmware image and loads it, or sends the start into strongbox mode. -/
  | imageVerify (readOk : Bool)
  /-- MEMORY_TRAINING (R346): A stack controller completes interface training with lane sparing, or fails it. -/
  | memoryTraining (stack : Nat) (bad : List Nat)
  /-- PROFILE_APPLY (R510): Firmware applies the profile's register entries in order, waiting for each enable's assay. -/
  | profileApply
  /-- DEVICE_READY (R498): Firmware declares ready; the boot counter returns to 0 and DEV STATE reads 0x1. -/
  | deviceReady
  /-- BOOT_RESTART (R507): After a counted failure MC restarts the device from step 5 of the start. -/
  | bootRestart
  /-- BOOT_WATCHDOG (R508): Step 10 is not reached within 10 s of PERST_N release and the start fails with WATCHDOG. -/
  | bootWatchdog
  /-- RECORD_WRITE (R515): MC writes one committed record into erased flash of the record store. -/
  | recordWrite (torn : Bool)
  /-- COMPACTION (R517): MC compacts the record store into its other half when the active half passes 12 MiB. -/
  | compaction
  /-- DESCRIPTOR_FETCH (R479): The device fetches the descriptors between SQ_HEAD and the latched tail and offers them for admission. -/
  | descriptorFetch (ring : Nat) (linkError : Bool)
  /-- ADMIT (R301): A ledger admits a descriptor when room allows, checks its header, logs it or refuses it. -/
  | admission (ring : Nat)
  /-- TABLE_SWITCH (R189): A TABLE_SWITCH task is applied at admission, moving the current version to draining and installing the new one. -/
  | tableSwitch (ring : Nat)
  /-- CTX_SET (R323): A CTX_SET task defines, changes or removes a context table entry at its admission. -/
  | ctxSet (ring : Nat)
  /-- JOIN (R312): A JOIN task ends OK or SKIPPED when its up to 24 edges allow. -/
  | join (seq : Nat)
  /-- MARK (R311): A MARK task ends when its edges are satisfied, giving software a record. -/
  | mark (seq : Nat)
  /-- COND (R314): A control core evaluates a COND task's comparison on a summary, flag, status or tally. -/
  | cond (seq cc : Nat) (agree : Bool)
  /-- RETRY (R142): A control core evaluates a retry scope's error metrics and releases the scope or re-admits it widened. -/
  | retry (seq cc : Nat) (agree : Bool)
  /-- DELAY_TICK (R318): A tick boundary of a delay list releases every entry whose window has ended. -/
  | delayTick (q list time : Nat)
  /-- DEADLINE_EXPIRY (R320): TB TIME reaches a task's deadline and the task ends EXPIRED at its next unit boundary. -/
  | deadlineExpiry (seq : Nat)
  /-- TASK_DISPATCH (R307): The ledger places the head ready task in a free till of an engine that can take it. -/
  | taskDispatch (q : Nat)
  /-- TASK_COMPLETE (R34): An engine reports a task complete to its ledger after all its writes have been accepted. -/
  | taskComplete (u : UnitId)
  /-- COMPLETION_RECORD (R481): A completion record is written into its completion ring when the ring has room. -/
  | completionRecord (ring : Nat) (linkOk : Bool)
  /-- STATUS_LINE_WRITE (R482): The device writes a ring pair's status line after a change of its fields. -/
  | statusLineWrite (ring : Nat) (linkOk : Bool)
  /-- RING_COALESCE (R486): COAL_US passes since the first unsignalled record and the ring pair sends its MSI-X message. -/
  | ringCoalesce (ring : Nat)
  /-- ERROR_RECORD (R489): An error record is written to the error ring, or dropped and counted when the ring is full. -/
  | errorRecord
  /-- TABLE_DRAINED (R191): A draining table version's reference count has reached 0, and the ledger writes a TABLE_DRAINED record. -/
  | tableDrained (table version : Nat)
  /-- MATMUL (R167): A matrix array runs a MATMUL task in row tiles over its operands. -/
  | matmul (ma : Nat)
  /-- PIN (R163): A matrix array copies bytes into its pinned area. -/
  | pin (ma : Nat)
  /-- ROW_TILE_CHECK (R168): At the end of a row tile the array runs the residue check and drains the tile if it passes. -/
  | rowTileCheck (ma : Nat) (bad : List Nat)
  /-- RESIDUE_RECOMPUTE (R174): The array completes a second run of a mismatching row tile and drains it or passes it to the partner. -/
  | residueRecompute (ma : Nat) (bad : List Nat)
  /-- PARTNER_RUN (R174): A partner array runs a mismatching row tile, drains it on a pass and spares or retires the failing array. -/
  | partnerRun (ma : Nat) (bad : List Nat)
  /-- CONVERT (R124): A codec engine converts a tensor through decode, scale, optional rotation, quantisation and tally. -/
  | convert (qc : Nat)
  /-- PRUNE24 (R243): A codec engine keeps the two largest of every four elements and writes 2:4 form and metadata. -/
  | prune24 (qc : Nat)
  /-- COMPRESS (R244): A codec engine converts a tensor and emits each tile as a RAW, CSR or BITMAP record. -/
  | compress (qc : Nat)
  /-- DECOMPRESS (R247): A codec engine expands a tile stream into a dense tensor. -/
  | decompress (qc : Nat)
  /-- GATHER (R196): A gather engine copies the table row at each position to its output. -/
  | gather (ge : Nat)
  /-- POOL_SUM (R196): A gather engine writes the element-wise sum of the rows of each segment. -/
  | poolSum (ge : Nat)
  /-- POOL_MEAN (R196): A gather engine writes the mean of the rows of each segment. -/
  | poolMean (ge : Nat)
  /-- UNIQUE (R207): A gather engine reduces gradient rows per distinct index. -/
  | unique (ge : Nat)
  /-- SCATTER (R208): A gather engine writes source rows to the table rows named at each position. -/
  | scatter (ge : Nat)
  /-- COALESCE_PROBE (R201): A position probes the coalescing region at the vault bank and claims or matches an entry. -/
  | coalesceProbe (ge : Nat)
  /-- COALESCE_ENTRY_FILLED (R201): A pending coalescing entry leaves state 1 and the waiting positions proceed. -/
  | coalesceEntryFilled (ge : Nat)
  /-- FRAGMENT_TAKE (R233): A free gather engine takes a fragment from its quarter's fragment pool and runs it. -/
  | fragmentTake (ge : Nat)
  /-- SPLIT_SLOT_DECREMENT (R205): A fragment's engine decrements REMAINING of a split slot; the one that reaches 0 writes the output row. -/
  | splitSlotDecrement (ge : Nat)
  /-- REDUCE (R225): A merge engine sums keyed records on the dense path or the sort-and-merge path. -/
  | reduce (engine : Nat) (order : List Nat)
  /-- PREDICT (R236): A predictor engine runs its network per token and writes the index lists of selected groups. -/
  | predict (engine : Nat) (once : List Nat) (twice : Option Nat)
  /-- RUN (R261): A vector engine checks and runs its program ITERS times. -/
  | run (ve : Nat)
  /-- WPOOL (R288): A vector engine computes the weighted sum of rows of each segment. -/
  | wpool (ve : Nat)
  /-- TILE_HANDOFF (R281): A matrix array hands a passing row tile with DEST VECTOR to its coupled vector engine. -/
  | tileHandoff (ma : Nat)
  /-- END_MARKER (R284): A source matrix task ends in error and its array hands an end marker, which ends the vector task with SOURCE. -/
  | endMarker (ma : Nat)
  /-- NOP (R266): Vector instruction that does nothing. -/
  | nop (ve : Nat)
  /-- SETVL (R254): Vector instruction that sets the vector length. -/
  | setvl (ve : Nat)
  /-- LDI (R266): Vector instruction that loads an immediate into each active lane. -/
  | ldi (ve : Nat)
  /-- LANEID (R266): Vector instruction that writes each lane's index. -/
  | laneid (ve : Nat)
  /-- FLAGRD (R280): Vector instruction that writes each lane's flags. -/
  | flagrd (ve : Nat)
  /-- SUMM (R289): Vector instruction that updates a summary word from one lane. -/
  | summ (ve : Nat)
  /-- LD (R268): Vector instruction that performs a strided load. -/
  | ld (ve : Nat)
  /-- ST (R268): Vector instruction that performs a strided store. -/
  | st (ve : Nat)
  /-- LDX (R268): Vector instruction that performs an indexed load. -/
  | ldx (ve : Nat)
  /-- STX (R269): Vector instruction that performs an indexed store. -/
  | stx (ve : Nat)
  /-- STXADD (R269): Vector instruction that performs an indexed add into scratchpad memory. -/
  | stxadd (ve : Nat)
  /-- ACCRD (R282): Vector instruction that reads an accumulator pair of the bound tile; the last one in program order releases the tile. -/
  | accrd (ve : Nat)
  /-- FADD (R267): Vector FP32 addition. -/
  | fadd (ve : Nat)
  /-- FSUB (R267): Vector FP32 subtraction. -/
  | fsub (ve : Nat)
  /-- FMUL (R267): Vector FP32 multiplication. -/
  | fmul (ve : Nat)
  /-- FMA (R267): Vector FP32 fused multiply-add. -/
  | fma (ve : Nat)
  /-- FMIN (R267): Vector FP32 minimum. -/
  | fmin (ve : Nat)
  /-- FMAX (R267): Vector FP32 maximum. -/
  | fmax (ve : Nat)
  /-- FABS (R266): Vector FP32 absolute value. -/
  | fabs (ve : Nat)
  /-- FNEG (R266): Vector FP32 negation. -/
  | fneg (ve : Nat)
  /-- FDIV (R266): Vector FP32 division, correctly rounded. -/
  | fdiv (ve : Nat)
  /-- FSQRT (R266): Vector FP32 square root, correctly rounded. -/
  | fsqrt (ve : Nat)
  /-- FCMP (R267): Vector FP32 comparison. -/
  | fcmp (ve : Nat)
  /-- SEL (R266): Vector bitwise select. -/
  | sel (ve : Nat)
  /-- EXP (R119): Vector approximated exponential. -/
  | exp (ve : Nat)
  /-- EXP2 (R119): Vector approximated power of two. -/
  | exp2 (ve : Nat)
  /-- LOG (R119): Vector approximated natural logarithm. -/
  | log (ve : Nat)
  /-- LOG2 (R119): Vector approximated base-2 logarithm. -/
  | log2 (ve : Nat)
  /-- RCP (R119): Vector approximated reciprocal. -/
  | rcp (ve : Nat)
  /-- RSQRT (R119): Vector approximated reciprocal square root. -/
  | rsqrt (ve : Nat)
  /-- TANH (R119): Vector approximated hyperbolic tangent. -/
  | tanh (ve : Nat)
  /-- SIGMOID (R119): Vector approximated sigmoid. -/
  | sigmoid (ve : Nat)
  /-- ERF (R119): Vector approximated error function. -/
  | erf (ve : Nat)
  /-- IADD (R267): Vector INT32 addition. -/
  | iadd (ve : Nat)
  /-- ISUB (R267): Vector INT32 subtraction. -/
  | isub (ve : Nat)
  /-- IMUL (R267): Vector INT32 multiplication. -/
  | imul (ve : Nat)
  /-- IMIN (R266): Vector signed INT32 minimum. -/
  | imin (ve : Nat)
  /-- IMAX (R266): Vector signed INT32 maximum. -/
  | imax (ve : Nat)
  /-- AND (R266): Vector bitwise AND. -/
  | and (ve : Nat)
  /-- OR (R266): Vector bitwise OR. -/
  | or (ve : Nat)
  /-- XOR (R266): Vector bitwise XOR. -/
  | xor (ve : Nat)
  /-- SHL (R266): Vector shift left. -/
  | shl (ve : Nat)
  /-- SHR (R266): Vector logical shift right. -/
  | shr (ve : Nat)
  /-- SRA (R266): Vector arithmetic shift right. -/
  | sra (ve : Nat)
  /-- ICMP (R266): Vector integer comparison. -/
  | icmp (ve : Nat)
  /-- CVTFI (R267): Vector conversion of FP32 to integer with clamping. -/
  | cvtfi (ve : Nat)
  /-- CVTIF (R267): Vector conversion of integer to FP32. -/
  | cvtif (ve : Nat)
  /-- QNT (R267): Vector rounding to a narrower format, kept as FP32. -/
  | qnt (ve : Nat)
  /-- PERM (R271): Vector lane permutation. -/
  | perm (ve : Nat)
  /-- CMPRS (R271): Vector packing of active lanes. -/
  | cmprs (ve : Nat)
  /-- EXPND (R271): Vector unpacking into active lanes. -/
  | expnd (ve : Nat)
  /-- SCAN (R273): Vector segmented prefix operation. -/
  | scan (ve : Nat)
  /-- RED (R274): Vector segmented reduction issued to the reduction unit. -/
  | red (ve : Nat)
  /-- RED_RESULT (R276): The reduction unit writes a RED result 16 clocks after issue. -/
  | redResult (ve : Nat)
  /-- SMAX (R277): Vector segmented soft maximum. -/
  | smax (ve : Nat)
  /-- EXCHANGE (R412): A clearing engine runs an all-to-all exchange round of rows by owner. -/
  | exchange (cl : Nat)
  /-- MIGRATE (R405): A clearing engine copies an extent from the pool to this device. -/
  | migrate (cl : Nat)
  /-- ALL_REDUCE (R417): A collective engine runs a ring all-reduce. -/
  | allReduce (co : Nat)
  /-- ALL_GATHER (R417): A collective engine runs a ring all-gather. -/
  | allGather (co : Nat)
  /-- REDUCE_SCATTER (R417): A collective engine runs a ring reduce-scatter. -/
  | reduceScatter (co : Nat)
  /-- BARRIER (R417): A collective engine sends one token around the ring twice. -/
  | barrier (co : Nat)
  /-- PEER_STALL (R418): A member waits longer than PROGRESS_US times the slowdown factor for a step's data and reports a fault. -/
  | peerStall (co : Nat)
  /-- BATCH_NS (R410): BATCH_NS passes since an open batch's first entry and the batch is sent as one message. -/
  | batchNs (batch : Nat)
  /-- RTS_RETRY (R412): 20 µs after a BUSY refusal the sender offers its RTS again. -/
  | rtsRetry (cl : Nat)
  /-- READ_REQ (R403): A read request message arrives and the owner answers with one READ_RSP of compressed rows. -/
  | readReq
  /-- READ_RSP (R397): A read response message arrives and its rows are decoded into the requesting engine's reply buffer. -/
  | readRsp
  /-- WRITE_REQ (R396): A write request message arrives and the owner writes its rows, then sends WRITE_ACK. -/
  | writeReq
  /-- WRITE_ACK (R396): A write acknowledgement arrives and the sender counts its remote writes complete. -/
  | writeAck
  /-- EXCH_DATA (R412): Exchange data arrives and the receiver writes the rows at the granted offset. -/
  | exchData
  /-- EXCH_ACK (R412): An exchange acknowledgement arrives and the sender's send is complete. -/
  | exchAck
  /-- RTS (R412): A request to send arrives and is granted, held, refused for capacity or refused as BUSY. -/
  | rts
  /-- CTS (R412): A clear to send arrives and the sender sends its rows or skips the destination. -/
  | cts
  /-- COLL_DATA (R417): Collective operands arrive from the ring predecessor. -/
  | collData
  /-- COLL_ACK (R417): A collective step completion arrives. -/
  | collAck
  /-- COMMIT_VOTE (R440): A commit token of PHASE VOTE arrives: an early-close request, a close order or a subtree's drained vote. -/
  | commitVote
  /-- COMMIT_COMMIT (R444): A commit token of PHASE COMMIT arrives: the epoch commits, or, naming EX COMMITTED, re-execution resumes. -/
  | commitCommit
  /-- COMMIT_ABORT (R454): A commit token of PHASE ABORT arrives: a fault report, an abort order or a subtree's restore report. -/
  | commitAbort
  /-- COMMIT_START (R441): A commit token of PHASE START arrives: a subtree is ready, or epoch EPOCH_BASE opens. -/
  | commitStart
  /-- SLOW (R418): A SLOW message arrives and the receiver uses the sender's slowdown factor from then on. -/
  | slow
  /-- SYNC (R421): A SYNC message arrives; a follower corrects TIME and forwards it, and a grandmaster sets DUAL_MASTER. -/
  | sync (errEst rate : Nat)
  /-- DELAY_REQ (R421): A link delay request arrives and the peer answers with DELAY_RSP. -/
  | delayReq
  /-- DELAY_RSP (R421): A link delay response arrives and the follower computes the link delay. -/
  | delayRsp
  /-- INVAL (R408): An invalidation arrives, the receiver frees its replicas of the granules and answers INVAL_ACK. -/
  | inval
  /-- INVAL_ACK (R408): An invalidation acknowledgement arrives; after the last one the owner accepts the hot-extent write. -/
  | invalAck
  /-- REPLICA_INSTALL (R406): A hot granule's fetch into a replica slot completes and the replica becomes valid. -/
  | replicaInstall
  /-- DATA_FRAME (R386): A data frame arrives and is accepted when good and in order, or discarded with NAK. -/
  | dataFrame (port : Nat) (f : Frame)
  /-- IDLE_FRAME (R387): An idle frame arrives carrying ACK, NAK, credits and repair requests. -/
  | idleFrame (port : Nat) (f : Frame)
  /-- IDENTITY_FRAME (R382): An identity frame arrives and the link comes up or is declared a mismatch. -/
  | identityFrame (port : Nat) (frame : Identity)
  /-- LINK_TRAINING (R382): A port's training on enable or PERST_N release completes and the link comes up or fails. -/
  | linkTraining (port : Nat) (lanes : List LaneTest)
  /-- LINK_SILENCE (R387): A link receives no good frame, or no ACK progress, for 2 ms and retrains. -/
  | linkSilence (port : Nat)
  /-- RETRAINING_COMPLETE (R383): A retraining completes and the transmitter replays from ACK + 1, or the link fails after three failures. -/
  | retrainingComplete (port : Nat) (ok : Bool)
  /-- SER_WINDOW (R384): A 1 ms window ends with a lane over SER_LIMIT or four uncorrectable codewords, and repair is requested. -/
  | serWindow (port lane : Nat) (m : LaneTest)
  /-- LANE_REPAIR (R384): After 64 good codewords on the spare, the receiver takes the lane from the spare. -/
  | laneRepair (port : Nat)
  /-- STACK_ACCESS (R341): A stack controller serves a sector access under its regulators, correcting or poisoning on ECC errors. -/
  | stackAccess (req : MemReq) (ecc : Ecc)
  /-- SCRUB_READ (R343): The controller reads a sector in its scrub period and treats its errors. -/
  | scrubRead (stack sector : Nat) (ecc : Ecc)
  /-- ROW_REMAP (R349): A row that met a remap trigger is copied into a spare row and replaced. -/
  | rowRemap (stack : Nat)
  /-- PAGE_RETIRE (R350): The device pages of a failing row in a bank without spares are moved to hidden spare pages. -/
  | pageRetire (stack : Nat) (pages : List Nat)
  /-- VAULT_ACCESS (R358): A vault-form access is served by a scratchpad bank, or returns zeros and sets MODE_ACCESS. -/
  | vaultAccess (req : MemReq) (ue : Bool)
  /-- ACCUMULATE (R36): An accumulation contribution is applied at its scratchpad bank as a read-modify-write. -/
  | accumulate (bank offset : Nat) (seq : Nat) (float : Bool) (values : List Nat)
  /-- CACHE_ACCESS (R360): An access passes through its selected cache-mode bank; a write enters the merging buffer. -/
  | cacheAccess (req : MemReq) (ue : Bool)
  /-- CACHE_FILL (R360): A read miss's fill returns from the stack, allocating a line and evicting another. -/
  | cacheFill (addr : Nat) (victim : Nat) (pathBusy : Bool)
  /-- MERGE_DRAIN (R361): The oldest merging-buffer entry drains to the stack controller. -/
  | mergeDrain (bank : Nat) (ue : Bool)
  /-- SENSOR_SAMPLE (R532): PW samples every sensor and stack controllers set refresh, throttle and factor from the readings. -/
  | sensorSample (readings : List Nat)
  /-- THERMAL_TRIP (R534): A stack reaches 110 °C or a junction 115 °C; THERM_TRIP_N asserts and the regulators switch off. -/
  | thermalTrip (sensor value : Nat)
  /-- POWER_MEASURE (R529): The power manager measures busbar input power every 10 µs. -/
  | powerMeasure (watts mv centiamps auxMv auxMw : Nat)
  /-- CAP_STEP (R529): Every 100 µs the power manager lowers or raises scaled island clocks by one step against the cap. -/
  | capStep
  /-- JUNC_THROTTLE (R533): Every 100 µs a quarter at 100 °C or above has its islands lowered one step, or raised when cooler. -/
  | juncThrottle (q : Nat)
  /-- CAP_UNMET (R530): All scaled islands at their floors still leave the average above CAP for 10 ms, and CAP_UNMET sets. -/
  | capUnmet
  /-- CC_WATCHDOG (R334): The firmware watchdog of a control-core pair expires, a detected fault. -/
  | ccWatchdog (cc : Nat)
  /-- CLOSE_INSTANT (R443): Device time reaches the close instant and the ledgers cut the epoch and start its drain. -/
  | closeInstant
  /-- DRAIN_COMPLETE (R444): Every task of the closing epoch has ended and its writes are accepted, and the device votes. -/
  | drainComplete
  /-- FAULT_REPORT (R454): A unit reports a detected fault; the device contains itself and sends ABORT toward the root. -/
  | faultReport (unit : UnitId) (kind : Nat)
  /-- FABRIC_DRAIN (R454): The device completes or discards the messages in flight and empties its retry buffers. -/
  | fabricDrain
  /-- RESTORE (R454): Each quarter completes the restore of escrowed state, caches, tallies, tables and ledgers. -/
  | restore (q : Nat)
  /-- DIAGNOSIS (R454): Firmware completes self-tests of the faulting units and retires units under R451. -/
  | diagnosis (failed : List UnitId)
  /-- RESUME_LIMIT (R459): The root lacks a restore report 30 s after its ABORT and declares a domain fault. -/
  | resumeLimit
  /-- P54_WITHIN_RANGE (R536): P54 comes into its operating range, before or after the auxiliary supply, and the main regulators start if PWR_GOOD is already asserted. -/
  | p54WithinRange
  /-- LOSS_OF_DESKEW (R383): A port's receiver loses deskew of its lanes and a retraining starts. -/
  | lossOfDeskew (port : Nat)
  /-- LOSS_OF_LOCK (R384): A receiver finds that a logical lane has lost lock and asks for that lane to be moved to the spare. -/
  | lossOfLock (port lane : Nat)
  /-- LOOPBACK_SELFTEST (R498): Firmware completes the internal loopback self-test of every port at boot step 8, and a profile-enabled port passing fewer than eight lanes is a counted FABRIC_SELFTEST failure. -/
  | loopbackSelftest (failed : List Nat)
  /-- MC_FIRMWARE_WATCHDOG (R508): MC's firmware watchdog expires during a start, and the start fails as a counted WATCHDOG failure. -/
  | mcFirmwareWatchdog
  deriving DecidableEq, Repr

end Sys2Proof
end

