-- ==== Sys2Proof/Decode.lean ====
section
/-! DEFINITION. Words as commands. The rows of the opcode table give no bits (each row's list of fields is empty), so no word
spells a command. -/

namespace Sys2Proof

/-- The command a word spells by the table's bits: none, since no row has any. -/
def decodeTableWord (_nbits _w : Nat) : Option Instr := none

end Sys2Proof
end

