-- ==== Sys2Proof/Machine/Bits.lean ====
section
/-! DEFINITION. Bit fields of a register, little-endian bytes, saturating counts, and the operations of a sparse table. -/

namespace Sys2Proof.Machine

open Sys2Proof

/-! ### Bit fields -/

/-- Bits `[hi:lo]` of a natural number. -/
def natField (n hi lo : Nat) : Nat := (n / 2 ^ lo) % 2 ^ (hi + 1 - lo)

/-- Bits `[hi:lo]` of a register. -/
def field (w : Word) (hi lo : Nat) : Nat := natField w.toNat hi lo

/-- Bit `b` of a register. -/
def bitOf (w : Word) (b : Nat) : Bool := w.getLsbD b

/-- The mask of bits `[hi:lo]`. -/
def maskOf (hi lo : Nat) : Word := BitVec.ofNat 64 ((2 ^ (hi + 1 - lo) - 1) * 2 ^ lo)

/-- A register with bits `[hi:lo]` replaced by the low bits of `v`. -/
def putField (w : Word) (hi lo v : Nat) : Word :=
  (w &&& ~~~ maskOf hi lo) ||| (BitVec.ofNat 64 ((v % 2 ^ (hi + 1 - lo)) * 2 ^ lo))

/-- A register with the bits of `mask` taken from `v`. -/
def mergeMask (mask w v : Word) : Word := (w &&& ~~~ mask) ||| (v &&& mask)

/-- A two's complement reading of the low `n` bits. -/
def signedOf (n v : Nat) : Int :=
  if v % 2 ^ n < 2 ^ (n - 1) then (v % 2 ^ n : Nat) else ((v % 2 ^ n : Nat) : Int) - (2 ^ n : Nat)

/-- The low `n` bits of an integer. -/
def unsignedOf (n : Nat) (v : Int) : Nat := (v % ((2 ^ n : Nat) : Int)).toNat

/-- One or zero. -/
def bit (b : Bool) : Nat := if b then 1 else 0

/-- A count that stops at all ones of its width (R62, R76 and the saturating counts of the register tables). -/
def satAdd (width a n : Nat) : Nat := min (a + n) (2 ^ width - 1)

/-- A number rounded up to a multiple. -/
def roundUp (n m : Nat) : Nat := (n + m - 1) / m * m

/-- Ceiling division. -/
def ceilDiv (n m : Nat) : Nat := (n + m - 1) / m

/-- log2 of a power of two, 0 for anything else. -/
def isPow2 (n : Nat) : Bool := n ≠ 0 && 2 ^ n.log2 = n

/-! ### Bytes -/

/-- `n` little-endian bytes of a number (R298: multi-byte fields are little-endian). -/
def leBytes : Nat → Nat → List Byte
  | 0, _ => []
  | n + 1, v => BitVec.ofNat 8 v :: leBytes n (v / 256)

/-- The number little-endian bytes spell. -/
def ofLE : List Byte → Nat
  | [] => 0
  | b :: bs => b.toNat + 256 * ofLE bs

/-- `n` bytes of a list from an offset; bytes beyond its end read 0. -/
def slice (bs : List Byte) (off n : Nat) : List Byte :=
  (List.range n).map fun k => bs.getD (off + k) 0

/-- A little-endian field of a byte list. -/
def leAt (bs : List Byte) (off n : Nat) : Nat := ofLE (slice bs off n)

/-- A byte list with one part replaced; the length stays. -/
def splice (bs : List Byte) (off : Nat) (new : List Byte) : List Byte :=
  bs.mapIdx fun k b => if off ≤ k ∧ k < off + new.length then new.getD (k - off) b else b

/-- Consecutive pieces of `n` elements, at most `count` of them. -/
def pieces {α : Type} (n : Nat) : Nat → List α → List (List α)
  | 0, _ => []
  | c + 1, bs => bs.take n :: pieces n c (bs.drop n)

/-- A list of zero bytes. -/
def zeros (n : Nat) : List Byte := List.replicate n 0

/-! ### Sparse tables -/

/-- The entry of a key, if listed. -/
def tblFind {α : Type} : Table α → Nat → Option α
  | [], _ => none
  | (k', v) :: t, k => if k' = k then some v else tblFind t k

/-- What a key reads as: its entry, or the default of an unlisted key. -/
def tblGet {α : Type} (d : Nat → α) (m : Table α) (k : Nat) : α := (tblFind m k).getD (d k)

/-- A table without a key. -/
def tblErase {α : Type} : Table α → Nat → Table α
  | [], _ => []
  | (k', v) :: t, k => if k' = k then tblErase t k else (k', v) :: tblErase t k

/-- A table with one entry placed in key order. -/
def tblInsert {α : Type} : Table α → Nat → α → Table α
  | [], k, v => [(k, v)]
  | (k', v') :: t, k, v =>
    if k < k' then (k, v) :: (k', v') :: t
    else if k = k' then (k, v) :: t
    else (k', v') :: tblInsert t k v

/-- Writes a key. Writing what an unlisted key reads as removes the entry, so that equal tables are equal data. -/
def tblSet {α : Type} [DecidableEq α] (d : Nat → α) (m : Table α) (k : Nat) (v : α) : Table α :=
  if v = d k then tblErase m k else tblInsert m k v

/-- A table without the keys in `[lo, lo + n)`. -/
def tblClear {α : Type} (m : Table α) (lo n : Nat) : Table α := m.filter fun e => decide (e.1 < lo ∨ lo + n ≤ e.1)

/-- Keys strictly rising. -/
def keysRise {α : Type} : Table α → Bool
  | [] => true
  | [_] => true
  | a :: b :: t => decide (a.1 < b.1) && keysRise (b :: t)

/-- The canonical form of a table: keys strictly rising, no entry equal to the default. -/
def tblWf {α : Type} [DecidableEq α] (d : Nat → α) (m : Table α) : Bool :=
  keysRise m && m.all fun e => decide (e.2 ≠ d e.1)

/-! ### Small list helpers -/

/-- The first element that satisfies a test, with its place removed from the list. -/
def takeFirst {α : Type} (p : α → Bool) : List α → Option (α × List α)
  | [] => none
  | a :: t => if p a then some (a, t) else (takeFirst p t).map fun r => (r.1, a :: r.2)

/-- A list with the elements that satisfy a test changed. -/
def mapWhere {α : Type} (p : α → Bool) (f : α → α) (l : List α) : List α := l.map fun a => if p a then f a else a

/-- The least of a list under a key. -/
def leastBy {α : Type} (key : α → Nat) : List α → Option α
  | [] => none
  | a :: t =>
    match leastBy key t with
    | none => some a
    | some b => if key a ≤ key b then some a else some b

/-- Applies a state change `n` times, with the count so far. -/
def iter {σ : Type} (f : Nat → σ → σ) : Nat → σ → σ
  | 0, s => s
  | n + 1, s => f n (iter f n s)

/-- A left fold written for state changes. -/
def foldOver {α σ : Type} (f : α → σ → σ) : List α → σ → σ
  | [], s => s
  | a :: t, s => foldOver f t (f a s)

end Sys2Proof.Machine
end

