-- ==== Sys2Proof/Machine/Flags.lean ====
section
/-! DEFINITION. The arithmetic flags (R117) as one number: bit 0 INVALID, 1 OVERFLOW, 2 UNDERFLOW, 3 INEXACT, 4 RANGE and
5 EMPTY, the order of R280 and of the completion record (R326). -/

namespace Sys2Proof.Machine

open Sys2Proof

def flagInvalid : Nat := 1
def flagOverflow : Nat := 2
def flagUnderflow : Nat := 4
def flagInexact : Nat := 8
def flagRange : Nat := 16
def flagEmpty : Nat := 32

/-- A flag when a condition holds. -/
def flagIf (c : Bool) (f : Nat) : Nat := if c then f else 0

/-- A task's flags only ever grow (R117). -/
def orFlags (a b : Nat) : Nat := a ||| b

/-- The flags of a value rounded to a floating-point format (R117): `beyond` that it went beyond the largest finite value,
`inexact` that rounding changed it, `tiny` that the rounded result of a non-zero value is subnormal or zero. -/
def roundFlags (beyond inexact tiny : Bool) : Nat :=
  if beyond then flagOverflow ||| flagInexact else flagIf inexact flagInexact ||| flagIf (inexact && tiny) flagUnderflow

/-- The flags of a clamped or rounded integer (R113, R117). -/
def intFlags (clamped inexact : Bool) : Nat :=
  if clamped then flagOverflow ||| flagInexact else flagIf inexact flagInexact

end Sys2Proof.Machine
end

