-- ==== Sys2Proof/Config.lean ====
section
/-! DEFINITION. What one device fixes and the spec does not give: its own hashes, the bytes its own key signs, and values
the spec leaves open. Each is a constant without a body, so that a claim holds whatever it is. -/

namespace Sys2Proof.Config

open Sys2Proof

/-- The hash of a sector's stack-form address that picks its cache-mode bank: fixed, and not given (R359). -/
opaque lineHash : Nat → Nat

/-- The hash of a pool address that picks a remote line's home quarter: fixed, and not given (R367). -/
opaque homeHash : Nat → Nat

/-- A byte the spec leaves open, drawn afresh for each index: what a merge engine leaves in its spill area (R227). -/
opaque freeByte : Nat → Byte

/-- What an approximated vector function returns for an FP32 operand, by opcode and operand code: only its distance from
the exact result is bounded, and it is the same each time (R119, R278). -/
opaque approxValue : Nat → Nat → Nat

/-- The hash of a table, a version and a row that picks where a coalescing region is probed: fixed, and not given (R201). -/
opaque dedupHash : Nat → Nat → Nat → Nat

/-- The hash of an index that picks where UNIQUE's hash area is probed: not given (R207). -/
opaque uniqueHash : Nat → Nat

/-- The hash of a granule's address that picks its request counter: not given (R406). -/
opaque granuleHash : Nat → Nat

/-- The hash of a destination and an ordering key that picks among the candidate ports: fixed, and not given (R393). -/
opaque routeHash : Nat → Nat → Nat

/-- The CRC of a frame from its header bits [127:32] and its bytes: the polynomial is given, the order of the bits and the
start value are not (R380). -/
opaque frameCrc : Nat → List Byte → Nat

/-- A byte of the identity region or of the image region of the flash as the module was shipped (R497): not given. -/
opaque shippedByte : Nat → Byte

/-- The fused hash of a vendor key, by its slot (R501): 32 bytes, not given. -/
opaque keyHash : Nat → List Byte

/-- The device secret (R501): not given, and read by no one but the boot ROM. -/
opaque deviceSecret : BitVec 256

/-- The CRC of a flash record from its header bytes 0 to 11 and its body: the polynomial is given, the order of the bits and
the start value are not (R514). -/
opaque recordCrc : List Byte → Nat

/-- A reserved byte of a record's header or a byte that pads its body, by its offset in the flash (R514). -/
opaque recordFill : Nat → Byte

/-- MC NONCE, drawn afresh at each start and after each authorised command (R503). -/
opaque nonce : Nat → BitVec 64

/-- The value of measurement 1, 2, 6 or 7 from the words it is formed of: the boot ROM and the layout of the others are not
given (R519). -/
opaque measure : Nat → List Nat → List Byte

end Sys2Proof.Config
end

