-- ==== Sys2Proof/Machine/Shipped.lean ====
section
/-! DEFINITION. The form of a record of the flash store (R514 to R516), and the four profile records every module is shipped
with (R510, R557). -/

namespace Sys2Proof.Machine

open Sys2Proof

/-- The identity and image regions of the flash as shipped (R497): they hold what the factory wrote; what lies between is
erased. -/
def flashDefault (a : Nat) : Byte :=
  if a < 0x100000 ∨ 0x1000000 ≤ a ∧ a < 0x2000000 then Config.shippedByte a else 0xFF

/-- The first byte of a half of the record store, and its length (R497). -/
def halfBase (half : Nat) : Nat := 0x2000000 + half % 2 * 0x1000000
def halfBytes : Nat := 0x1000000

/-- The bytes a record takes: its header and its padded body (R514). -/
def recordSize (bodyBytes : Nat) : Nat := 32 + roundUp bodyBytes 32

/-- Bytes `n` of record fill from an offset of the flash: the spec does not give them (R514). -/
def fillBytes (at_ n : Nat) : List Byte := (List.range n).map fun k => Config.recordFill (at_ + k)

/-- The bytes of a record at a flash offset, with its COMMIT byte (R514). -/
def recordBytes (at_ type seq : Nat) (body : List Byte) (commit : Byte) : List Byte :=
  let head := leBytes 2 type ++ leBytes 2 body.length ++ leBytes 8 seq
  let pad := roundUp body.length 32 - body.length
  head ++ leBytes 4 (Config.recordCrc (head ++ body)) ++ fillBytes (at_ + 16) 15 ++ [commit] ++ body ++
    fillBytes (at_ + 32 + body.length) pad

/-- The body of a profile record (R510). -/
def profileBody (index level lock : Nat) (entries : List (Nat × Nat)) : List Byte :=
  leBytes 1 index ++ leBytes 1 level ++ leBytes 2 lock ++ leBytes 4 entries.length ++ zeros 24 ++
    entries.flatMap fun e => leBytes 4 e.1 ++ zeros 4 ++ leBytes 8 e.2

/-- The entry that enables each present unit of a quarter type, `n` of them in a quarter. -/
def enableAll (present : Nat → Nat → Bool) (ty n : Nat) : List (Nat × Nat) :=
  (List.range 4).flatMap fun q => ((List.range n).filter (present ty)).map fun i =>
    (q * 0x800000 + ty * 0x10000 + i * 0x1000 + 0x10, 1)

/-- The entry that enables a device-wide unit. -/
def enableWide (ty : Nat) : Nat × Nat := (0x2000000 + (ty - 0x20) * 0x10000 + 0x10, 1)

/-- The admission log of a quarter, then its ledger (R557). -/
def shippedLedger (q : Nat) : List (Nat × Nat) :=
  let page := q * 0x800000 + 0x9 * 0x10000
  [(page + 0x128, 3 * q * 2 ^ 37 + 79995805696), (page + 0x130, 0x400000), (page + 0x10, 1)]

/-- The entries of a shipped profile (R557), every block after the blocks it requires. The registers that keep their reset
values need no entry. -/
def shippedEntries (present : Nat → Nat → Bool) : List (Nat × Nat) :=
  let on (ty n : Nat) : List (Nat × Nat) := enableAll present ty n
  [enableWide 0x25, enableWide 0x23, enableWide 0x24] ++ on 0x0C 12 ++
    [(0x2060128, 2 ^ 63 + 2 ^ 32), enableWide 0x26] ++ on 0x0B 3 ++ on 0x0A 4 ++ on 0x0E 1 ++
    (List.range 4).flatMap shippedLedger ++ on 0x07 1 ++ on 0x08 1 ++ on 0x01 12 ++ on 0x02 12 ++ on 0x03 6 ++ on 0x04 3 ++
    on 0x05 2 ++ on 0x06 2 ++ on 0x0D 2 ++ [enableWide 0x21]

/-- A record as a half of the store holds it: its type, its SEQ, its body, and whether it is torn, its COMMIT byte still
erased (R514, R515). -/
structure Stored where
  type : Nat
  seq : Nat
  body : List Byte
  torn : Bool := false
  deriving DecidableEq, Repr

/-- The bytes of a half, its records one after the other from a flash offset on. -/
def halfImage : Nat → List Stored → List Byte
  | _, [] => []
  | at_, r :: t => recordBytes at_ r.type r.seq r.body (if r.torn then 0xFF else 0) ++ halfImage (at_ + recordSize r.body.length) t

/-- What the record store of a module holds when it is shipped: generation 1 in half 0, with its half-start record, the four
profiles and its compaction-done record. -/
def shippedStore (present : Nat → Nat → Bool) : List Stored :=
  let body (k : Nat) : List Byte := profileBody k 2 0 (shippedEntries present)
  [⟨0x0007, 1, leBytes 4 1, false⟩, ⟨0x0005, 2, body 0, false⟩, ⟨0x0005, 3, body 1, false⟩, ⟨0x0005, 4, body 2, false⟩,
    ⟨0x0005, 5, body 3, false⟩, ⟨0x0008, 6, leBytes 4 1, false⟩]

end Sys2Proof.Machine
end

