-- ==== Sys2Proof/Machine/State.lean ====
section
/-! DEFINITION. The state of the block as plain data: every register, memory, queue, counter, mode and pin the spec gives
it, and the queue of commands that wait. Operations on it are in the files beside this one. -/

namespace Sys2Proof.Machine

open Sys2Proof

/-! ### Reasons a step can stop -/

/-- No command of this block stops the machine with a fault: every condition the spec names ends in a register, a record
or a recovery, which is a next state. The type has no constructor, so that this is a fact of the type. Safe. -/
inductive Fault where
  deriving DecidableEq, Repr

/-- Why a step answers no next state. -/
inductive Refusal where
  /-- Raised by an arm of `exec` whose command has no meaning yet. Safe: nothing is claimed of such a command. -/
  | notModelled (mnemonic : String)
  deriving DecidableEq, Repr

/-! ### Registers, time base and tallies -/

/-- The time base (R79 to R84). `lockedOnce` says that a lock was held since TB was last enabled, `armed` that COMPARE
has not fired since it was written, `lastSync` is the device time of the last sync message, and `reqPort`, `reqAt` and
`linkDelay` are the last link-delay measurement (R421). `following` says that a grandmaster follows one with a lower
DEVICE_ID. -/
structure TimeBase where
  time : Nat := 0
  armed : Bool := false
  lockedOnce : Bool := false
  lastSync : Nat := 0
  reqPort : Nat := 0
  reqAt : Nat := 0
  linkDelay : Int := 0
  following : Bool := false
  deriving DecidableEq, Repr

/-- A tally slot: its words W0 to W3 (R86). -/
structure TallySlot where
  w0 : Nat := 0
  w1 : Nat := 0
  w2 : Nat := 0
  w3 : Word := 0
  deriving DecidableEq, Repr

/-- What waits for a running tally clear, in arrival order (R93). -/
inductive HeldTally where
  | update (u : TallyUpd)
  | write (slot word : Nat) (mask v : Word)
  deriving DecidableEq, Repr

/-- The tally store (R85 to R93): the live and the committed view, a clear in progress with what it holds, and a snapshot
in progress. -/
structure Tallies where
  live : Table TallySlot := []
  committed : Table TallySlot := []
  clearing : Bool := false
  held : List HeldTally := []
  snap : Option Nat := none
  deriving DecidableEq, Repr

/-! ### Memory -/

/-- An entry of a vault bank's merging buffer (R361): its sector's address, 64 bytes and the mask of the valid ones. -/
structure MergeEntry where
  sector : Nat
  bytes : List Byte
  mask : Nat
  deriving DecidableEq, Repr

/-- A line of a cache-mode bank: its address (stack form, or pool form for a remote line), its bytes, and for a remote
line the epoch in which it was fetched (R360, R368). -/
structure CacheLine where
  addr : Nat
  bytes : List Byte
  epoch : Nat
  deriving DecidableEq, Repr

/-- A vault bank beside its registers: lines, most recently filled last, and the merging buffer, oldest first. -/
structure VaultBank where
  lines : List CacheLine := []
  buf : List MergeEntry := []
  deriving DecidableEq, Repr

/-- A place in a stack's own map: pseudo-channel bank and row, named by the controller (R340). -/
structure RowId where
  bank : Nat
  row : Nat
  deriving DecidableEq, Repr

/-- A stack controller beside its registers: regulator tokens (`tokens`, in units of one ten-thousandth of a token, as
last brought up to `tokensAt`), corrected-error counts of rows, the most recently counted first (R348), rows that wait to
be remapped in order of their triggers (R349), spare rows used per bank, rows a remap has retired, banks counted without
spares, hidden spare pages, pages taken offline (R351), the symbol of each row's last corrected error per channel (R347),
and the lanes to spare at the next training. -/
structure Stack where
  tokens : Table Nat := []
  tokensAt : Nat := 0
  ceRows : List (RowId × Nat) := []
  triggers : List RowId := []
  spareRows : Table Nat := []
  retiredSpares : List RowId := []
  banksOut : List Nat := []
  movedPages : List Nat := []
  offline : List Nat := []
  symbols : List (RowId × Nat) := []
  deriving DecidableEq, Repr

/-- The answer to the last memory access made as a command of its own: its bytes and the poison mark (R341, R473). -/
structure Reply where
  data : List Byte := []
  poison : Bool := false
  deriving DecidableEq, Repr

/-- A remote pool write not yet acknowledged (R396), with the number of the batch that carries it, 0 before it is in one. -/
structure RemoteWrite where
  who : UnitId
  addr : Nat
  data : List Byte
  batch : Nat := 0
  deriving DecidableEq, Repr

/-- A replica of a granule of a HOT extent (R406): the granule's pool address and bytes, its slot, whether it is valid, and
the reads it has served in the open epoch. -/
structure Replica where
  addr : Nat
  bytes : Nat
  slot : Nat
  valid : Bool := false
  reads : Nat := 0
  deriving DecidableEq, Repr

/-- An invalidation round (R408): who wrote (an engine, the host, or a peer with the number of its held WRITE_ACK), the
granules, whether its INVAL messages have been sent, and the devices whose INVAL_ACK has not arrived, one entry for each
message. -/
structure InvalRound where
  who : UnitId
  tag : Nat := 0
  granules : List Nat
  sent : Bool := false
  waiting : List Nat := []
  deriving DecidableEq, Repr

/-- Remote pool traffic of this device's engines (R337, R396, R397): sectors asked for and by whom, with what has been
sent as a request; sectors that have arrived, or are missing, and wait in the engine's reply buffer; writes on their way;
and the lines of each quarter's pool-cache region, the most recently written last (R369);
the replicas, and the request counters of granules by their hash (R406); the invalidation rounds that wait (R408). Within a
step, `wait` is set by an access that must wait, and `full` gives the regulator and the quarter of a write that waits for an undo
copy. -/
structure Remote where
  wanted : List (UnitId × Nat) := []
  asked : List (UnitId × Nat) := []
  got : List (UnitId × Nat × List Byte) := []
  missing : List (UnitId × Nat) := []
  writes : List RemoteWrite := []
  pcache : List CacheLine := []
  replicas : List Replica := []
  replCounts : Table Nat := []
  rounds : List InvalRound := []
  wait : Bool := false
  full : Option (Nat × Nat) := none
  deriving DecidableEq, Repr

/-! ### Ledgers -/

/-- How a task ended (R299). -/
inductive Verdict where
  | ok | failed | skipped | expired
  deriving DecidableEq, Repr

/-- What the completion record of an ended task carries (R326). -/
structure Ending where
  verdict : Verdict
  status : Nat := 0
  detail : Nat := 0
  flags : Nat := 0
  engine : Nat := 0xFF
  atWidest : Bool := false
  condTrue : Bool := false
  noValue : Bool := false
  time : Nat := 0
  deriving DecidableEq, Repr

/-- A pin image of a context (R322). -/
structure PinImage where
  src : Nat
  len : Nat
  dst : Nat
  deriving DecidableEq, Repr

/-- A defined entry of the context table (R322). -/
structure Ctx where
  part : Nat := 0
  prioMax : Nat := 7
  quota : Nat := 16384
  pin : Option PinImage := none
  deriving DecidableEq, Repr

/-- Where an admitted task stands: waiting for its edges and delay, ready since a count of the ledgers' ready clock, in a
till of an engine, or ended. -/
inductive Place where
  | waiting
  | ready (since : Nat)
  | till (u : UnitId) (since : Nat)
  | ended
  deriving DecidableEq, Repr

/-- A summary record a vector task hands to the ledger: its 16 words, the VALID bits and the flags (R290). -/
structure Summary where
  words : List Nat
  valid : Nat
  flags : Nat
  deriving DecidableEq, Repr

/-- An edge of a task, resolved when the task was admitted: the polarity asked for and the predecessor's ADMIT_SEQ, 0 for
a name that a refused descriptor took, whose outcome is FAILED (R301, R303). A name that no descriptor of the epoch had
taken gives no edge, since it is satisfied. -/
structure Edge where
  pol : Bool
  pred : Nat
  deriving DecidableEq, Repr

/-- An admitted task. `seq` is its ADMIT_SEQ, `desc` the descriptor as it now runs and `desc0` as first admitted, `ctx`
its context's entry as it stood at admission (R323), `delay` the boundary that releases it while it waits on a delay list
(R318), `cut` that it was admitted after the close instant of the open epoch, `logged` that it may be dispatched as far as
its log entry goes (R302), `scope` the ADMIT_SEQ of the RETRY task whose scope holds it with `attempt` the times it was
retried, and `pin` the table version it pinned (R190). -/
structure Task where
  seq : Nat
  ring : Nat
  tAdmit : Nat
  desc : List Byte
  desc0 : List Byte
  ctx : Ctx := {}
  edges : List Edge := []
  delay : Option Nat := none
  cut : Bool := false
  carried : Bool := false
  logged : Bool := false
  place : Place := .waiting
  ending : Option Ending := none
  released : Bool := false
  scope : Option Nat := none
  attempt : Nat := 0
  summary : Option Summary := none
  pin : Option (Nat × Nat) := none
  deriving DecidableEq, Repr

/-- A name taken in an epoch (R301, R305): a TASK_ID and the ADMIT_SEQ of its owner, 0 for a refused descriptor, whose
status is kept. `next` says that the name belongs to the epoch after the open one (R330). -/
structure Name where
  id : Nat
  owner : Nat
  next : Bool
  status : Nat := 0
  deriving DecidableEq, Repr

/-- An entry of an admission log (R302), with what a replay keeps of the task: its admission time (R320) and, for a
carried task, its pinned version (R192) and its context's entry as it stood at its own admission (R323). -/
structure LogEntry where
  q : Nat
  seq : Nat
  epoch : Nat
  ring : Nat
  tAdmit : Nat
  desc : List Byte
  pin : Option (Nat × Nat)
  carried : Bool
  ctx : Ctx
  deriving DecidableEq, Repr

/-- A completion record that waits for its ring (R326, R329), with the quarter whose buffer holds it. -/
structure PendRecord where
  q : Nat
  ring : Nat
  bytes : List Byte
  deriving DecidableEq, Repr

/-- A table version (R187): its number, where its rows lie and what they are, the address of its default row (none: all
zero), the references held to it, and for a draining version the ring and the quarter of the switch that made it draining (R191). -/
structure TblVersion where
  version : Nat
  base : Nat
  rows : Nat
  rowBytes : Nat
  rowFmt : Nat
  default : Option Nat
  refs : Nat := 0
  ring : Nat := 0
  q : Nat := 0
  deriving DecidableEq, Repr

/-- A registry entry (R187): the current version if any, and the draining versions, oldest first. -/
structure TblEntry where
  current : Option TblVersion := none
  draining : List TblVersion := []
  deriving DecidableEq, Repr

/-- The four ledgers, which share one admission order, one table registry and one context table (R297, R300): admitted
tasks in admission order, names, the next ADMIT_SEQ, the count of instants at which tasks became ready, the context table
and the registry with their contents at the last commit, the admission logs, the completion records that wait, and the
entries a resume has still to replay. -/
structure Ledger where
  tasks : List Task := []
  names : List Name := []
  nextSeq : Nat := 1
  readyClock : Nat := 0
  ctxs : Table (Option Ctx) := []
  ctxsCommitted : Table (Option Ctx) := []
  tables : Table TblEntry := []
  tablesCommitted : Table TblEntry := []
  ctxsCut : Table (Option Ctx) := []
  tablesCut : Table TblEntry := []
  log : List LogEntry := []
  records : List PendRecord := []
  deriving DecidableEq, Repr

/-! ### Host interface -/

/-- A ring pair (R476 to R484, R496): its registers, its pointers, the count of the next descriptor to offer for
admission, the descriptors fetched from there on, and what its interrupt and its status line wait for. -/
structure Ring where
  sq : Word := 0
  cq : Word := 0
  stat : Word := 0
  cfg : Word := 0x0000000100000606
  start : Word := 0
  state : Nat := 0
  held : Nat := 0
  sqHead : Nat := 0
  sqTail : Nat := 0
  cqTail : Nat := 0
  cqHead : Nat := 0
  offer : Nat := 0
  fetched : List (List Byte) := []
  dbRange : Bool := false
  faulted : Bool := false
  lineDue : Bool := false
  msgDue : Bool := false
  unsignalled : Nat := 0
  firstAt : Nat := 0
  deriving DecidableEq, Repr

/-- An error record waiting for the error ring (R490). -/
structure ErrRec where
  kind : Nat
  reason : Nat := 0
  seq : Nat := 0
  time : Nat := 0
  epoch : Nat := 0
  device : Nat := 0
  unit : UnitId := ⟨0, 15, 0⟩
  count : Nat := 0
  addr : Nat := 0
  deriving DecidableEq, Repr

/-- An HDM decoder (R472). -/
structure Decoder where
  committed : Bool := false
  error : Bool := false
  base : Nat := 0
  size : Nat := 0
  dpa : Nat := 0
  deriving DecidableEq, Repr

/-- The state of an IDE stream (R492). -/
inductive IdeState where
  | off | secure | insecure
  deriving DecidableEq, Repr

/-- What the DOE mailbox, or the endpoint of the management transports, answers a request with (R491, R518 to R520): the
protocols, a version and its algorithms, a certificate chain, measurement blocks, a session, the ranges CDAT describes, an
error, or the result and the data of a command. Only what the spec gives of an answer is here; its encoding is that of the
standards R491 and R520 name. -/
inductive Answer where
  | none
  | protocols
  | capabilities
  | certificates (slot : Nat)
  | measurements (blocks : List (List Byte))
  | session
  | accepted
  | ranges (r : List (Nat × Nat))
  | reading (valid : Bool) (value : Nat)
  | command (result : Nat) (data : List Byte)
  | refused
  deriving DecidableEq, Repr

/-- The host interface beside its registers: ring pairs, MSI-X masks (`unmasked` lists the vectors the host has unmasked,
since PCIe resets every vector masked) and pending bits, the messages sent, the AER reports made, error records not yet
written with the count generated and the count dropped since the last LOST record, decoders, the device cache's lines,
the DOE mailbox with its session and the IDE streams. -/
structure HostIf where
  rings : Table Ring := []
  unmasked : List Nat := []
  msixPending : List Nat := []
  msixSent : List Nat := []
  aer : List Bool := []
  errQueue : List ErrRec := []
  errSeq : Nat := 0
  errDropped : Nat := 0
  decoders : Table Decoder := []
  devCache : List Nat := []
  doeError : Bool := false
  doeOut : Answer := .none
  spdmSession : Bool := false
  ideIo : IdeState := .off
  ideMem : IdeState := .off
  deriving DecidableEq, Repr

/-! ### Escrow -/

/-- A report of a detected fault on its way to escrow (R448, R450); `device` is a device that the report names in place of
this one (R418). -/
structure FaultReport where
  unit : UnitId
  kind : Nat
  device : Option Nat := none
  deriving DecidableEq, Repr

/-- Escrow beside its registers. `working` lists the twinned pages the open epoch has written and `swapped` those whose
committed copy is the twin (R434); `undo` gives each journaled page written in the epoch its undo copy (R435). The rest
is the epoch's and the recovery's progress: the instant the epoch opened, tokens received from children, what has been
reported and by whom. -/
structure Escrow where
  working : List Nat := []
  swapped : List Nat := []
  undo : List (Nat × Nat) := []
  openedAt : Nat := 0
  cutDone : Bool := false
  drained : Bool := false
  requestSent : Bool := false
  startWanted : Bool := false
  startSent : Bool := false
  starts : List (Nat × Nat) := []
  votes : List (Nat × Nat) := []
  reports : List (Nat × Nat) := []
  pendingFaults : List FaultReport := []
  faultHistory : List (UnitId × Nat) := []
  suspects : List UnitId := []
  faulted : Bool := false
  abortEpoch : Nat := 0
  detectedAt : Nat := 0
  abortAt : Nat := 0
  fabricDone : Bool := false
  restoredQ : List Nat := []
  diagDone : Bool := false
  coolingNeeded : Bool := false
  reportSent : Bool := false
  deriving DecidableEq, Repr

/-! ### Fabric -/

/-- A segment of a message with its header fields (R391). -/
structure Seg where
  type : Nat
  dest : Nat
  src : Nat
  order : Nat := 0
  id : Nat := 0
  fmt : Nat := 0xFF
  epoch : Nat := 0
  tag : Nat := 0
  first : Bool := true
  last : Bool := true
  hop : Bool := false
  body : List Byte := []
  deriving DecidableEq, Repr

/-- A segment that waits for a port (R393): a fixed port for a message that is never routed (R394), and for one in transit
the port and the receive buffer that hold it. -/
structure OutSeg where
  seg : Seg
  port : Option Nat := none
  origin : Option (Nat × Nat) := none
  deriving DecidableEq, Repr

/-- A message that has arrived whole for this device, with the port and the device time of its last segment. -/
structure Message where
  seg : Seg
  port : Nat
  at_ : Nat
  deriving DecidableEq, Repr

/-- A data frame in a retry buffer (R386): its FSEQ, its bytes, and the ordering keys of the segments that lie in it. -/
structure SentFrame where
  fseq : Nat
  data : List Byte
  keys : List (Nat × Nat × Nat)
  deriving DecidableEq, Repr

/-- A port beside its registers (R380 to R389): the next FSEQ to send and the next expected, the retry buffer, whether a NAK
is to be sent and when one was last set, the credits held per receive buffer of the peer and the credits to return per
buffer of this end, bytes received that are not yet a whole segment, bytes of segments not yet in a frame, messages
received in part, consecutive failed retrainings, when the last good frame came and when ACK last advanced, the
uncorrectable codewords of the last millisecond by lane and time, the lane whose repair is asked of the peer, the lane the
peer has asked for, and whether the training in progress has found its eight lanes. -/
structure Port where
  fseq : Nat := 0
  expected : Nat := 0
  retry : List SentFrame := []
  nak : Bool := false
  nakAt : Option Nat := none
  credits : List Nat := [0, 0, 0, 0, 0, 0]
  owed : List Nat := [0, 0, 0, 0, 0, 0]
  rx : List Byte := []
  tx : List Byte := []
  txKeys : List (Nat × Nat × Nat) := []
  parts : List Seg := []
  fails : Nat := 0
  lastGood : Nat := 0
  ackAt : Nat := 0
  ues : List (Nat × Nat) := []
  repair : Option Nat := none
  peerRepair : Option Nat := none
  trained : Bool := false
  deriving DecidableEq, Repr

/-- An open batch, or one sent and not yet answered (R410): its number, its clearing engine's quarter, its owner, whether it
carries writes, its entries (engine, pool address, bytes), its body so far, when its first entry came, and whether it
has been sent. -/
structure Batch where
  id : Nat
  q : Nat
  dest : Nat
  write : Bool
  entries : List (UnitId × Nat × Nat) := []
  body : List Byte := []
  firstAt : Nat := 0
  sent : Bool := false
  deriving DecidableEq, Repr

/-- A WRITE_ACK that waits for invalidation rounds (R396, R408). -/
structure HeldAck where
  tag : Nat
  dest : Nat
  order : Nat
  id : Nat
  taken : Nat
  dropped : Nat
  deriving DecidableEq, Repr

/-- An RTS held for a task that has not started (R412): the clearing engine's quarter, the sender, its EXCH_ID and rows. -/
structure HeldRts where
  q : Nat
  src : Nat
  exch : Nat
  rows : Nat
  id : Nat
  deriving DecidableEq, Repr

/-- The fabric beside its registers: ports, the route table (R393), staged directory changes (R402), segments that wait for
a port, the port each ordering key is bound to (R395), messages arrived and not yet taken, batches, held acknowledgements
and RTS messages, the slowdown factors announced by other devices (R418), and the factor this device announced last. -/
structure Fabric where
  ports : Table Port := []
  routes : Table Word := []
  staged : List (Nat × Word × Word) := []
  out : List OutSeg := []
  bound : List (Nat × Nat × Nat × Nat) := []
  inbox : List Message := []
  nextId : Nat := 1
  batches : List Batch := []
  acks : List HeldAck := []
  rts : List HeldRts := []
  slow : Table Nat := []
  announced : Nat := 1
  deriving DecidableEq, Repr
/-! ### Matrix arrays and vector engines -/

/-- An exact value: NaN, an infinity, or `± m · 2^e`. A zero keeps its sign. -/
inductive ExactNum where
  | nan
  | inf (neg : Bool)
  | fin (neg : Bool) (m : Nat) (e : Int)
  deriving DecidableEq, Repr

/-- What an array has read of an operand (R157 to R162): data rows, 2:4 metadata rows, the scale bytes and both tag planes
row by row, and the sum of its sums stream over the task's K range, row by row. -/
structure Panel where
  data : List (List Byte)
  metas : List (List Byte)
  scales : List (List Byte)
  dtags : List (List Byte)
  stags : List (List Byte)
  sums : List Int
  deriving DecidableEq, Repr

/-- Where the row tile in progress stands (R167, R174): not computed, computed and not checked, mismatched once, paused at
step 4, passed with its values still to be handed to the vector engine, or held in the cells until it is released. -/
inductive TilePhase where
  | fresh | ran | again | paused | passed | held
  deriving DecidableEq, Repr

/-- A matrix task on its array (R167 to R175): the row tile in progress, the exact values of its cells, the B panel when it
is held, the columns of the last mismatching run, whether step 4 was entered through TRANSIENT_LIMIT, the array chosen to
run the tile at step 4, the array whose cells hold the passed tile, the flags and the largest output so far, and after a
takeover the array the task came from. -/
structure MaRun where
  tile : Nat := 0
  phase : TilePhase := .fresh
  cells : List (List ExactNum) := []
  panel : Option Panel := none
  bad : List Nat := []
  limited : Bool := false
  partner : Option Nat := none
  byArray : Option Nat := none
  flags : Nat := 0
  best : Option (Dyadic × Nat) := none
  home : Option Nat := none
  deriving DecidableEq, Repr

/-- A row tile handed to a vector engine (R281, R283): the matrix task's identifier, the tile's number, the task's tile
count, its FP32 values row by row, whether an array still holds it in its cells, and for an end marker the matrix task's
status (R284). -/
structure Tile where
  task : Nat
  number : Nat
  count : Nat
  vals : List (List Nat)
  held : Bool := false
  marker : Option Nat := none
  deriving DecidableEq, Repr

/-- A slot of a vector task (R260). -/
structure Slot where
  base : Nat
  window : Nat
  step : Int
  alt : Int
  deriving DecidableEq, Repr

/-- A reduction result on its way to its register (R276): lane, value and flags. -/
structure PendingRed where
  reg : Nat
  lanes : List (Nat × Nat × Nat)
  deriving DecidableEq, Repr

/-- A vector task on its engine (R257 to R290): the program's words, the next instruction, the iteration, the registers
that differ from all zeros, the lanes' flags, VL, the slots, the summary words with their VALID bits, reductions not yet
written, the array whose tile the iteration has bound, whether the iteration has started, the tile counts seen of each
source, and per source the tiles taken. -/
structure VeRun where
  prog : List Nat
  pc : Nat := 0
  iter : Nat := 0
  regs : Table (List Nat) := []
  flags : List Nat
  vl : Nat
  slots : List Slot
  words : Table Nat := []
  valid : Nat := 0
  reds : List PendingRed := []
  bound : Option Nat := none
  begun : Bool := false
  counts : Table Nat := []
  taken : Table Nat := []
  dropped : Bool := false
  deriving DecidableEq, Repr

/-- How far a position of a gather task has come (R201): to be probed (or fetched, without a coalescing region), its entry
claimed, its entry pending, or not coalesced; and for a fragment of a split segment, its partial added (R205). -/
inductive GeStage where
  | probe
  | claimed (entry : Nat)
  | pending (entry : Nat)
  | plain
  | added
  deriving DecidableEq, Repr

/-- A segment or a fragment in progress (R203 to R205): the engine and the task that own it, its segment, the next position
and the end, the positions of the whole segment, the running sums (FP32 codes, or exact integers), whether a row has been
added, its split slot, and how far its position has come. -/
structure GeJob where
  owner : Nat
  seq : Nat
  seg : Nat
  pos : Nat
  stop : Nat
  count : Nat
  acc : List Int := []
  any : Bool := false
  slot : Option Nat := none
  stage : GeStage := .probe
  offered : Bool := false
  deriving DecidableEq, Repr

/-- A gather task on its engine: the next segment, the job in progress, fragments it has to run itself, offered fragments
not finished, positions seen, invalid, missing, fetched and served from the coalescing region, flags, and the default row
once read (R195, R203, R210). -/
structure GeRun where
  seg : Nat := 0
  job : Option GeJob := none
  mine : List GeJob := []
  outstanding : Nat := 0
  positions : Nat := 0
  invalid : Nat := 0
  missing : Nat := 0
  fetched : Nat := 0
  served : Nat := 0
  flags : Nat := 0
  default : Option (List Byte) := none
  deriving DecidableEq, Repr

/-- Where a send of an exchange stands (R412): offered, refused as BUSY at an instant, sent and not yet acknowledged, done,
or refused for capacity. -/
inductive LegStage where
  | offered
  | busy (at_ : Nat)
  | sent
  | done
  | refused
  deriving DecidableEq, Repr

/-- A send of an exchange: the entry of SEND_TABLE and where it stands. -/
structure SendLeg where
  dest : Nat
  rows : Nat
  addr : Nat
  stage : LegStage := .offered
  deriving DecidableEq, Repr

/-- A receive of an exchange: its SRC, the rows offered and the offset granted once its RTS has come, whether its rows have
been written and wait to be accepted and acknowledged, and whether it has delivered or been refused. -/
structure RecvLeg where
  src : Nat
  grant : Option (Nat × Nat) := none
  ackDue : Bool := false
  done : Bool := false
  deriving DecidableEq, Repr

/-- A clearing task on its engine (R411 to R413): its sends and receives, the bytes of RECV_AREA granted, how it is to end
when that is not DONE, rows, raw bytes and bytes sent for its tally, and for a MIGRATE the bytes copied. -/
structure ClRun where
  sends : List SendLeg := []
  recvs : List RecvLeg := []
  granted : Nat := 0
  ending : Option (Nat × Nat) := none
  rows : Nat := 0
  raw : Nat := 0
  wire : Nat := 0
  copied : Nat := 0
  deriving DecidableEq, Repr

/-- A collective task on its engine (R416, R417): its members in ring order, the chunks of its operand (FP32 codes or
integers), the steps whose data it has sent, received and had acknowledged, its flags, when it began to wait for the
present step, whether it has reported a stall of it, and whether its result has been written. -/
structure CoRun where
  members : List Nat := []
  chunks : List (List Int) := []
  sent : Nat := 0
  received : Nat := 0
  acked : Nat := 0
  flags : Nat := 0
  since : Nat := 0
  stalled : Bool := false
  written : Bool := false
  deriving DecidableEq, Repr

/-- The work of the task in front of an engine's tills. -/
inductive Work where
  | none
  | ma (r : MaRun)
  | ve (r : VeRun)
  | ge (r : GeRun)
  | cl (r : ClRun)
  | co (r : CoRun)
  deriving DecidableEq, Repr

/-! ### Management controller -/

/-- A record of the flash store waiting to be written (R514, R516): its type and its body. -/
structure FlashRec where
  type : Nat
  body : List Byte
  deriving DecidableEq, Repr

/-- An open update session (R504, R505): whether MCTP opened it, the header, the body bytes received, and when its last
command came. -/
structure Session where
  mctp : Bool
  header : List Byte
  got : Nat := 0
  lastAt : Nat := 0
  deriving DecidableEq, Repr

/-- The management controller beside its registers: the bytes of the flash's image region that
differ from the shipped ones (R497), the two halves of the record store, the one in use and its generation (R515, R517), the fused key hashes and the device secret (R501), the open
session, the step of R498 the start has reached and when PERST_N was released, whether a failure was logged since the last
counter record, whether a restart is due (R507), whether strongbox mode was requested (R508), the stacks trained and whether
the loopback test has passed, the SVN of the verified image, the measurements (R519), the OP of the command over CXL that runs
(R522), and the last answer to a management request. -/
structure Mc where
  flash : Table Byte := []
  store0 : List Stored := []
  store1 : List Stored := []
  half : Nat := 0
  gen : Nat := 0
  keys : List (List Byte) := [Config.keyHash 0, Config.keyHash 1, Config.keyHash 2, Config.keyHash 3]
  secret : BitVec 256 := Config.deviceSecret
  session : Option Session := none
  bootStep : Nat := 0
  startAt : Nat := 0
  failLogged : Bool := false
  restartDue : Bool := false
  sbRequested : Bool := false
  trained : List Nat := []
  looped : Bool := false
  imageSvn : Nat := 0
  measures : List (List Byte) := []
  running : Option Nat := none
  answer : Answer := .none
  deriving DecidableEq, Repr

/-! ### Power and pins -/

/-- The supplies, the pins and the power manager (R526 to R544): the auxiliary supply, P54 within its range, PWR_GOOD, PERST_N
released, the main regulators on, THERM_TRIP_N asserted; the sensors' last readings by index (R532), the input power samples
of the last millisecond, newest first, and the remainder of ENERGY in hundredths of a millijoule (R529, R549); the step the
cap holds the scaled islands at, 64 at the limit, and when the floor was reached (R529, R530); and per quarter the steps
junction throttling takes off, and the conditions that hold: JUNC_WARN, throttling from 100 °C, and 105 °C (R533). -/
structure Pwr where
  auxUp : Bool := false
  p54 : Bool := false
  pwrGood : Bool := false
  perst : Bool := false
  mainOn : Bool := false
  tripped : Bool := false
  sensors : Table Nat := []
  samples : List Nat := []
  energyRem : Nat := 0
  capStep : Nat := 64
  floorSince : Option Nat := none
  down : Table Nat := []
  warm : List Nat := []
  hot : List Nat := []
  veryHot : List Nat := []
  deriving DecidableEq, Repr

/-! ### The whole block -/

/-- The three variants of the module (R6). -/
inductive Variant where
  | f | g | s
  deriving DecidableEq, Repr

/-- What an engine holds beside its registers (R308, R325): the ADMIT_SEQs of the tasks in its tills, the one filled first in
front, with the till each is in; whether the front one has started, and its work; the context of its last task; once
the task in front has run to its end with every write issued, how it ended and its summary; whether an end marker is
still to be handed (R284); the transients of an array in the epoch (R174); the tasks an array has taken over, with their
work (R175); the fragment of another task a gather engine holds (R204); and the program each till of a vector engine holds (R259). -/
structure Engine where
  tills : List Nat := []
  till : List (Nat × Nat) := []
  started : Bool := false
  work : Work := .none
  ctx : Option Nat := none
  done : Option Ending := none
  summary : Option Summary := none
  markerDue : Bool := false
  transients : Nat := 0
  takeovers : List (Nat × MaRun) := []
  frag : Option GeJob := none
  programs : List (Nat × Nat × Nat) := []
  deriving DecidableEq, Repr

/-- An entry of the pool directory: W0, W1 and its load counters (R400, R404). -/
structure DirEntry where
  w0 : Word := 0
  w1 : Word := 0
  cur : Nat := 0
  last : Nat := 0
  deriving DecidableEq, Repr

/-- The state of the block. `pending` is the model's queue of commands; `regs` holds the registers that do not read as
their reset value, by BAR0 offset; `hostRead` is what the last host register read returned;
`absentAssays` lists the pages of absent units whose assay runs, and `disableChecks` the pages whose running check is a disable
check (R65); `mem` is device memory by
64-bit address (stack and vault form, R335) and `poison` its poisoned sectors (R341); `wraps`
gives each accumulated element of a bank the multiples of 2^32 its exact running total has passed (R36); `host` is host memory; `flashDue` lists the flash records that wait to be written (R515); `vq` holds
the tiles each array has handed to its vector engine, in drain order (R283); `frags` is the quarters' fragment pools in the order offered, and `splitUse` gives
each split slot in use with its task (R203, R205); `locks` holds the
lock groups of the active profile that are in force (R512), and `freeCtr` counts the values drawn where the spec leaves one open. -/
structure State where
  pending : List Instr := []
  variant : Variant := .f
  serial : Nat := 1
  regs : Table Word := []
  hostRead : Word := 0
  absentAssays : List UnitId := []
  disableChecks : List UnitId := []
  tb : TimeBase := {}
  tally : Tallies := {}
  mem : List Host.Cell := []
  poison : List Nat := []
  wraps : Table Int := []
  host : List Host.Cell := []
  vb : Table VaultBank := []
  hs : Table Stack := []
  reply : Reply := {}
  rem : Remote := {}
  led : Ledger := {}
  eng : Table Engine := []
  vq : Table (List Tile) := []
  frags : List GeJob := []
  splitUse : List (Nat × Nat) := []
  hi : HostIf := {}
  esc : Escrow := {}
  dir : Table DirEntry := []
  fab : Fabric := {}
  mc : Mc := {}
  pw : Pwr := {}
  flashDue : List FlashRec := []
  locks : Nat := 0
  freeCtr : Nat := 0
  deriving DecidableEq, Repr

/-- The module before its auxiliary supply comes up (R498, R536), variant F as it is shipped (R557): every register at its
reset value, every memory empty, nothing waiting, the flash with its shipped records. Values the spec does not state are
named in the assumption log. -/
def State.reset : State := { mc := { store0 := shippedStore fun _ _ => true } }

end Sys2Proof.Machine
end

