-- ==== Sys2Proof/Machine/Numerics.lean ====
section
/-! DEFINITION. Number formats and arithmetic (R95 to R119): exact values, the layouts of the floating-point formats, the
one rounding rule, conversions, exact arithmetic, and the matrix accumulator. -/

namespace Sys2Proof.Machine

open Sys2Proof

/-! ### Exact values -/

def ExactNum.zero : ExactNum := .fin false 0 0

/-- `m · 2^e` as an exact value. -/
def ExactNum.ofInt (v : Int) (e : Int) : ExactNum := .fin (decide (v < 0)) v.natAbs e

/-- A natural power of two, 1 for a negative exponent. -/
def pow2 (e : Int) : Nat := 2 ^ e.toNat

/-- The exponent of the leading bit of `m · 2^e`. -/
def topExp (m : Nat) (e : Int) : Int := (m.log2 : Int) + e

def ExactNum.isNan : ExactNum → Bool
  | .nan => true
  | _ => false

def ExactNum.isInf : ExactNum → Bool
  | .inf _ => true
  | _ => false

def ExactNum.isZero : ExactNum → Bool
  | .fin _ 0 _ => true
  | _ => false

def ExactNum.isNeg : ExactNum → Bool
  | .fin n _ _ => n
  | .inf n => n
  | .nan => false

/-- A finite value. -/
def ExactNum.isFin (x : ExactNum) : Bool := !x.isNan && !x.isInf

/-- A finite value's signed significand over a common exponent. -/
def scaled (neg : Bool) (m : Nat) (e lo : Int) : Int :=
  let v : Int := (m * pow2 (e - lo) : Nat)
  if neg then -v else v

/-! ### Formats (R95, R97 to R99) -/

/-- A floating-point layout: exponent and fraction widths, bias, whether it has infinities, the code of its largest
finite value, and its canonical NaN if it has NaN. -/
structure FFmt where
  ebits : Nat
  fbits : Nat
  bias : Nat
  hasInf : Bool
  maxCode : Nat
  nan : Option Nat
  deriving DecidableEq, Repr

def fp32 : FFmt := ⟨8, 23, 127, true, 0x7F7FFFFF, some 0x7FC00000⟩
def bf16 : FFmt := ⟨8, 7, 127, true, 0x7F7F, some 0x7FC0⟩
def fp16 : FFmt := ⟨5, 10, 15, true, 0x7BFF, some 0x7E00⟩
def e4m3 : FFmt := ⟨4, 3, 7, false, 0x7E, some 0x7F⟩
def e5m2 : FFmt := ⟨5, 2, 15, true, 0x7B, some 0x7E⟩
def e3m2 : FFmt := ⟨3, 2, 3, false, 0x1F, none⟩
def e2m3 : FFmt := ⟨2, 3, 1, false, 0x1F, none⟩
def e2m1 : FFmt := ⟨2, 1, 1, false, 0x7, none⟩

/-- What an element of a format is. -/
inductive Elem where
  | float (f : FFmt)
  | sint (bits : Nat)
  | uint (bits : Nat)
  deriving DecidableEq, Repr

/-- The element of a format code, if the code is defined; an MX format gives its element (R95, R100). -/
def elemOf (code : Nat) : Option Elem :=
  match code with
  | 0x00 => some (.float fp32) | 0x01 => some (.float bf16) | 0x02 => some (.float fp16)
  | 0x03 => some (.float e4m3) | 0x04 => some (.float e5m2) | 0x05 => some (.float e3m2)
  | 0x06 => some (.float e2m3) | 0x07 => some (.float e2m1) | 0x08 => some (.sint 8)
  | 0x09 => some (.sint 4) | 0x0A => some (.uint 8) | 0x0B => some (.uint 4) | 0x0C => some (.sint 32)
  | 0x10 => some (.float e4m3) | 0x11 => some (.float e5m2) | 0x12 => some (.float e3m2)
  | 0x13 => some (.float e2m3) | 0x14 => some (.float e2m1) | 0x15 => some (.sint 8)
  | _ => none

/-- An MX block format (R100). -/
def isMx (code : Nat) : Bool := decide (0x10 ≤ code ∧ code ≤ 0x15)

/-- An unsigned format with a zero point (R99). -/
def isUint (code : Nat) : Bool := code = 0x0A || code = 0x0B

/-- An integer format of R105's integer path. -/
def isIntFmt (code : Nat) : Bool := decide (0x08 ≤ code ∧ code ≤ 0x0B)

/-- A format a matrix array accepts as an operand (R95). -/
def matrixFmt (code : Nat) : Bool := (elemOf code).isSome && code ≠ 0x00 && code ≠ 0x02 && code ≠ 0x0C

/-- Bits of one element (R95). -/
def elemBits (code : Nat) : Nat :=
  match elemOf code with
  | some (.float f) => 1 + f.ebits + f.fbits
  | some (.sint n) => n
  | some (.uint n) => n
  | none => 8

/-- Bytes of one row of `c` elements: whole bytes, or whole blocks of an MX format (R96). -/
def rowBytes (code c : Nat) : Nat :=
  if isMx code then ceilDiv c 32 * (4 * elemBits code) else ceilDiv (c * elemBits code) 8

/-- The code of element `j` of a packed row (R96). -/
def elemCode (code : Nat) (row : List Byte) (j : Nat) : Nat :=
  let n := elemBits code
  natField (leAt row (j * n / 8) 5) (j * n % 8 + n - 1) (j * n % 8)

/-- Packs element codes into a row; unused bits of the last byte are 0 (R96). -/
def packRow (code : Nat) (codes : List Nat) : List Byte :=
  let n := elemBits code
  leBytes (ceilDiv (codes.length * n) 8) ((codes.mapIdx fun j c => c % 2 ^ n * 2 ^ (j * n)).foldl (· + ·) 0)

/-! ### Reading an element -/

/-- The value of a floating-point code (R97). -/
def decodeFloat (f : FFmt) (c : Nat) : ExactNum :=
  let neg := c / 2 ^ (f.ebits + f.fbits) % 2 = 1
  let mag := c % 2 ^ (f.ebits + f.fbits)
  let e := mag / 2 ^ f.fbits
  let frac := mag % 2 ^ f.fbits
  let lo : Int := 1 - (f.bias : Int) - f.fbits
  if f.maxCode < mag then
    if f.hasInf && mag = f.maxCode + 1 then .inf neg else .nan
  else if e = 0 then .fin neg frac lo
  else .fin neg (2 ^ f.fbits + frac) (lo + (e - 1 : Nat))

/-- The value of an element code in units of its scale, with the zero point of an unsigned format (R99, R100). -/
def decodeElem (code zp c : Nat) : ExactNum :=
  match elemOf code with
  | some (.float f) => decodeFloat f c
  | some (.sint n) => .ofInt (signedOf n c) (if isMx code then -6 else 0)
  | some (.uint n) => .ofInt ((c % 2 ^ n : Nat) - (zp % 2 ^ n : Nat) : Int) 0
  | none => .nan

/-- A value times a power of two. -/
def ExactNum.shift (k : Int) : ExactNum → ExactNum
  | .fin n m e => .fin n m (e + k)
  | x => x

/-- The value of an element of an MX block with scale byte `x` (R100, R101). -/
def mxValue (x : Nat) (v : ExactNum) : ExactNum := if x = 0xFF then .nan else v.shift ((x : Int) - 127)

/-! ### Rounding (R111 to R116) -/

/-- A finite positive value given by `num / den · 2^e`; `den` is not 0. -/
structure Frac where
  num : Nat
  den : Nat
  e : Int
  deriving DecidableEq, Repr

/-- The value in units of 2^q, doubled and floored, and whether that dropped anything. -/
def Frac.halves (x : Frac) (q : Int) : Nat × Bool :=
  let k := x.e + 1 - q
  let n := x.num * pow2 k
  let d := x.den * pow2 (-k)
  (n / d, n % d ≠ 0)

/-- The exponent of the leading bit of a fraction that is not 0. -/
def Frac.top (x : Frac) : Int :=
  let g : Int := (x.num.log2 : Int) - x.den.log2 + x.e
  if (x.halves (g + 1)).1 ≥ 2 then g + 1 else if (x.halves g).1 ≥ 2 then g else g - 1

/-- To nearest, ties away from zero, from a count of halves: the rounded count and whether it is inexact (R111). -/
def roundHalves (h : Nat × Bool) : Nat × Bool := ((h.1 + 1) / 2, h.2 || h.1 % 2 = 1)

/-- Rounds a positive value into a floating-point format, unbounded above: the magnitude code, and whether it is
inexact (R111, R112). -/
def roundMag (f : FFmt) (x : Frac) : Nat × Bool :=
  if x.num = 0 then (0, false)
  else
    let emin : Int := 1 - (f.bias : Int)
    let q := max x.top emin - f.fbits
    let r := roundHalves (x.halves q)
    ((q - (emin - f.fbits)).toNat * 2 ^ f.fbits + r.1, r.2)

/-- A code with its sign. -/
def withSign (f : FFmt) (neg : Bool) (mag : Nat) : Nat := mag + (if neg then 2 ^ (f.ebits + f.fbits) else 0)

/-- A finite magnitude of a format with overflow treated as R113 says: its code and its flags. -/
def finishMag (f : FFmt) (sat neg : Bool) (r : Nat × Bool) : Nat × Nat :=
  if f.maxCode < r.1 then
    (withSign f neg (if f.hasInf && !sat then f.maxCode + 1 else f.maxCode), roundFlags true true false)
  else (withSign f neg r.1, roundFlags false r.2 (decide (r.1 < 2 ^ f.fbits)))

/-- The infinity of a format, or its largest finite value (R114). -/
def infCode (f : FFmt) (neg : Bool) : Nat × Nat :=
  if f.hasInf then (withSign f neg (f.maxCode + 1), 0) else (withSign f neg f.maxCode, flagOverflow)

/-- The NaN of a format: canonical, or +0 where it has none (R98, R115). -/
def nanCode (f : FFmt) : Nat × Nat := (f.nan.getD 0, flagInvalid)

/-- A value rounded into a floating-point format: its code and its flags (R111 to R117). -/
def roundTo (f : FFmt) (sat : Bool) : ExactNum → Nat × Nat
  | .nan => nanCode f
  | .inf neg => infCode f neg
  | .fin neg m e => finishMag f sat neg (roundMag f ⟨m, 1, e⟩)

/-- An exact value rounded to an integer, ties away from zero, and whether it is inexact (R111). -/
def roundInt (neg : Bool) (x : Frac) : Int × Bool :=
  let r := roundHalves (x.halves 0)
  (if neg then -(r.1 : Int) else r.1, r.2)

/-- An integer clamped to a range, with its flags (R113). -/
def clampInt (lo hi : Int) (r : Int × Bool) : Int × Nat :=
  if r.1 < lo then (lo, intFlags true true)
  else if hi < r.1 then (hi, intFlags true true)
  else (r.1, intFlags false r.2)

/-- A value rounded into an integer range (R111, R113 to R115): the integer and its flags. -/
def toIntRange (lo hi : Int) : ExactNum → Int × Nat
  | .nan => (0, flagInvalid)
  | .inf neg => (if neg then lo else hi, flagOverflow)
  | .fin neg m e => clampInt lo hi (roundInt neg ⟨m, 1, e⟩)

/-- A value rounded into a format as a code: an unsigned format adds its zero point and clamps the code; a NaN gives the
code of value 0 (R99, R111 to R116). An MX element is in units of its block's scale. -/
def encodeElem (code zp : Nat) (sat : Bool) (v : ExactNum) : Nat × Nat :=
  match elemOf code with
  | some (.float f) => roundTo f sat v
  | some (.sint n) =>
    let r := toIntRange (-(2 ^ (n - 1) : Nat)) ((2 ^ (n - 1) : Nat) - 1) (if isMx code then v.shift 6 else v)
    (unsignedOf n r.1, r.2)
  | some (.uint n) =>
    let z : Int := (zp % 2 ^ n : Nat)
    let r := toIntRange (-z) ((2 ^ n : Nat) - 1 - z) v
    ((r.1 + z).toNat, r.2)
  | none => (0, 0)

/-! ### Exact arithmetic (R116, R118) -/

/-- The exact sum of two values; equal magnitudes of opposite sign give +0 (R116). -/
def ExactNum.add : ExactNum → ExactNum → ExactNum
  | .nan, _ => .nan
  | _, .nan => .nan
  | .inf a, .inf b => if a = b then .inf a else .nan
  | .inf a, _ => .inf a
  | _, .inf b => .inf b
  | .fin a m e, .fin b n f =>
    if m = 0 ∧ n = 0 then .fin (a && b) 0 0
    else
      let lo := min e f
      .ofInt (scaled a m e lo + scaled b n f lo) lo

def ExactNum.neg : ExactNum → ExactNum
  | .nan => .nan
  | .inf a => .inf (!a)
  | .fin a m e => .fin (!a) m e

def ExactNum.abs : ExactNum → ExactNum
  | .nan => .nan
  | .inf _ => .inf false
  | .fin _ m e => .fin false m e

/-- The exact product; zero times infinity is NaN. -/
def ExactNum.mul : ExactNum → ExactNum → ExactNum
  | .nan, _ => .nan
  | _, .nan => .nan
  | .inf a, .inf b => .inf (a != b)
  | .inf a, .fin b n _ => if n = 0 then .nan else .inf (a != b)
  | .fin a m _, .inf b => if m = 0 then .nan else .inf (a != b)
  | .fin a m e, .fin b n f => .fin (a != b) (m * n) (e + f)

/-- The order of two values that are not NaN; zeros of either sign are equal. -/
def ExactNum.le : ExactNum → ExactNum → Bool
  | .nan, _ => false
  | _, .nan => false
  | .inf a, .inf b => a || !b
  | .inf a, _ => a
  | _, .inf b => !b
  | .fin a m e, .fin b n f =>
    let lo := min e f
    decide (scaled a m e lo ≤ scaled b n f lo)

def ExactNum.lt (a b : ExactNum) : Bool := !a.isNan && !b.isNan && !b.le a

/-- A quotient rounded into a floating-point format (R118): x/0 is an infinity of the product sign, 0/0 and inf/inf NaN. -/
def divTo (f : FFmt) (a b : ExactNum) : Nat × Nat :=
  match a, b with
  | .nan, _ => nanCode f
  | _, .nan => nanCode f
  | .inf _, .inf _ => nanCode f
  | .inf x, .fin y _ _ => infCode f (x != y)
  | .fin x _ _, .inf y => (withSign f (x != y) 0, 0)
  | .fin x m e, .fin y n g =>
    if n = 0 then (if m = 0 then nanCode f else infCode f (x != y))
    else finishMag f false (x != y) (roundMag f ⟨m, n, e - g⟩)

/-- The integer square root, bit by bit from the top. -/
def isqrtFrom (n : Nat) : Nat → Nat → Nat
  | 0, r => r
  | k + 1, r => if (r + 2 ^ k) * (r + 2 ^ k) ≤ n then isqrtFrom n k (r + 2 ^ k) else isqrtFrom n k r

def isqrt (n : Nat) : Nat := isqrtFrom n (n.log2 / 2 + 1) 0

/-- A square root rounded into FP32 (R118): 64 bits of the root and a sticky bit decide the rounding. -/
def sqrtTo (f : FFmt) (a : ExactNum) : Nat × Nat :=
  match a with
  | .nan => nanCode f
  | .inf neg => if neg then nanCode f else infCode f false
  | .fin neg m e =>
    if m = 0 then (withSign f neg 0, 0)
    else if neg then nanCode f
    else
      let k : Int := if (e - 128) % 2 = 0 then 128 else 129
      let n := m * pow2 k
      let r := isqrt n
      let h := (e - k) / 2
      finishMag f false false (roundMag f ⟨2 * r + bit (r * r ≠ n), 1, h - 1⟩)

/-! ### FP32 shorthands -/

def numOf32 (w : Nat) : ExactNum := decodeFloat fp32 w
def to32 (x : ExactNum) : Nat × Nat := roundTo fp32 false x

/-- FP32 addition, subtraction, multiplication and fused multiply-add, each rounded once (R118). -/
def fadd32 (a b : Nat) : Nat × Nat := to32 ((numOf32 a).add (numOf32 b))
def fsub32 (a b : Nat) : Nat × Nat := to32 ((numOf32 a).add (numOf32 b).neg)
def fmul32 (a b : Nat) : Nat × Nat := to32 ((numOf32 a).mul (numOf32 b))
def fma32 (a b c : Nat) : Nat × Nat := to32 (((numOf32 a).mul (numOf32 b)).add (numOf32 c))

/-- A finite value as an exact dyadic magnitude, 0 otherwise (R87). -/
def ExactNum.dyadic : ExactNum → Dyadic
  | .fin _ m e => ⟨m, e⟩
  | _ => ⟨0, 0⟩

/-! ### The accumulator (R102 to R107) -/

/-- A cell's accumulator: special state, whether a group has started it, ACC and its exponent x. -/
structure Accum where
  special : Option ExactNum := none
  started : Bool := false
  acc : Int := 0
  x : Int := 0
  deriving DecidableEq, Repr

/-- The value a UINT code takes in the multiplier: its code less half its range (R103). -/
def offsetCode (code c : Nat) : ExactNum :=
  match elemOf code with
  | some (.uint n) => .ofInt ((c % 2 ^ n : Nat) - (2 ^ (n - 1) : Nat) : Int) 0
  | _ => decodeElem code 0 c

/-- The largest exponent of the finite non-zero elements of a segment (R104, R106). -/
def maxExp (xs : List ExactNum) : Option Int :=
  xs.foldl (fun r x =>
    match x with
    | .fin _ m e =>
      if m = 0 then r
      else
        match r with
        | none => some (topExp m e)
        | some g => some (max g (topExp m e))
    | _ => r) none

/-- Expansion of a segment: a BF16 element too small beside its group's largest becomes zero (R104). -/
def expand (code : Nat) (xs : List ExactNum) : List ExactNum :=
  if code = 0x01 then
    match maxExp xs with
    | none => xs
    | some g => xs.map fun x =>
      match x with
      | .fin n m e => if m ≠ 0 ∧ topExp m e < g - 61 then .fin n 0 0 else x
      | _ => x
  else xs

/-- Floor of an exact integer times 2^k. -/
def floorShift (v : Int) (k : Int) : Int := if 0 ≤ k then v * (pow2 k : Nat) else v / (pow2 (-k) : Nat)

/-- One product's effect on the special state (R107). -/
def specialStep (st : Option ExactNum) (a b : ExactNum) : Option ExactNum :=
  match a.mul b with
  | .nan => some .nan
  | .inf n =>
    match st with
    | none => some (.inf n)
    | some (.inf m) => if m = n then some (.inf m) else some .nan
    | some _ => some .nan
  | _ => st

/-- Halves a sum, toward minus infinity, until it is below 2^46 in magnitude, one step of `x` a halving (R106). -/
def normAcc (t x : Int) : Int × Int :=
  if t.natAbs < 2 ^ 46 then (t, x)
  else
    let k := t.natAbs.log2 - 45
    let r := t / (2 ^ k : Nat)
    if r.natAbs < 2 ^ 46 then (r, x + k) else (r / 2, x + k + 1)

/-- One group of K-steps on the float path (R106): its two segments, expanded, the pairs of elements it multiplies and its
scale exponents. A position a 2:4 operand skips forms no pair (R156). -/
def addPairs (c : Accum) (as bs : List ExactNum) (pairs : List (ExactNum × ExactNum)) (scale : Int) : Accum :=
  let st := pairs.foldl (fun r p => specialStep r p.1 p.2) c.special
  match maxExp as, maxExp bs with
  | some ga, some gb =>
    let l := ga + gb + scale - 24
    let s := pairs.foldl (fun (t : Int) p =>
      match p.1, p.2 with
      | .fin na ma ea, .fin nb mb eb =>
        if ma = 0 ∨ mb = 0 then t
        else
          let q : Int := (ma * mb : Nat)
          t + floorShift (if na != nb then -q else q) (ea + eb + scale - l)
      | _, _ => t) 0
    if !c.started then { special := st, started := true, acc := s, x := l }
    else
      let s' := if l < c.x then floorShift s (l - c.x) else s
      let l' := max l c.x
      let r := normAcc (c.acc + s' * (pow2 (l' - c.x) : Nat)) c.x
      { special := st, started := true, acc := r.1, x := r.2 }
  | _, _ => { c with special := st }

/-- One group of a dense operand pair. -/
def addGroup (c : Accum) (as bs : List ExactNum) (scale : Int) : Accum := addPairs c as bs (as.zip bs) scale

/-- One group on the integer path (R105): the pairs of elements it multiplies. -/
def addPairsInt (c : Accum) (pairs : List (ExactNum × ExactNum)) : Accum :=
  { c with acc := pairs.foldl (fun (t : Int) p =>
      match p.1, p.2 with
      | .fin na ma ea, .fin nb mb eb => t + scaled na ma ea 0 * scaled nb mb eb 0
      | _, _ => t) c.acc }

/-- The exact value of an accumulator (R110). -/
def Accum.value (c : Accum) : ExactNum :=
  match c.special with
  | some v => v
  | none => .ofInt c.acc c.x

end Sys2Proof.Machine
end

