-- ==== Sys2Proof/Machine/RegTable.lean ====
section
/-! DEFINITION. The register tables of the spec, block by block: for each register its page offset, the step and the
number of its repetitions, and its fields (high bit, low bit, access of R17, reset value, locked while enabled). Bits no
field lists are reserved: they read 0 and ignore writes (R18). Registers common to every page are in commonRegs. -/

namespace Sys2Proof.Machine

open Sys2Proof

/-- The access codes of R17. -/
inductive Access where
  | rw | ro | wo | w1c | w1s | rc
  deriving DecidableEq, Repr

/-- A field of a register: bits `[hi:lo]`, its access, its reset value and whether it is locked while enabled (R59). -/
structure FieldSpec where
  hi : Nat
  lo : Nat
  acc : Access
  reset : Nat
  locked : Bool
  deriving DecidableEq, Repr

/-- A register of a page, or `count` registers `step` bytes apart. -/
structure RegSpec where
  off : Nat
  step : Nat
  count : Nat
  fields : List FieldSpec
  deriving DecidableEq, Repr

/-- The registers every page opens with (R51 to R62). IDENT, CAPS and the block-specific bits are not here; the fields
of CTRL have a behaviour of their own (R56). -/
def commonRegs : List RegSpec := [
  ⟨0x10, 8, 1, [⟨1, 1, .w1s, 0, false⟩, ⟨0, 0, .ro, 0, false⟩]⟩,  -- CTRL
  ⟨0x18, 8, 1, [⟨3, 0, .ro, 0, false⟩]⟩,  -- STATUS
  ⟨0x20, 8, 1, [⟨63, 0, .ro, 0, false⟩]⟩,  -- ASSAY
  ⟨0x28, 8, 1, [⟨3, 0, .w1c, 0, false⟩]⟩,  -- ERR_SUMMARY
  ⟨0x30, 8, 1, [⟨2, 0, .w1c, 0, false⟩]⟩,  -- INT_STATUS
  ⟨0x38, 8, 1, [⟨2, 0, .rw, 0, false⟩]⟩,  -- INT_MASK
  ⟨0x40, 8, 1, [⟨63, 32, .rc, 0, false⟩, ⟨31, 0, .rc, 0, false⟩]⟩]  -- ERR_COUNT

/-- Registers of a MA page (R183). -/
def maRegs : List RegSpec := [
  ⟨0x8, 8, 1, [⟨25, 16, .ro, 0x400, false⟩, ⟨15, 12, .ro, 2, false⟩, ⟨11, 4, .ro, 0x77, false⟩, ⟨3, 3, .ro, 1, false⟩, ⟨2, 2, .ro, 1, false⟩, ⟨1, 1, .ro, 1, false⟩, ⟨0, 0, .ro, 1, false⟩]⟩,  -- CAPS
  ⟨0x18, 8, 1, [⟨21, 21, .ro, 0, false⟩, ⟨20, 20, .ro, 0, false⟩, ⟨19, 19, .ro, 0, false⟩, ⟨18, 18, .ro, 0, false⟩, ⟨17, 16, .ro, 0, false⟩]⟩,  -- STATUS
  ⟨0x28, 8, 1, [⟨20, 20, .w1c, 0, false⟩, ⟨19, 19, .w1c, 0, false⟩, ⟨18, 18, .w1c, 0, false⟩, ⟨17, 17, .w1c, 0, false⟩, ⟨16, 16, .w1c, 0, false⟩]⟩,  -- ERR_SUMMARY
  ⟨0x30, 8, 1, [⟨21, 21, .w1c, 0, false⟩, ⟨20, 16, .w1c, 0, false⟩]⟩,  -- INT_STATUS
  ⟨0x100, 8, 1, [⟨21, 0, .rw, 0x3f0ffa, true⟩]⟩,  -- FORMAT_MASK
  ⟨0x108, 8, 1, [⟨15, 8, .ro, 0xff, false⟩, ⟨7, 0, .ro, 0xff, false⟩]⟩,  -- SPARE_MAP
  ⟨0x110, 8, 1, [⟨7, 0, .rw, 8, true⟩]⟩,  -- TRANSIENT_LIMIT
  ⟨0x118, 8, 1, [⟨63, 48, .rc, 0, false⟩, ⟨47, 32, .rc, 0, false⟩, ⟨31, 0, .rc, 0, false⟩]⟩,  -- RESIDUE_COUNT
  ⟨0x120, 8, 1, [⟨63, 48, .ro, 0, false⟩, ⟨39, 32, .ro, 0, false⟩, ⟨23, 16, .ro, 0, false⟩, ⟨15, 8, .ro, 0, false⟩, ⟨7, 0, .ro, 0xff, false⟩]⟩,  -- LAST_RESIDUE
  ⟨0x128, 8, 1, [⟨63, 32, .ro, 0, false⟩, ⟨31, 24, .ro, 0, false⟩, ⟨23, 16, .ro, 0, false⟩, ⟨0, 0, .ro, 0, false⟩]⟩,  -- SLIP_INFO
  ⟨0x130, 8, 1, [⟨15, 8, .ro, 0, false⟩, ⟨7, 0, .ro, 0, false⟩]⟩,  -- LAST_STATUS
  ⟨0x138, 8, 1, [⟨63, 0, .rc, 0, false⟩]⟩,  -- TILES
  ⟨0x140, 8, 1, [⟨63, 32, .rc, 0, false⟩, ⟨31, 0, .rc, 0, false⟩]⟩]  -- TASKS

/-- Registers of a GE page (R216). -/
def geRegs : List RegSpec := [
  ⟨0x8, 8, 1, [⟨41, 41, .ro, 1, false⟩, ⟨40, 40, .ro, 1, false⟩, ⟨39, 32, .ro, 2, false⟩, ⟨31, 16, .ro, 0x400, false⟩, ⟨15, 0, .ro, 0x4000, false⟩]⟩,  -- CAPS
  ⟨0x18, 8, 1, [⟨21, 21, .ro, 0, false⟩, ⟨20, 20, .ro, 0, false⟩, ⟨19, 19, .ro, 0, false⟩, ⟨18, 18, .ro, 0, false⟩, ⟨17, 16, .ro, 0, false⟩]⟩,  -- STATUS
  ⟨0x28, 8, 1, [⟨17, 17, .w1c, 0, false⟩, ⟨16, 16, .w1c, 0, false⟩]⟩,  -- ERR_SUMMARY
  ⟨0x30, 8, 1, [⟨17, 16, .w1c, 0, false⟩]⟩,  -- INT_STATUS
  ⟨0x100, 8, 1, [⟨16, 0, .rw, 0x800, true⟩]⟩,  -- SPLIT_THRESHOLD
  ⟨0x108, 8, 1, [⟨15, 8, .ro, 0, false⟩, ⟨7, 0, .ro, 0, false⟩]⟩,  -- LAST_STATUS
  ⟨0x110, 8, 1, [⟨63, 0, .rc, 0, false⟩]⟩,  -- SECTORS
  ⟨0x118, 8, 1, [⟨63, 0, .rc, 0, false⟩]⟩,  -- LOCAL_ROWS
  ⟨0x120, 8, 1, [⟨63, 0, .rc, 0, false⟩]⟩,  -- REMOTE_ROWS
  ⟨0x128, 8, 1, [⟨63, 0, .rc, 0, false⟩]⟩,  -- COALESCED
  ⟨0x130, 8, 1, [⟨63, 0, .rc, 0, false⟩]⟩,  -- DEFAULTS
  ⟨0x138, 8, 1, [⟨63, 32, .rc, 0, false⟩, ⟨31, 0, .rc, 0, false⟩]⟩,  -- FRAGMENTS
  ⟨0x140, 8, 1, [⟨63, 32, .rc, 0, false⟩, ⟨31, 0, .rc, 0, false⟩]⟩,  -- TASKS
  ⟨0x180, 8, 1, [⟨63, 63, .ro, 0, false⟩, ⟨9, 0, .rw, 0, false⟩]⟩,  -- TBL_QUERY
  ⟨0x188, 8, 1, [⟨49, 0, .ro, 0, false⟩]⟩,  -- TBL_BASE
  ⟨0x190, 8, 1, [⟨63, 48, .ro, 0, false⟩, ⟨47, 40, .ro, 0, false⟩, ⟨32, 32, .ro, 0, false⟩, ⟨31, 0, .ro, 0, false⟩]⟩,  -- TBL_SHAPE
  ⟨0x1a0, 8, 1, [⟨63, 63, .ro, 0, false⟩, ⟨49, 0, .ro, 0, false⟩]⟩,  -- TBL_DEFAULT
  ⟨0x1a8, 8, 1, [⟨14, 0, .ro, 0, false⟩]⟩,  -- TBL_ROWB
  ⟨0x1b0, 8, 1, [⟨63, 32, .ro, 0, false⟩, ⟨31, 0, .ro, 0, false⟩]⟩,  -- TBL_REFS
  ⟨0x1b8, 8, 1, [⟨49, 48, .ro, 0, false⟩, ⟨15, 0, .ro, 0, false⟩]⟩]  -- TBL_DRAIN

/-- Registers of a VE page (R296). -/
def veRegs : List RegSpec := [
  ⟨0x8, 8, 1, [⟨33, 32, .ro, 0, false⟩, ⟨31, 24, .ro, 2, false⟩, ⟨23, 16, .ro, 0x20, false⟩, ⟨15, 0, .ro, 0x100, false⟩]⟩,  -- CAPS
  ⟨0x18, 8, 1, [⟨25, 24, .ro, 0, false⟩, ⟨23, 22, .ro, 0, false⟩, ⟨21, 21, .ro, 0, false⟩, ⟨20, 20, .ro, 0, false⟩, ⟨19, 19, .ro, 0, false⟩, ⟨18, 18, .ro, 0, false⟩, ⟨17, 16, .ro, 0, false⟩]⟩,  -- STATUS
  ⟨0x28, 8, 1, [⟨17, 17, .w1c, 0, false⟩, ⟨16, 16, .w1c, 0, false⟩]⟩,  -- ERR_SUMMARY
  ⟨0x30, 8, 1, [⟨17, 16, .w1c, 0, false⟩]⟩,  -- INT_STATUS
  ⟨0x100, 8, 1, [⟨0, 0, .rw, 0, true⟩]⟩,  -- CFG
  ⟨0x108, 8, 1, [⟨15, 8, .ro, 0, false⟩, ⟨7, 0, .ro, 0, false⟩]⟩,  -- LAST_STATUS
  ⟨0x110, 8, 1, [⟨11, 0, .ro, 0, false⟩]⟩,  -- LAST_INSTR
  ⟨0x118, 8, 1, [⟨63, 0, .rc, 0, false⟩]⟩,  -- INSTRUCTIONS
  ⟨0x120, 8, 1, [⟨63, 0, .rc, 0, false⟩]⟩,  -- LANE_OPS
  ⟨0x128, 8, 1, [⟨63, 0, .rc, 0, false⟩]⟩,  -- TILES
  ⟨0x130, 8, 1, [⟨5, 0, .w1c, 0, false⟩]⟩,  -- FLAG_OR
  ⟨0x138, 8, 1, [⟨63, 32, .rc, 0, false⟩, ⟨31, 0, .rc, 0, false⟩]⟩]  -- TASKS

/-- Registers of a ME page (R250). -/
def meRegs : List RegSpec := [
  ⟨0x8, 8, 1, [⟨31, 16, .ro, 0xc00, false⟩, ⟨15, 8, .ro, 0x20, false⟩, ⟨7, 0, .ro, 0x20, false⟩]⟩,  -- CAPS
  ⟨0x18, 8, 1, [⟨23, 20, .ro, 0, false⟩, ⟨19, 19, .ro, 0, false⟩, ⟨18, 18, .ro, 0, false⟩, ⟨17, 16, .ro, 0, false⟩]⟩,  -- STATUS
  ⟨0x28, 8, 1, [⟨17, 17, .w1c, 0, false⟩, ⟨16, 16, .w1c, 0, false⟩]⟩,  -- ERR_SUMMARY
  ⟨0x30, 8, 1, [⟨17, 16, .w1c, 0, false⟩]⟩,  -- INT_STATUS
  ⟨0x100, 8, 1, [⟨15, 8, .ro, 0, false⟩, ⟨7, 0, .ro, 0, false⟩]⟩,  -- LAST_STATUS
  ⟨0x108, 8, 1, [⟨63, 0, .rc, 0, false⟩]⟩,  -- RECORDS_IN
  ⟨0x110, 8, 1, [⟨63, 0, .rc, 0, false⟩]⟩,  -- RECORDS_OUT
  ⟨0x118, 8, 1, [⟨63, 0, .rc, 0, false⟩]⟩,  -- OUT_OF_RANGE
  ⟨0x120, 8, 1, [⟨63, 32, .rc, 0, false⟩, ⟨31, 0, .rc, 0, false⟩]⟩,  -- PATHS
  ⟨0x128, 8, 1, [⟨63, 0, .ro, 0, false⟩]⟩,  -- LAST_NEED
  ⟨0x130, 8, 1, [⟨63, 32, .rc, 0, false⟩, ⟨31, 0, .rc, 0, false⟩]⟩]  -- TASKS

/-- Registers of a PE page (R251). -/
def peRegs : List RegSpec := [
  ⟨0x8, 8, 1, [⟨63, 48, .ro, 0x400, false⟩, ⟨47, 32, .ro, 0x600, false⟩, ⟨31, 16, .ro, 0x1000, false⟩, ⟨15, 8, .ro, 3, false⟩, ⟨7, 0, .ro, 0x40, false⟩]⟩,  -- CAPS
  ⟨0x18, 8, 1, [⟨20, 20, .ro, 0, false⟩, ⟨19, 19, .ro, 0, false⟩, ⟨18, 18, .ro, 0, false⟩, ⟨17, 16, .ro, 0, false⟩]⟩,  -- STATUS
  ⟨0x28, 8, 1, [⟨17, 17, .w1c, 0, false⟩, ⟨16, 16, .w1c, 0, false⟩]⟩,  -- ERR_SUMMARY
  ⟨0x30, 8, 1, [⟨18, 18, .w1c, 0, false⟩, ⟨17, 16, .w1c, 0, false⟩]⟩,  -- INT_STATUS
  ⟨0x100, 8, 1, [⟨15, 8, .ro, 0, false⟩, ⟨7, 0, .ro, 0, false⟩]⟩,  -- LAST_STATUS
  ⟨0x108, 8, 1, [⟨63, 0, .rc, 0, false⟩]⟩,  -- TOKENS
  ⟨0x110, 8, 1, [⟨63, 0, .rc, 0, false⟩]⟩,  -- SELECTED
  ⟨0x118, 8, 1, [⟨63, 0, .rc, 0, false⟩]⟩,  -- TRUNCATIONS
  ⟨0x120, 8, 1, [⟨63, 32, .rc, 0, false⟩, ⟨31, 0, .rc, 0, false⟩]⟩,  -- RESIDUE_COUNT
  ⟨0x128, 8, 1, [⟨63, 0, .ro, 0, false⟩]⟩,  -- WEIGHT_ADDR
  ⟨0x130, 8, 1, [⟨63, 32, .rc, 0, false⟩, ⟨31, 0, .rc, 0, false⟩]⟩]  -- TASKS

/-- Registers of a QC page (R152, R252). -/
def qcRegs : List RegSpec := [
  ⟨0x8, 8, 1, [⟨17, 17, .ro, 1, false⟩, ⟨16, 16, .ro, 1, false⟩, ⟨15, 8, .ro, 0x80, false⟩, ⟨7, 4, .ro, 5, false⟩, ⟨3, 0, .ro, 9, false⟩]⟩,  -- CAPS
  ⟨0x18, 8, 1, [⟨19, 19, .ro, 0, false⟩, ⟨18, 18, .ro, 0, false⟩, ⟨17, 16, .ro, 0, false⟩]⟩,  -- STATUS
  ⟨0x28, 8, 1, [⟨17, 17, .w1c, 0, false⟩, ⟨16, 16, .w1c, 0, false⟩]⟩,  -- ERR_SUMMARY
  ⟨0x30, 8, 1, [⟨17, 17, .w1c, 0, false⟩, ⟨16, 16, .w1c, 0, false⟩]⟩,  -- INT_STATUS
  ⟨0x100, 8, 1, [⟨63, 32, .ro, 0, false⟩, ⟨31, 24, .ro, 0, false⟩, ⟨23, 16, .ro, 0, false⟩]⟩,  -- SLIP_INFO
  ⟨0x108, 8, 1, [⟨15, 8, .ro, 0, false⟩, ⟨7, 0, .ro, 0, false⟩]⟩,  -- LAST_STATUS
  ⟨0x110, 8, 1, [⟨63, 0, .rc, 0, false⟩]⟩,  -- ELEMENTS
  ⟨0x118, 8, 1, [⟨63, 32, .rc, 0, false⟩, ⟨31, 0, .rc, 0, false⟩]⟩,  -- TASKS
  ⟨0x400, 8, 32, [⟨63, 0, .rw, 0, true⟩]⟩,  -- ROT_SIGN
  ⟨0x200, 8, 1, [⟨1, 1, .rw, 1, true⟩, ⟨0, 0, .rw, 1, true⟩]⟩,  -- SPARSE_CFG
  ⟨0x208, 8, 1, [⟨63, 0, .rc, 0, false⟩]⟩,  -- PRUNE_GROUPS
  ⟨0x210, 8, 1, [⟨63, 0, .rc, 0, false⟩]⟩,  -- TILES_RAW
  ⟨0x218, 8, 1, [⟨63, 0, .rc, 0, false⟩]⟩,  -- TILES_CSR
  ⟨0x220, 8, 1, [⟨63, 0, .rc, 0, false⟩]⟩,  -- TILES_BITMAP
  ⟨0x228, 8, 1, [⟨63, 0, .rc, 0, false⟩]⟩,  -- BYTES_DENSE
  ⟨0x230, 8, 1, [⟨63, 0, .rc, 0, false⟩]⟩,  -- BYTES_EMITTED
  ⟨0x238, 8, 1, [⟨63, 32, .ro, 0, false⟩, ⟨7, 0, .ro, 0, false⟩]⟩]  -- LAST_HEADER

/-- Registers of a CL page (R427). -/
def clRegs : List RegSpec := [
  ⟨0x8, 8, 1, [⟨47, 32, .ro, 0x400, false⟩, ⟨31, 16, .ro, 0x1000, false⟩, ⟨15, 0, .ro, 0x801f, false⟩]⟩,  -- CAPS
  ⟨0x18, 8, 1, [⟨21, 21, .ro, 0, false⟩, ⟨20, 20, .ro, 0, false⟩, ⟨19, 19, .ro, 0, false⟩, ⟨18, 18, .ro, 0, false⟩, ⟨17, 16, .ro, 0, false⟩]⟩,  -- STATUS
  ⟨0x28, 8, 1, [⟨19, 19, .w1c, 0, false⟩, ⟨18, 18, .w1c, 0, false⟩, ⟨17, 17, .w1c, 0, false⟩, ⟨16, 16, .w1c, 0, false⟩]⟩,  -- ERR_SUMMARY
  ⟨0x30, 8, 1, [⟨19, 16, .w1c, 0, false⟩]⟩,  -- INT_STATUS
  ⟨0x100, 8, 1, [⟨47, 32, .rw, 0x1f4, true⟩, ⟨31, 16, .rw, 0x2000, true⟩, ⟨4, 1, .rw, 0xf, true⟩, ⟨0, 0, .ro, 1, false⟩]⟩,  -- CFG
  ⟨0x108, 8, 1, [⟨15, 8, .ro, 0, false⟩, ⟨7, 0, .ro, 0, false⟩]⟩,  -- LAST_STATUS
  ⟨0x110, 8, 1, [⟨63, 32, .ro, 0, false⟩, ⟨31, 24, .ro, 0, false⟩, ⟨23, 16, .ro, 0, false⟩]⟩,  -- SLIP_INFO
  ⟨0x118, 8, 1, [⟨63, 0, .ro, 0, false⟩]⟩,  -- LAST_NEED
  ⟨0x120, 8, 1, [⟨63, 0, .rc, 0, false⟩]⟩,  -- ROWS_REQUESTED
  ⟨0x128, 8, 1, [⟨63, 0, .rc, 0, false⟩]⟩,  -- ROWS_SERVED
  ⟨0x130, 8, 1, [⟨63, 0, .rc, 0, false⟩]⟩,  -- RAW_BYTES
  ⟨0x138, 8, 1, [⟨63, 0, .rc, 0, false⟩]⟩,  -- WIRE_BYTES
  ⟨0x140, 8, 1, [⟨63, 0, .rc, 0, false⟩]⟩,  -- BATCHES
  ⟨0x148, 8, 1, [⟨63, 0, .rc, 0, false⟩]⟩,  -- STRAY
  ⟨0x150, 8, 1, [⟨10, 0, .ro, 0, false⟩]⟩,  -- OPEN
  ⟨0x158, 8, 1, [⟨63, 32, .rc, 0, false⟩, ⟨31, 0, .rc, 0, false⟩]⟩]  -- TASKS

/-- Registers of a CO page (R429). -/
def coRegs : List RegSpec := [
  ⟨0x8, 8, 1, [⟨47, 32, .ro, 0x400, false⟩, ⟨7, 0, .ro, 0xf, false⟩]⟩,  -- CAPS
  ⟨0x18, 8, 1, [⟨27, 24, .ro, 1, false⟩, ⟨20, 20, .ro, 0, false⟩, ⟨19, 19, .ro, 0, false⟩, ⟨18, 18, .ro, 0, false⟩, ⟨17, 16, .ro, 0, false⟩]⟩,  -- STATUS
  ⟨0x28, 8, 1, [⟨18, 18, .w1c, 0, false⟩, ⟨17, 17, .w1c, 0, false⟩, ⟨16, 16, .w1c, 0, false⟩]⟩,  -- ERR_SUMMARY
  ⟨0x30, 8, 1, [⟨18, 16, .w1c, 0, false⟩]⟩,  -- INT_STATUS
  ⟨0x100, 8, 1, [⟨19, 0, .rw, 0x2710, true⟩]⟩,  -- CFG
  ⟨0x108, 8, 1, [⟨41, 32, .ro, 0, false⟩, ⟨3, 0, .ro, 0, false⟩]⟩,  -- SLOW_SEEN
  ⟨0x110, 8, 1, [⟨41, 32, .ro, 0, false⟩, ⟨31, 0, .ro, 0, false⟩]⟩,  -- LAST_STALL
  ⟨0x118, 8, 1, [⟨15, 8, .ro, 0, false⟩, ⟨7, 0, .ro, 0, false⟩]⟩,  -- LAST_STATUS
  ⟨0x120, 8, 1, [⟨63, 0, .rc, 0, false⟩]⟩,  -- BYTES
  ⟨0x128, 8, 1, [⟨63, 0, .rc, 0, false⟩]⟩,  -- COMMITS
  ⟨0x130, 8, 1, [⟨63, 32, .rc, 0, false⟩, ⟨31, 0, .rc, 0, false⟩]⟩]  -- TASKS

/-- Registers of a LG page (R332). -/
def lgRegs : List RegSpec := [
  ⟨0x8, 8, 1, [⟨58, 48, .ro, 0x400, false⟩, ⟨47, 32, .ro, 0x1000, false⟩, ⟨31, 24, .ro, 2, false⟩, ⟨23, 16, .ro, 4, false⟩, ⟨15, 0, .ro, 0x4000, false⟩]⟩,  -- CAPS
  ⟨0x18, 8, 1, [⟨17, 17, .ro, 0, false⟩, ⟨16, 16, .ro, 0, false⟩]⟩,  -- STATUS
  ⟨0x28, 8, 1, [⟨17, 17, .w1c, 0, false⟩, ⟨16, 16, .w1c, 0, false⟩]⟩,  -- ERR_SUMMARY
  ⟨0x30, 8, 1, [⟨17, 16, .w1c, 0, false⟩]⟩,  -- INT_STATUS
  ⟨0x100, 8, 1, [⟨10, 0, .rw, 0x100, true⟩]⟩,  -- FLOW_CFG
  ⟨0x108, 8, 4, [⟨19, 0, .rw, 0x3e8, true⟩]⟩,  -- TICKn
  ⟨0x128, 8, 1, [⟨49, 0, .rw, 0, true⟩]⟩,  -- LOG_BASE
  ⟨0x130, 8, 1, [⟨49, 0, .rw, 0, true⟩]⟩,  -- LOG_BYTES
  ⟨0x138, 8, 1, [⟨63, 0, .rc, 0, false⟩]⟩,  -- ADMITTED
  ⟨0x140, 8, 1, [⟨63, 0, .rc, 0, false⟩]⟩,  -- DISPATCHED
  ⟨0x148, 8, 1, [⟨63, 48, .rc, 0, false⟩, ⟨47, 32, .rc, 0, false⟩, ⟨31, 0, .rc, 0, false⟩]⟩,  -- OUTCOMES
  ⟨0x150, 8, 1, [⟨63, 0, .rc, 0, false⟩]⟩,  -- CARRIED
  ⟨0x158, 8, 1, [⟨63, 0, .rc, 0, false⟩]⟩,  -- CTX_SWITCHES
  ⟨0x160, 8, 1, [⟨63, 32, .ro, 0, false⟩, ⟨7, 0, .ro, 0, false⟩]⟩,  -- LAST_REFUSED
  ⟨0x168, 8, 1, [⟨47, 0, .ro, 0, false⟩]⟩]  -- ADMIT_SEQ

/-- Registers of a VB page (R372). -/
def vbRegs : List RegSpec := [
  ⟨0x8, 8, 1, [⟨39, 32, .ro, 0x40, false⟩, ⟨31, 24, .ro, 0x10, false⟩, ⟨23, 16, .ro, 8, false⟩, ⟨15, 8, .ro, 6, false⟩, ⟨7, 0, .ro, 0x1b, false⟩]⟩,  -- CAPS
  ⟨0x18, 8, 1, [⟨25, 25, .ro, 0, false⟩, ⟨24, 24, .ro, 0, false⟩, ⟨23, 23, .ro, 0, false⟩, ⟨22, 16, .ro, 0, false⟩]⟩,  -- STATUS
  ⟨0x28, 8, 1, [⟨17, 17, .w1c, 0, false⟩, ⟨16, 16, .w1c, 0, false⟩]⟩,  -- ERR_SUMMARY
  ⟨0x30, 8, 1, [⟨18, 18, .w1c, 0, false⟩, ⟨17, 16, .w1c, 0, false⟩]⟩,  -- INT_STATUS
  ⟨0x100, 8, 1, [⟨1, 0, .rw, 0, false⟩]⟩,  -- MODE
  ⟨0x108, 8, 1, [⟨0, 0, .w1s, 0, false⟩]⟩,  -- CMD
  ⟨0x110, 8, 1, [⟨63, 63, .ro, 0, false⟩, ⟨47, 40, .ro, 0, false⟩, ⟨39, 36, .ro, 0, false⟩, ⟨35, 28, .ro, 0, false⟩, ⟨26, 0, .ro, 0, false⟩]⟩,  -- LAST_BAD
  ⟨0x118, 8, 1, [⟨63, 0, .rc, 0, false⟩]⟩,  -- HITS
  ⟨0x120, 8, 1, [⟨63, 0, .rc, 0, false⟩]⟩,  -- MISSES
  ⟨0x128, 8, 1, [⟨63, 0, .rc, 0, false⟩]⟩,  -- MERGED
  ⟨0x130, 8, 1, [⟨63, 0, .rc, 0, false⟩]⟩,  -- DRAINED
  ⟨0x138, 8, 1, [⟨63, 32, .rc, 0, false⟩, ⟨31, 0, .rc, 0, false⟩]⟩,  -- OFFERS
  ⟨0x140, 8, 1, [⟨63, 0, .rc, 0, false⟩]⟩,  -- REFETCH
  ⟨0x148, 8, 1, [⟨63, 0, .rc, 0, false⟩]⟩]  -- ACCUMS

/-- Registers of a HS page (R374). -/
def hsRegs : List RegSpec := [
  ⟨0x8, 8, 1, [⟨63, 48, .ro, 0x2000, false⟩, ⟨47, 40, .ro, 8, false⟩, ⟨39, 32, .ro, 2, false⟩, ⟨31, 24, .ro, 0x40, false⟩, ⟨23, 16, .ro, 0x10, false⟩, ⟨15, 0, .ro, 0x50, false⟩]⟩,  -- CAPS
  ⟨0x18, 8, 1, [⟨26, 24, .ro, 1, false⟩, ⟨23, 23, .ro, 0, false⟩, ⟨22, 22, .ro, 0, false⟩, ⟨21, 21, .ro, 0, false⟩, ⟨20, 20, .ro, 0, false⟩, ⟨19, 19, .ro, 0, false⟩]⟩,  -- STATUS
  ⟨0x28, 8, 1, [⟨24, 24, .w1c, 0, false⟩, ⟨23, 23, .w1c, 0, false⟩, ⟨22, 22, .w1c, 0, false⟩, ⟨21, 21, .w1c, 0, false⟩, ⟨20, 20, .w1c, 0, false⟩, ⟨19, 19, .w1c, 0, false⟩, ⟨18, 18, .w1c, 0, false⟩, ⟨17, 17, .w1c, 0, false⟩, ⟨16, 16, .w1c, 0, false⟩]⟩,  -- ERR_SUMMARY
  ⟨0x30, 8, 1, [⟨24, 16, .w1c, 0, false⟩]⟩,  -- INT_STATUS
  ⟨0x100, 8, 1, [⟨63, 48, .rw, 0x100, true⟩, ⟨17, 17, .rw, 0, true⟩, ⟨16, 16, .ro, 1, false⟩, ⟨8, 0, .rw, 0x100, true⟩]⟩,  -- REGn
  ⟨0x108, 8, 15, [⟨63, 48, .rw, 0x100, true⟩, ⟨17, 17, .rw, 0, true⟩, ⟨16, 16, .rw, 0, true⟩, ⟨8, 0, .rw, 0, true⟩]⟩,  -- REGn
  ⟨0x180, 8, 1, [⟨11, 8, .rw, 0, true⟩, ⟨7, 4, .rw, 0, true⟩, ⟨3, 0, .rw, 0, true⟩]⟩,  -- PARTITIONS
  ⟨0x188, 8, 1, [⟨63, 63, .rw, 0, true⟩, ⟨36, 0, .rw, 0, true⟩]⟩,  -- PCACHE_BASE
  ⟨0x190, 8, 1, [⟨36, 0, .rw, 0, true⟩]⟩,  -- PCACHE_BYTES
  ⟨0x198, 8, 1, [⟨31, 16, .rw, 0x18, true⟩, ⟨7, 0, .rw, 4, true⟩]⟩,  -- SPARING_CFG
  ⟨0x1a0, 8, 1, [⟨23, 16, .ro, 0, false⟩, ⟨15, 0, .ro, 0, false⟩]⟩,  -- TEMP
  ⟨0x1a8, 8, 1, [⟨63, 0, .ro, 0, false⟩]⟩,  -- LANE_MAP
  ⟨0x1b0, 8, 1, [⟨63, 32, .ro, 0, false⟩, ⟨31, 16, .ro, 0, false⟩, ⟨15, 0, .ro, 0, false⟩]⟩,  -- SPARES_USED
  ⟨0x1b8, 8, 1, [⟨63, 63, .ro, 0, false⟩, ⟨55, 48, .ro, 0, false⟩, ⟨36, 0, .ro, 0, false⟩]⟩,  -- LAST_ECC
  ⟨0x1c0, 8, 1, [⟨63, 63, .ro, 0, false⟩, ⟨36, 0, .ro, 0, false⟩]⟩,  -- LAST_RETIRED
  ⟨0x1c8, 8, 1, [⟨63, 0, .ro, 0, false⟩]⟩,  -- UNMAPPED_ADDR
  ⟨0x1d0, 8, 1, [⟨63, 32, .rc, 0, false⟩, ⟨31, 0, .rc, 0, false⟩]⟩,  -- ECC_COUNT
  ⟨0x1d8, 8, 1, [⟨63, 0, .rc, 0, false⟩]⟩,  -- SECTORS_READ
  ⟨0x1e0, 8, 1, [⟨63, 0, .rc, 0, false⟩]⟩,  -- SECTORS_WRITTEN
  ⟨0x200, 8, 16, [⟨63, 0, .rc, 0, false⟩]⟩,  -- SERVEDn
  ⟨0x280, 8, 16, [⟨63, 0, .rc, 0, false⟩]⟩]  -- BORROWEDn

/-- Registers of a KP page (R423). -/
def kpRegs : List RegSpec := [
  ⟨0x8, 8, 1, [⟨47, 32, .ro, 0x100, false⟩, ⟨31, 24, .ro, 2, false⟩, ⟨23, 16, .ro, 3, false⟩, ⟨15, 8, .ro, 1, false⟩, ⟨7, 0, .ro, 8, false⟩]⟩,  -- CAPS
  ⟨0x18, 8, 1, [⟨27, 24, .ro, 0, false⟩, ⟨23, 23, .ro, 0, false⟩, ⟨22, 22, .ro, 0, false⟩, ⟨21, 21, .ro, 0, false⟩, ⟨20, 20, .ro, 0, false⟩]⟩,  -- STATUS
  ⟨0x28, 8, 1, [⟨22, 22, .w1c, 0, false⟩, ⟨21, 21, .w1c, 0, false⟩, ⟨20, 20, .w1c, 0, false⟩, ⟨19, 19, .w1c, 0, false⟩, ⟨18, 18, .w1c, 0, false⟩, ⟨17, 17, .w1c, 0, false⟩, ⟨16, 16, .w1c, 0, false⟩]⟩,  -- ERR_SUMMARY
  ⟨0x30, 8, 1, [⟨23, 23, .w1c, 0, false⟩, ⟨22, 16, .w1c, 0, false⟩]⟩,  -- INT_STATUS
  ⟨0x100, 8, 1, [⟨23, 8, .rw, 0xf0, true⟩, ⟨4, 4, .rw, 1, true⟩, ⟨1, 0, .rw, 0, true⟩]⟩,  -- CFG
  ⟨0x108, 8, 1, [⟨0, 0, .w1s, 0, false⟩]⟩,  -- CMD
  ⟨0x110, 8, 1, [⟨41, 32, .ro, 0, false⟩, ⟨13, 8, .ro, 0, false⟩, ⟨7, 0, .ro, 0, false⟩]⟩,  -- PEER
  ⟨0x118, 8, 1, [⟨35, 32, .ro, 0xf, false⟩, ⟨31, 0, .ro, 0, false⟩]⟩,  -- LANE_MAP
  ⟨0x120, 8, 1, [⟨63, 32, .rc, 0, false⟩, ⟨31, 0, .rc, 0, false⟩]⟩,  -- FEC
  ⟨0x128, 8, 1, [⟨63, 32, .rc, 0, false⟩, ⟨31, 0, .rc, 0, false⟩]⟩,  -- REPLAYS
  ⟨0x130, 8, 1, [⟨31, 0, .rc, 0, false⟩]⟩,  -- RETRAINS
  ⟨0x138, 8, 1, [⟨63, 0, .rc, 0, false⟩]⟩,  -- FRAMES_TX
  ⟨0x140, 8, 1, [⟨63, 0, .rc, 0, false⟩]⟩,  -- FRAMES_RX
  ⟨0x148, 8, 1, [⟨63, 0, .rc, 0, false⟩]⟩,  -- IDLE_TX
  ⟨0x180, 8, 9, [⟨63, 0, .rc, 0, false⟩]⟩]  -- LANE_SERn

/-- Registers of a CC page (R334). -/
def ccRegs : List RegSpec := [
  ⟨0x8, 8, 1, [⟨16, 16, .ro, 1, false⟩, ⟨15, 0, .ro, 0x7d0, false⟩]⟩,  -- CAPS
  ⟨0x18, 8, 1, [⟨18, 18, .ro, 0, false⟩, ⟨17, 17, .ro, 0, false⟩, ⟨16, 16, .ro, 0, false⟩]⟩,  -- STATUS
  ⟨0x28, 8, 1, [⟨17, 17, .w1c, 0, false⟩, ⟨16, 16, .w1c, 0, false⟩]⟩,  -- ERR_SUMMARY
  ⟨0x30, 8, 1, [⟨17, 16, .w1c, 0, false⟩]⟩,  -- INT_STATUS
  ⟨0x100, 8, 1, [⟨63, 32, .rc, 0, false⟩, ⟨31, 0, .rc, 0, false⟩]⟩,  -- EVALS
  ⟨0x108, 8, 1, [⟨63, 0, .rc, 0, false⟩]⟩,  -- COND_TRUE
  ⟨0x110, 8, 1, [⟨63, 0, .rc, 0, false⟩]⟩,  -- WIDENS
  ⟨0x118, 8, 1, [⟨63, 0, .ro, 0, false⟩]⟩,  -- HEARTBEAT
  ⟨0x120, 8, 1, [⟨7, 0, .ro, 0, false⟩]⟩]  -- FW_STATE

/-- Registers of a ES page (R465). -/
def esRegs : List RegSpec := [
  ⟨0x8, 8, 1, [⟨39, 32, .ro, 0x10, false⟩, ⟨31, 24, .ro, 0xc, false⟩, ⟨15, 0, .ro, 0x1f40, false⟩]⟩,  -- CAPS
  ⟨0x18, 8, 1, [⟨19, 19, .ro, 0, false⟩, ⟨18, 18, .ro, 0, false⟩, ⟨17, 17, .ro, 0, false⟩, ⟨16, 16, .ro, 0, false⟩]⟩,  -- STATUS
  ⟨0x28, 8, 1, [⟨18, 18, .w1c, 0, false⟩, ⟨17, 17, .w1c, 0, false⟩, ⟨16, 16, .w1c, 0, false⟩]⟩,  -- ERR_SUMMARY
  ⟨0x30, 8, 1, [⟨18, 16, .w1c, 0, false⟩]⟩,  -- INT_STATUS
  ⟨0x100, 24, 16, [⟨63, 0, .rw, 0, true⟩]⟩,  -- RGN_BASEn
  ⟨0x108, 24, 16, [⟨63, 63, .rw, 0, true⟩, ⟨62, 62, .rw, 0, true⟩, ⟨36, 0, .rw, 0, true⟩]⟩,  -- RGN_BYTESn
  ⟨0x110, 24, 16, [⟨63, 0, .rw, 0, true⟩]⟩,  -- RGN_TWINn
  ⟨0x280, 8, 1, [⟨63, 0, .rw, 0, true⟩]⟩,  -- UNDO_BASE
  ⟨0x288, 8, 1, [⟨36, 0, .rw, 0, true⟩]⟩,  -- UNDO_BYTES
  ⟨0x290, 8, 1, [⟨63, 0, .rw, 0, true⟩]⟩,  -- STATE_BASE
  ⟨0x298, 8, 1, [⟨36, 0, .rw, 0, true⟩]⟩,  -- STATE_BYTES
  ⟨0x2a0, 8, 1, [⟨31, 0, .ro, 0, false⟩]⟩,  -- UNDO_USED
  ⟨0x2a8, 8, 1, [⟨31, 0, .rc, 0, false⟩]⟩,  -- UNDO_PEAK
  ⟨0x2b0, 8, 1, [⟨63, 32, .ro, 0, false⟩, ⟨31, 0, .ro, 0, false⟩]⟩,  -- DIRTY
  ⟨0x2b8, 8, 1, [⟨63, 0, .rc, 0, false⟩]⟩,  -- COPIES
  ⟨0x2c0, 8, 1, [⟨63, 0, .rc, 0, false⟩]⟩,  -- RESTORED
  ⟨0x2c8, 8, 1, [⟨63, 0, .ro, 0, false⟩]⟩]  -- LAST_RESERVED

/-- Registers of a DEV page (R74). -/
def devRegs : List RegSpec := [
  ⟨0x100, 8, 1, [⟨63, 0, .ro, 0, false⟩]⟩,  -- PART
  ⟨0x108, 8, 1, [⟨63, 0, .ro, 0, false⟩]⟩,  -- SERIAL
  ⟨0x110, 8, 1, [⟨63, 0, .ro, 0, false⟩]⟩,  -- FW_VERSION
  ⟨0x118, 8, 1, [⟨63, 0, .ro, 0x600, false⟩]⟩,  -- BEHAVIOUR
  ⟨0x120, 8, 1, [⟨63, 0, .ro, 0, false⟩]⟩,  -- STATE
  ⟨0x128, 8, 1, [⟨63, 0, .ro, 0, false⟩]⟩,  -- RETIRE_SUMMARY
  ⟨0x130, 8, 1, [⟨63, 0, .ro, 0, false⟩]⟩,  -- INT_ROLLUP_Q
  ⟨0x138, 8, 1, [⟨63, 0, .ro, 0, false⟩]⟩,  -- INT_ROLLUP_DEV
  ⟨0x140, 8, 1, [⟨63, 0, .ro, 0, false⟩]⟩,  -- ERR_ROLLUP_Q
  ⟨0x148, 8, 1, [⟨63, 0, .ro, 0, false⟩]⟩,  -- ERR_ROLLUP_DEV
  ⟨0x150, 8, 1, [⟨63, 0, .ro, 0, false⟩]⟩,  -- ASSAY_LAST
  ⟨0x158, 8, 1, [⟨63, 0, .ro, 0, false⟩]⟩,  -- BAD_ACCESS_ADDR
  ⟨0x190, 8, 1, [⟨63, 0, .ro, 0, false⟩]⟩,  -- TALLY_SNAP_W0
  ⟨0x198, 8, 1, [⟨63, 0, .ro, 0, false⟩]⟩,  -- TALLY_SNAP_W1
  ⟨0x1a0, 8, 1, [⟨63, 0, .ro, 0, false⟩]⟩,  -- TALLY_SNAP_W2
  ⟨0x1a8, 8, 1, [⟨63, 0, .ro, 0, false⟩]⟩,  -- TALLY_SNAP_W3
  ⟨0x1b0, 8, 1, [⟨63, 0, .ro, 0, false⟩]⟩,  -- TALLY_COMMIT_EPOCH
  ⟨0x28, 8, 1, [⟨18, 16, .w1c, 0, false⟩]⟩,  -- ERR_SUMMARY
  ⟨0x180, 8, 1, [⟨1, 1, .ro, 0, false⟩, ⟨0, 0, .w1s, 0, false⟩]⟩,  -- TALLY_CTRL
  ⟨0x188, 8, 1, [⟨63, 63, .ro, 0, false⟩, ⟨15, 0, .rw, 0, false⟩]⟩,  -- TALLY_SNAP_IDX
  ⟨0x1f8, 8, 1, [⟨63, 0, .rw, 0, false⟩]⟩]  -- SCRATCH

/-- Registers of a HI page (R496). -/
def hiRegs0 : List RegSpec := [
  ⟨0x8, 8, 1, [⟨63, 48, .ro, 0x100, false⟩, ⟨47, 32, .ro, 0x800, false⟩, ⟨31, 24, .ro, 4, false⟩, ⟨23, 8, .ro, 0x1000, false⟩, ⟨7, 7, .ro, 1, false⟩]⟩,  -- CAPS
  ⟨0x18, 8, 1, [⟨20, 20, .ro, 0, false⟩, ⟨19, 19, .ro, 0, false⟩, ⟨18, 18, .ro, 0, false⟩]⟩,  -- STATUS
  ⟨0x28, 8, 1, [⟨20, 20, .w1c, 0, false⟩, ⟨19, 19, .w1c, 0, false⟩, ⟨18, 18, .w1c, 0, false⟩, ⟨17, 17, .w1c, 0, false⟩, ⟨16, 16, .w1c, 0, false⟩]⟩,  -- ERR_SUMMARY
  ⟨0x30, 8, 1, [⟨20, 16, .w1c, 0, false⟩]⟩,  -- INT_STATUS
  ⟨0x100, 8, 1, [⟨7, 0, .rw, 0, false⟩]⟩,  -- RING_IDX
  ⟨0x108, 8, 1, [⟨63, 63, .ro, 0, false⟩, ⟨31, 16, .ro, 0, false⟩, ⟨1, 0, .wo, 0, false⟩]⟩,  -- RING_CMD
  ⟨0x110, 8, 1, [⟨63, 0, .rw, 0, false⟩]⟩,  -- RING_SQ
  ⟨0x118, 8, 1, [⟨63, 0, .rw, 0, false⟩]⟩,  -- RING_CQ
  ⟨0x120, 8, 1, [⟨63, 0, .rw, 0, false⟩]⟩,  -- RING_STAT
  ⟨0x128, 8, 1, [⟨63, 48, .rw, 0, false⟩, ⟨47, 32, .rw, 1, false⟩, ⟨26, 16, .rw, 0, false⟩, ⟨12, 8, .rw, 6, false⟩, ⟨4, 0, .rw, 6, false⟩]⟩,  -- RING_CFG
  ⟨0x130, 8, 1, [⟨31, 0, .rw, 0, false⟩]⟩,  -- RING_START
  ⟨0x138, 8, 1, [⟨43, 40, .ro, 0, false⟩, ⟨35, 32, .ro, 0, false⟩, ⟨31, 0, .ro, 0, false⟩]⟩,  -- RING_STATE
  ⟨0x140, 8, 1, [⟨63, 32, .ro, 0, false⟩, ⟨31, 0, .ro, 0, false⟩]⟩,  -- RING_PTRS
  ⟨0x148, 8, 1, [⟨31, 0, .ro, 0, false⟩]⟩,  -- RING_CQH
  ⟨0x180, 8, 1, [⟨63, 0, .rw, 0, true⟩]⟩,  -- ERR_BASE
  ⟨0x188, 8, 1, [⟨63, 63, .rw, 0, true⟩, ⟨26, 16, .rw, 0, true⟩, ⟨4, 0, .rw, 6, true⟩]⟩,  -- ERR_CFG
  ⟨0x190, 8, 1, [⟨31, 0, .rw, 0, false⟩]⟩,  -- ERR_HEAD
  ⟨0x198, 8, 1, [⟨31, 0, .ro, 0, false⟩]⟩,  -- ERR_TAIL
  ⟨0x1a0, 8, 1, [⟨63, 0, .rc, 0, false⟩]⟩,  -- ERR_LOST
  ⟨0x1c0, 8, 1, [⟨11, 0, .rw, 0x800, true⟩]⟩,  -- MSIX_CFG
  ⟨0x1c8, 8, 1, [⟨2, 0, .rw, 4, true⟩]⟩,  -- HDM_CFG
  ⟨0x1d0, 8, 4, [⟨40, 28, .rw, 0, true⟩]⟩,  -- HDM_DPAn
  ⟨0x1f0, 8, 1, [⟨12, 8, .ro, 0, false⟩, ⟨3, 0, .ro, 0, false⟩]⟩,  -- LINK
  ⟨0x200, 8, 1, [⟨63, 0, .rc, 0, false⟩]⟩]  -- DESC_FETCHED

/-- Registers of a HI page (R496). -/
def hiRegs1 : List RegSpec := [
  ⟨0x208, 8, 1, [⟨63, 0, .rc, 0, false⟩]⟩,  -- RECORDS
  ⟨0x210, 8, 1, [⟨63, 0, .rc, 0, false⟩]⟩,  -- RECORDS_DROPPED
  ⟨0x218, 8, 1, [⟨63, 0, .rc, 0, false⟩]⟩,  -- MEM_READS
  ⟨0x220, 8, 1, [⟨63, 0, .rc, 0, false⟩]⟩,  -- MEM_WRITES
  ⟨0x800, 8, 71, [⟨63, 63, .rw, 0, true⟩, ⟨10, 0, .rw, 0, true⟩]⟩]  -- BLOCK_VECk

/-- Registers of a HI page. -/
def hiRegs : List RegSpec := hiRegs0 ++ hiRegs1

/-- Registers of a MC page (R525). -/
def mcRegs : List RegSpec := [
  ⟨0x8, 8, 1, [⟨63, 48, .ro, 0x40, false⟩, ⟨47, 40, .ro, 4, false⟩, ⟨39, 32, .ro, 4, false⟩, ⟨31, 24, .ro, 0x40, false⟩, ⟨23, 0, .ro, 0x4000, false⟩]⟩,  -- CAPS
  ⟨0x18, 8, 1, [⟨21, 21, .ro, 0, false⟩, ⟨20, 20, .ro, 0, false⟩, ⟨19, 19, .ro, 0, false⟩, ⟨18, 18, .ro, 0, false⟩, ⟨17, 17, .ro, 0, false⟩, ⟨16, 16, .ro, 0, false⟩]⟩,  -- STATUS
  ⟨0x28, 8, 1, [⟨19, 19, .w1c, 0, false⟩, ⟨18, 18, .w1c, 0, false⟩, ⟨17, 17, .w1c, 0, false⟩, ⟨16, 16, .w1c, 0, false⟩]⟩,  -- ERR_SUMMARY
  ⟨0x30, 8, 1, [⟨20, 20, .w1c, 0, false⟩, ⟨19, 16, .w1c, 0, false⟩]⟩,  -- INT_STATUS
  ⟨0x100, 8, 1, [⟨63, 63, .ro, 1, false⟩, ⟨47, 40, .ro, 0, false⟩, ⟨7, 0, .wo, 0, false⟩]⟩,  -- CMD
  ⟨0x108, 8, 1, [⟨63, 0, .rw, 0, false⟩]⟩,  -- ARG0
  ⟨0x110, 8, 1, [⟨63, 32, .rw, 0, false⟩, ⟨31, 0, .rw, 0, false⟩]⟩,  -- ARG1
  ⟨0x118, 8, 1, [⟨4, 4, .ro, 0, false⟩, ⟨3, 2, .ro, 0, false⟩, ⟨1, 0, .ro, 0, false⟩]⟩,  -- PROF
  ⟨0x120, 8, 1, [⟨23, 16, .ro, 0, false⟩, ⟨15, 8, .ro, 0, false⟩, ⟨7, 0, .ro, 0, false⟩]⟩,  -- BOOT
  ⟨0x128, 8, 1, [⟨63, 52, .ro, 0, false⟩, ⟨51, 26, .ro, 0, false⟩, ⟨15, 0, .ro, 0, false⟩]⟩,  -- FAIL_INFO
  ⟨0x130, 8, 1, [⟨17, 16, .ro, 0, false⟩, ⟨11, 8, .ro, 0, false⟩, ⟨5, 0, .ro, 0, false⟩]⟩,  -- FUSE
  ⟨0x138, 8, 1, [⟨63, 0, .ro, 0, false⟩]⟩,  -- NONCE
  ⟨0x140, 8, 1, [⟨31, 0, .ro, 0, false⟩]⟩,  -- SESSION_BYTES
  ⟨0x148, 8, 1, [⟨63, 32, .ro, 0, false⟩, ⟨31, 16, .ro, 0, false⟩, ⟨15, 0, .ro, 0, false⟩]⟩,  -- RECORDS
  ⟨0x150, 8, 1, [⟨63, 0, .ro, 0, false⟩]⟩,  -- RECORD_SEQ
  ⟨0x158, 8, 1, [⟨0, 0, .w1s, 0, false⟩]⟩]  -- CFG_LOCK

/-- Registers of a TB page (R79). -/
def tbRegs : List RegSpec := [
  ⟨0x100, 8, 1, [⟨63, 0, .ro, 0, false⟩]⟩,  -- TIME
  ⟨0x108, 8, 1, [⟨31, 0, .ro, 0, false⟩]⟩,  -- TIME_LATCH_HI
  ⟨0x110, 8, 1, [⟨63, 0, .rw, 0, false⟩]⟩,  -- SET_VALUE
  ⟨0x118, 8, 1, [⟨0, 0, .w1s, 0, false⟩]⟩,  -- CMD
  ⟨0x120, 8, 1, [⟨31, 16, .rw, 0x7d, true⟩, ⟨15, 8, .rw, 0x14, true⟩, ⟨1, 0, .rw, 0, true⟩]⟩,  -- SYNC_CFG
  ⟨0x128, 8, 1, [⟨47, 0, .rw, 0, true⟩]⟩,  -- SYNC_PORTS
  ⟨0x130, 8, 1, [⟨23, 16, .ro, 0, false⟩, ⟨13, 8, .ro, 0, false⟩, ⟨3, 3, .ro, 0, false⟩, ⟨2, 2, .w1c, 0, false⟩, ⟨1, 1, .ro, 0, false⟩, ⟨0, 0, .ro, 0, false⟩]⟩,  -- SYNC_STATUS
  ⟨0x138, 8, 1, [⟨31, 0, .ro, 0, false⟩]⟩,  -- OFFSET
  ⟨0x140, 8, 1, [⟨15, 0, .ro, 0xffff, false⟩]⟩,  -- ERR_EST
  ⟨0x148, 8, 1, [⟨15, 0, .ro, 0, false⟩]⟩,  -- RATE
  ⟨0x150, 8, 1, [⟨63, 0, .rw, 0, false⟩]⟩,  -- COMPARE
  ⟨0x30, 8, 1, [⟨19, 19, .w1c, 0, false⟩, ⟨18, 18, .w1c, 0, false⟩, ⟨17, 17, .w1c, 0, false⟩, ⟨16, 16, .w1c, 0, false⟩]⟩,  -- INT_STATUS
  ⟨0x28, 8, 1, [⟨16, 16, .w1c, 0, false⟩]⟩]  -- ERR_SUMMARY

/-- Registers of a PD page (R425). -/
def pdRegs : List RegSpec := [
  ⟨0x8, 8, 1, [⟨50, 32, .ro, 0x40000, false⟩, ⟨31, 16, .ro, 0xfa00, false⟩, ⟨15, 0, .ro, 0x400, false⟩]⟩,  -- CAPS
  ⟨0x18, 8, 1, [⟨17, 17, .ro, 0, false⟩, ⟨16, 16, .ro, 0, false⟩]⟩,  -- STATUS
  ⟨0x28, 8, 1, [⟨18, 18, .w1c, 0, false⟩, ⟨17, 17, .w1c, 0, false⟩, ⟨16, 16, .w1c, 0, false⟩]⟩,  -- ERR_SUMMARY
  ⟨0x30, 8, 1, [⟨18, 16, .w1c, 0, false⟩]⟩,  -- INT_STATUS
  ⟨0x100, 8, 1, [⟨47, 32, .rw, 0, true⟩, ⟨9, 0, .rw, 0, true⟩]⟩,  -- DOMAIN
  ⟨0x108, 8, 1, [⟨17, 0, .rw, 0, false⟩]⟩,  -- ENTRY_IDX
  ⟨0x110, 8, 1, [⟨63, 0, .rw, 0, false⟩]⟩,  -- ENTRY_W0
  ⟨0x118, 8, 1, [⟨63, 0, .rw, 0, false⟩]⟩,  -- ENTRY_W1
  ⟨0x120, 8, 1, [⟨63, 63, .ro, 0, false⟩, ⟨11, 8, .ro, 0, false⟩, ⟨2, 0, .wo, 0, false⟩]⟩,  -- ENTRY_CMD
  ⟨0x128, 8, 1, [⟨63, 32, .ro, 0, false⟩, ⟨31, 0, .ro, 0, false⟩]⟩,  -- LOAD
  ⟨0x130, 8, 1, [⟨9, 0, .rw, 0, false⟩]⟩,  -- ROUTE_IDX
  ⟨0x138, 8, 1, [⟨27, 24, .rw, 0, false⟩, ⟨23, 0, .rw, 0, false⟩]⟩,  -- ROUTE_DATA
  ⟨0x140, 8, 1, [⟨63, 0, .rw, 0, true⟩]⟩,  -- REPL_BASE
  ⟨0x148, 8, 1, [⟨36, 0, .rw, 0, true⟩]⟩,  -- REPL_BYTES
  ⟨0x150, 8, 1, [⟨47, 32, .rw, 0x40, true⟩, ⟨15, 8, .rw, 1, true⟩, ⟨3, 0, .rw, 8, true⟩]⟩,  -- REPL_CFG
  ⟨0x158, 8, 1, [⟨0, 0, .w1s, 0, false⟩]⟩,  -- REPL_CMD
  ⟨0x160, 8, 1, [⟨16, 0, .ro, 0, false⟩]⟩,  -- REPL_VALID
  ⟨0x168, 8, 1, [⟨63, 0, .rc, 0, false⟩]⟩,  -- REPL_INSTALLS
  ⟨0x170, 8, 1, [⟨63, 0, .rc, 0, false⟩]⟩,  -- REPL_HITS
  ⟨0x178, 8, 1, [⟨63, 0, .rc, 0, false⟩]⟩,  -- REPL_INVAL
  ⟨0x180, 8, 1, [⟨63, 0, .rc, 0, false⟩]⟩,  -- REPL_REFUSED
  ⟨0x188, 8, 1, [⟨12, 0, .ro, 0, false⟩]⟩,  -- STAGED_COUNT
  ⟨0x190, 8, 1, [⟨63, 0, .rc, 0, false⟩]⟩,  -- MISROUTE
  ⟨0x198, 8, 1, [⟨63, 0, .rc, 0, false⟩]⟩]  -- FOREIGN_COUNT

/-- Registers of a PW page (R549). -/
def pwRegs : List RegSpec := [
  ⟨0x8, 8, 1, [⟨63, 48, .ro, 0, false⟩, ⟨47, 32, .ro, 0x5dc, false⟩, ⟨31, 24, .ro, 0x10, false⟩, ⟨23, 16, .ro, 4, false⟩]⟩,  -- CAPS
  ⟨0x18, 8, 1, [⟨20, 20, .ro, 0, false⟩, ⟨19, 19, .ro, 0, false⟩, ⟨18, 18, .ro, 0, false⟩, ⟨17, 17, .ro, 0, false⟩, ⟨16, 16, .ro, 0, false⟩]⟩,  -- STATUS
  ⟨0x28, 8, 1, [⟨19, 19, .w1c, 0, false⟩, ⟨18, 18, .w1c, 0, false⟩, ⟨17, 17, .w1c, 0, false⟩, ⟨16, 16, .w1c, 0, false⟩]⟩,  -- ERR_SUMMARY
  ⟨0x30, 8, 1, [⟨20, 20, .w1c, 0, false⟩, ⟨19, 16, .w1c, 0, false⟩]⟩,  -- INT_STATUS
  ⟨0x100, 8, 1, [⟨12, 0, .rw, 0, true⟩]⟩,  -- CAP
  ⟨0x108, 8, 1, [⟨63, 48, .rw, 0x7d0, true⟩, ⟨47, 32, .rw, 0x640, true⟩, ⟨31, 16, .rw, 0x578, true⟩, ⟨15, 0, .rw, 0x4b0, true⟩]⟩,  -- CLK_LIMIT
  ⟨0x110, 8, 1, [⟨7, 0, .rw, 0x5f, true⟩]⟩,  -- JUNC_WARN
  ⟨0x118, 8, 4, [⟨63, 0, .ro, 0, false⟩]⟩,  -- CLK_NOWq
  ⟨0x140, 8, 1, [⟨12, 0, .ro, 0, false⟩]⟩,  -- POWER
  ⟨0x148, 8, 1, [⟨12, 0, .rc, 0, false⟩]⟩,  -- POWER_PEAK
  ⟨0x150, 8, 1, [⟨63, 0, .ro, 0, false⟩]⟩,  -- ENERGY
  ⟨0x158, 8, 1, [⟨63, 48, .ro, 0, false⟩, ⟨47, 32, .ro, 0, false⟩, ⟨31, 16, .ro, 0, false⟩, ⟨15, 0, .ro, 0, false⟩]⟩,  -- SUPPLY
  ⟨0x168, 8, 1, [⟨31, 16, .ro, 0, false⟩, ⟨15, 0, .ro, 0, false⟩]⟩,  -- TEMP_COOLANT
  ⟨0x170, 8, 1, [⟨23, 16, .ro, 0, false⟩, ⟨15, 0, .ro, 0, false⟩]⟩,  -- TEMP_STACK_MAX
  ⟨0x178, 8, 1, [⟨6, 0, .rw, 0, false⟩]⟩,  -- SENSOR_SEL
  ⟨0x180, 8, 1, [⟨63, 63, .ro, 0, false⟩, ⟨15, 0, .ro, 0, false⟩]⟩,  -- SENSOR_DATA
  ⟨0x188, 8, 1, [⟨63, 63, .w1c, 0, false⟩, ⟨39, 32, .ro, 0, false⟩, ⟨30, 24, .ro, 0, false⟩, ⟨15, 0, .ro, 0, false⟩]⟩,  -- TRIP_INFO
  ⟨0x190, 8, 1, [⟨63, 0, .rw, 0, false⟩]⟩,  -- ALERT_MASK
  ⟨0x198, 8, 1, [⟨63, 0, .rc, 0, false⟩]⟩]  -- THROTTLE_TIME

/-- Registers of a EX page (R467). -/
def exRegs : List RegSpec := [
  ⟨0x8, 8, 1, [⟨47, 40, .ro, 0x20, false⟩, ⟨39, 32, .ro, 0x10, false⟩, ⟨31, 16, .ro, 0x1e, false⟩, ⟨15, 0, .ro, 0xfa0, false⟩]⟩,  -- CAPS
  ⟨0x18, 8, 1, [⟨23, 20, .ro, 0, false⟩, ⟨19, 19, .ro, 0, false⟩, ⟨18, 18, .ro, 0, false⟩, ⟨17, 17, .ro, 0, false⟩, ⟨16, 16, .ro, 0, false⟩]⟩,  -- STATUS
  ⟨0x28, 8, 1, [⟨20, 20, .w1c, 0, false⟩, ⟨19, 19, .w1c, 0, false⟩, ⟨18, 18, .w1c, 0, false⟩, ⟨17, 17, .w1c, 0, false⟩, ⟨16, 16, .w1c, 0, false⟩]⟩,  -- ERR_SUMMARY
  ⟨0x30, 8, 1, [⟨22, 22, .w1c, 0, false⟩, ⟨21, 21, .w1c, 0, false⟩, ⟨20, 16, .w1c, 0, false⟩]⟩,  -- INT_STATUS
  ⟨0x100, 8, 1, [⟨23, 16, .rw, 0x10, true⟩, ⟨11, 0, .rw, 0xfa, true⟩]⟩,  -- EPOCH_CFG
  ⟨0x108, 8, 1, [⟨47, 0, .rw, 1, true⟩]⟩,  -- EPOCH_BASE
  ⟨0x110, 8, 1, [⟨0, 0, .rw, 0, false⟩]⟩,  -- EPOCH_CTRL
  ⟨0x118, 8, 1, [⟨47, 0, .ro, 0, false⟩]⟩,  -- EPOCH
  ⟨0x120, 8, 1, [⟨47, 0, .ro, 0, false⟩]⟩,  -- COMMITTED
  ⟨0x128, 8, 1, [⟨63, 63, .rw, 0, true⟩, ⟨42, 32, .rw, 0, true⟩, ⟨9, 0, .rw, 0, true⟩]⟩,  -- TREE
  ⟨0x130, 8, 1, [⟨0, 0, .w1s, 0, false⟩]⟩,  -- CMD
  ⟨0x138, 8, 1, [⟨53, 44, .ro, 0, false⟩, ⟨43, 40, .ro, 0, false⟩, ⟨39, 32, .ro, 0, false⟩, ⟨15, 0, .ro, 0, false⟩]⟩,  -- LAST_FAULT
  ⟨0x140, 8, 1, [⟨63, 0, .ro, 0, false⟩]⟩,  -- FAULT_TIME
  ⟨0x148, 8, 1, [⟨47, 0, .ro, 0, false⟩]⟩,  -- ABORTED_EPOCH
  ⟨0x150, 8, 1, [⟨63, 0, .rc, 0, false⟩]⟩,  -- COMMITS
  ⟨0x158, 8, 1, [⟨63, 0, .rc, 0, false⟩]⟩,  -- ROLLBACKS
  ⟨0x160, 8, 1, [⟨31, 0, .ro, 0, false⟩]⟩,  -- LAST_RECOVERY
  ⟨0x168, 8, 1, [⟨63, 0, .rc, 0, false⟩]⟩,  -- HOST_REFUSED
  ⟨0x170, 8, 1, [⟨63, 0, .ro, 0, false⟩]⟩,  -- HOST_REFUSED_ADDR
  ⟨0x180, 8, 32, [⟨63, 63, .rw, 0, true⟩, ⟨9, 0, .rw, 0, true⟩]⟩]  -- TREE_CHILDn

/-- The block-specific registers of a page by its type code (R12, R13). -/
def blockRegs (ty : Nat) : List RegSpec :=
  match ty with
  | 0x1 => maRegs
  | 0x2 => geRegs
  | 0x3 => veRegs
  | 0x4 => meRegs
  | 0x5 => peRegs
  | 0x6 => qcRegs
  | 0x7 => clRegs
  | 0x8 => coRegs
  | 0x9 => lgRegs
  | 0xa => vbRegs
  | 0xb => hsRegs
  | 0xc => kpRegs
  | 0xd => ccRegs
  | 0xe => esRegs
  | 0x20 => devRegs
  | 0x21 => hiRegs
  | 0x22 => mcRegs
  | 0x23 => tbRegs
  | 0x24 => pdRegs
  | 0x25 => pwRegs
  | 0x26 => exRegs
  | _ => []

end Sys2Proof.Machine
end

