-- ==== Sys2Proof/Machine/Ops.lean ====
section
/-! DEFINITION. The named operations over pages and registers: where a page lies, which units are present, the one read
and the one write of a register, event and error bits with the interrupts they raise, fault reports and error records. -/

namespace Sys2Proof.Machine

open Sys2Proof

/-! ### Units and pages -/

/-- Instances of a quarter block type per quarter (R12). -/
def perQuarter (ty : Nat) : Nat :=
  match ty with
  | 0x01 => 12 | 0x02 => 12 | 0x03 => 6 | 0x04 => 3 | 0x05 => 2 | 0x06 => 2 | 0x07 => 1 | 0x08 => 1
  | 0x09 => 1 | 0x0A => 4 | 0x0B => 3 | 0x0C => 12 | 0x0D => 2 | 0x0E => 1 | _ => 0

/-- A type code of a device-wide block (R13). -/
def isDeviceType (ty : Nat) : Bool := decide (0x20 ≤ ty ∧ ty ≤ 0x26)

/-- A unit that has a page (R45): a listed type code and an index within range. -/
def isUnit (u : UnitId) : Bool :=
  if isDeviceType u.ty then u.q = 15 && u.i = 0 else decide (u.q < 4 ∧ u.i < perQuarter u.ty)

def unitDEV : UnitId := ⟨0x20, 15, 0⟩
def unitHI : UnitId := ⟨0x21, 15, 0⟩
def unitMC : UnitId := ⟨0x22, 15, 0⟩
def unitTB : UnitId := ⟨0x23, 15, 0⟩
def unitPD : UnitId := ⟨0x24, 15, 0⟩
def unitPW : UnitId := ⟨0x25, 15, 0⟩
def unitEX : UnitId := ⟨0x26, 15, 0⟩

/-- A quarter block by its global number (R12). -/
def unitOf (ty n : Nat) : UnitId := ⟨ty, n / max 1 (perQuarter ty), n % max 1 (perQuarter ty)⟩

/-- The global number of a quarter block (R12). -/
def globalOf (u : UnitId) : Nat := u.q * perQuarter u.ty + u.i

def unitMA (n : Nat) : UnitId := unitOf 0x01 n
def unitGE (n : Nat) : UnitId := unitOf 0x02 n
def unitVE (n : Nat) : UnitId := unitOf 0x03 n
def unitME (n : Nat) : UnitId := unitOf 0x04 n
def unitPE (n : Nat) : UnitId := unitOf 0x05 n
def unitQC (n : Nat) : UnitId := unitOf 0x06 n
def unitCL (n : Nat) : UnitId := unitOf 0x07 n
def unitCO (n : Nat) : UnitId := unitOf 0x08 n
def unitLG (n : Nat) : UnitId := unitOf 0x09 n
def unitVB (n : Nat) : UnitId := unitOf 0x0A n
def unitHS (n : Nat) : UnitId := unitOf 0x0B n
def unitKP (n : Nat) : UnitId := unitOf 0x0C n
def unitCC (n : Nat) : UnitId := unitOf 0x0D n
def unitES (n : Nat) : UnitId := unitOf 0x0E n

/-- Every quarter block of a type, in global order. -/
def unitsOf (ty : Nat) : List UnitId := (List.range (4 * perQuarter ty)).map (unitOf ty)

/-- Every unit that has a page, device-wide blocks last. -/
def allUnits : List UnitId :=
  ((List.range 14).flatMap fun t => unitsOf (t + 1)) ++ (List.range 7).map fun t => ⟨0x20 + t, 15, 0⟩

/-- The BAR0 offset of a unit's page (R45). -/
def pageOf (u : UnitId) : Nat :=
  if isDeviceType u.ty then 0x02000000 + (u.ty - 0x20) * 0x00010000
  else u.q * 0x00800000 + u.ty * 0x00010000 + u.i * 0x1000

/-- The unit whose page holds a BAR0 offset, if the offset lies in a page of R45. -/
def unitAt (a : Nat) : Option UnitId :=
  let u : UnitId :=
    if a < 0x02000000 then ⟨a / 0x00010000 % 0x80, a / 0x00800000, a / 0x1000 % 0x10⟩
    else ⟨0x20 + (a - 0x02000000) / 0x00010000, 15, a / 0x1000 % 0x10⟩
  if a < 0x02070000 ∧ isUnit u = true then some u else none

/-- The units each variant lacks are absent (R6, R21). -/
def presentIn (v : Variant) (u : UnitId) : Bool :=
  isUnit u &&
  match v with
  | .f => true
  | .g => !(u.ty = 0x05 || (u.ty = 0x01 && decide (6 ≤ u.i)))
  | .s => !(u.ty = 0x05 || (u.ty = 0x0B && u.i = 2) || (u.ty = 0x0C && decide (6 ≤ u.i)))

/-- A unit of this device is present. -/
def present (s : State) (u : UnitId) : Bool := presentIn s.variant u

/-- DEV CAPS of each variant (R8, R9). -/
def devCaps (v : Variant) : Nat :=
  match v with
  | .f => 0x3F | .g => 0x3A | .s => 0x26

/-- The envelope of each variant in watts (R6, R549). -/
def ratedWatts (v : Variant) : Nat :=
  match v with
  | .f => 4000 | .g => 3300 | .s => 2900

/-- Whether an array coupled to a vector engine is present: the arrays of local index 2v and 2v + 1 (R23). -/
def coupledPresent (v : Variant) (u : UnitId) (j : Nat) : Bool := presentIn v ⟨0x01, u.q, 2 * u.i + j⟩

/-! ### Reset values -/

/-- The field specifications of one register of a page: the block's own and the common ones (R51). -/
def fieldsAt (ty off : Nat) : List FieldSpec :=
  (commonRegs ++ blockRegs ty).flatMap fun r =>
    if r.off ≤ off ∧ (off - r.off) % r.step = 0 ∧ (off - r.off) / r.step < r.count then r.fields else []

/-- The reset value the register tables give. -/
def tableReset (ty off : Nat) : Word :=
  (fieldsAt ty off).foldl (fun w f => putField w f.hi f.lo f.reset) 0

/-- The reset value of a register of a present unit: the tables', with what a variant fixes (R8, R23, R75, R549). -/
def regReset (v : Variant) (u : UnitId) (off : Nat) : Word :=
  let w := tableReset u.ty off
  match u.ty, off with
  | 0x20, 0x008 => BitVec.ofNat 64 (devCaps v)
  | 0x20, 0x100 =>
    match v with
    | .f => 0x481646 | .g => 0x481647 | .s => 0x480853
  | 0x25, 0x008 => putField w 63 48 (ratedWatts v)
  | 0x25, 0x100 => putField w 12 0 (ratedWatts v)
  | 0x03, 0x008 => putField (putField w 33 33 (bit (coupledPresent v u 1))) 32 32 (bit (coupledPresent v u 0))
  | 0x03, 0x100 => putField w 0 0 (bit (coupledPresent v u 0 || coupledPresent v u 1))
  | _, _ => w

/-- What a BAR0 offset reads as when no write has reached it: its register's reset value, 0 on an absent page. -/
def regDefault (v : Variant) (a : Nat) : Word :=
  match unitAt a with
  | some u => if presentIn v u then regReset v u (a % 0x1000) else 0
  | none => 0

/-! ### The one read and the one write of a register -/

/-- The stored value of a register. -/
def getReg (s : State) (u : UnitId) (off : Nat) : Word := tblGet (regDefault s.variant) s.regs (pageOf u + off)

/-- Stores a register. -/
def setReg (s : State) (u : UnitId) (off : Nat) (w : Word) : State :=
  { s with regs := tblSet (regDefault s.variant) s.regs (pageOf u + off) w }

/-- A field of a register. -/
def getF (s : State) (u : UnitId) (off hi lo : Nat) : Nat := field (getReg s u off) hi lo

/-- Writes a field of a register. -/
def setF (s : State) (u : UnitId) (off hi lo v : Nat) : State := setReg s u off (putField (getReg s u off) hi lo v)

/-- Adds to a saturating count. -/
def bump (s : State) (u : UnitId) (off hi lo n : Nat) : State :=
  setF s u off hi lo (satAdd (hi + 1 - lo) (getF s u off hi lo) n)

/-- Adds to a 64-bit saturating count. -/
def bump64 (s : State) (u : UnitId) (off n : Nat) : State := bump s u off 63 0 n

/-- CTRL ENABLE (R55). -/
def enabled (s : State) (u : UnitId) : Bool := getF s u 0x10 0 0 = 1

/-- CTRL RESET: a block reset is in progress (R55). -/
def resetting (s : State) (u : UnitId) : Bool := getF s u 0x10 1 1 = 1

/-- STATUS ASSAY_BUSY (R58). -/
def assayBusy (s : State) (u : UnitId) : Bool := getF s u 0x18 0 0 = 1

/-- STATUS RETIRED (R64). -/
def retired (s : State) (u : UnitId) : Bool := getF s u 0x18 3 3 = 1

/-- A unit that can serve: present, enabled, not retired and not in reset. -/
def usable (s : State) (u : UnitId) : Bool := present s u && enabled s u && !retired s u && !resetting s u

/-- EX EPOCH: the open epoch, 0 for none (R438). -/
def openEpoch (s : State) : Nat := getF s unitEX 0x118 47 0

/-- EX STATUS PHASE (R467). -/
def phase (s : State) : Nat := getF s unitEX 0x18 23 20

/-- PD DOMAIN DEVICE_ID. -/
def deviceId (s : State) : Nat := getF s unitPD 0x100 9 0

/-- DEV STATE STATE reads 2: strongbox mode (R75). -/
def strongbox (s : State) : Bool := getF s unitDEV 0x120 3 0 = 2

/-! ### Interrupts -/

/-- A message due on a vector: sent, or held by its pending bit while the vector is masked (R485). -/
def sendMsix (s : State) (v : Nat) : State :=
  if v ∈ s.hi.unmasked then { s with hi := { s.hi with msixSent := s.hi.msixSent ++ [v] } }
  else if v ∈ s.hi.msixPending then s
  else { s with hi := { s.hi with msixPending := v :: s.hi.msixPending } }

/-- A page raises an interrupt while INT_STATUS AND INT_MASK is non-zero (R61). -/
def pageIrq (s : State) (u : UnitId) : Bool := (getReg s u 0x30 &&& getReg s u 0x38) ≠ 0

/-- The pages of a block group: those of one type, of one quarter for a quarter type (R77, R487). -/
def groupOf (u : UnitId) : List UnitId :=
  if isDeviceType u.ty then [u] else (List.range (perQuarter u.ty)).map fun i => ⟨u.ty, u.q, i⟩

/-- A block group's condition (R487). -/
def groupIrq (s : State) (u : UnitId) : Bool := (groupOf u).any (pageIrq s)

/-- The number k of a block group (R487). -/
def groupIndex (u : UnitId) : Nat := if isDeviceType u.ty then 64 + (u.ty - 0x20) else 16 * u.q + u.ty

/-- A block group sends one message each time its condition rises (R487). -/
def groupEdge (before : State) (u : UnitId) (s : State) : State :=
  let vec := getReg s unitHI (0x800 + 8 * groupIndex u)
  if groupIrq before u = false ∧ groupIrq s u = true ∧ bitOf vec 63 = true then sendMsix s (field vec 10 0) else s

/-- Writes INT_STATUS or INT_MASK, with the message that a rising condition sends. -/
def setInt (s : State) (u : UnitId) (off : Nat) (w : Word) : State := groupEdge s u (setReg s u off w)

/-- Sets an INT_STATUS bit: an event occurs, whatever the mask (R61). -/
def raiseInt (s : State) (u : UnitId) (b : Nat) : State := setInt s u 0x30 (putField (getReg s u 0x30) b b 1)

/-- Whether INT_STATUS carries an ERR_SUMMARY bit at the same place: the block-specific bits of every page but DEV and
TB (the register tables). -/
def mirrored (u : UnitId) (b : Nat) : Bool := decide (16 ≤ b) && u.ty != 0x20 && u.ty != 0x23

/-- Sets an ERR_SUMMARY bit. INT_STATUS ERROR sets when the bit was 0 (R61), and the event's own INT_STATUS bit sets
where the page has one. -/
def raiseErr (s : State) (u : UnitId) (b : Nat) : State :=
  let w := getReg s u 0x28
  let s1 := setReg s u 0x28 (putField w b b 1)
  let s2 := if bitOf w b then s1 else raiseInt s1 u 2
  if mirrored u b then raiseInt s2 u b else s2

/-! ### Fault reports and error records -/

/-- A unit hands a detected fault to escrow (R448). The report is acted on by the FAULT_REPORT command. -/
def reportFault (s : State) (u : UnitId) (kind : Nat) : State :=
  { s with esc := { s.esc with pendingFaults := s.esc.pendingFaults ++ [{ unit := u, kind := kind }] } }

/-- No unit: a fault attributed to another device (R450). -/
def unitNone : UnitId := ⟨0x00, 15, 0⟩

/-- The reason code of a fault (R450). -/
def reasonOf (u : UnitId) (kind : Nat) : Nat := u.ty * 256 + kind

/-- Generates an error record (R489, R490): numbered and stamped now, written by the ERROR_RECORD command. -/
def pushErr (s : State) (r : ErrRec) : State :=
  { s with hi := { s.hi with
      errSeq := (s.hi.errSeq + 1) % 2 ^ 32
      errQueue := s.hi.errQueue ++ [{ r with seq := (s.hi.errSeq + 1) % 2 ^ 32, time := s.tb.time }] } }

/-- An error record of this device about one of its units in the open epoch. -/
def errRec (s : State) (kind : Nat) (u : UnitId) (addr : Nat) : ErrRec :=
  { kind := kind, epoch := openEpoch s, device := deviceId s, unit := u, addr := addr }

/-- An AER report: Correctable (false) or Uncorrectable (true) Internal Error (R488). -/
def pushAer (s : State) (uncorrectable : Bool) : State :=
  { s with hi := { s.hi with aer := s.hi.aer ++ [uncorrectable] } }

/-- Counts a retirement in a field of DEV RETIRE_SUMMARY (R76). -/
def countRetired (s : State) (hi lo n : Nat) : State := bump s unitDEV 0x128 hi lo n

/-- TIME has reached the armed COMPARE value: INT_STATUS COMPARE sets once (R84). -/
def compareDue (s : State) : State :=
  if s.tb.armed ∧ (getReg s unitTB 0x150).toNat ≤ s.tb.time then
    raiseInt { s with tb := { s.tb with armed := false } } unitTB 16
  else s

/-- Moves device time up to an instant; it never moves back. -/
def timeUpTo (s : State) (t : Nat) : State :=
  if s.tb.time < t then compareDue { s with tb := { s.tb with time := t % 2 ^ 64 } } else s

/-- Draws a fresh index for a value the spec leaves open. -/
def drawFree (s : State) : State × Nat := ({ s with freeCtr := s.freeCtr + 1 }, s.freeCtr)

end Sys2Proof.Machine
end

