-- ==== Sys2Proof/Machine/Messages.lean ====
section
/-! DEFINITION. Fabric messages (R391 to R399): segments and their bytes, routes, sending, and row records. The layouts of
bodies that R392 names by content only are the model's. -/

namespace Sys2Proof.Machine

open Sys2Proof

/-! ### Segments -/

/-- The virtual channel of a message type (R392); none for a type that is not listed. -/
def vcOf (type : Nat) : Option Nat :=
  match type with
  | 0x01 => some 0 | 0x03 => some 0 | 0x05 => some 0 | 0x09 => some 0
  | 0x02 => some 1 | 0x04 => some 1 | 0x06 => some 1 | 0x0A => some 1
  | 0x07 => some 2 | 0x08 => some 2 | 0x10 => some 2 | 0x11 => some 2 | 0x12 => some 2 | 0x13 => some 2
  | 0x14 => some 2 | 0x15 => some 2 | 0x16 => some 2
  | _ => none

/-- The receive buffer of a segment (R389). -/
def bufferOf (g : Seg) : Nat := 2 * (vcOf g.type).getD 0 + bit g.hop

/-- Credits a segment costs: one per 32 bytes, header and padding included (R389, R391). -/
def segUnits (g : Seg) : Nat := 1 + ceilDiv g.body.length 32

/-- The bytes of a segment (R391). -/
def segBytes (g : Seg) : List Byte :=
  leBytes 1 g.type ++ leBytes 1 (bit g.first + 2 * bit g.last + 4 * bit g.hop) ++ leBytes 2 (g.dest % 1024) ++
    leBytes 2 (g.src % 1024) ++ leBytes 2 g.order ++ leBytes 4 g.id ++ leBytes 2 g.body.length ++ leBytes 1 g.fmt ++
    zeros 1 ++ leBytes 6 g.epoch ++ zeros 2 ++ leBytes 8 g.tag ++ g.body ++ zeros (roundUp g.body.length 32 - g.body.length)

/-- The segment that bytes from a header on spell. -/
def segOf (bs : List Byte) : Seg :=
  let flags := leAt bs 1 1
  { type := leAt bs 0 1, dest := leAt bs 2 2 % 1024, src := leAt bs 4 2 % 1024, order := leAt bs 6 2, id := leAt bs 8 4
    fmt := leAt bs 14 1, epoch := leAt bs 16 6, tag := leAt bs 24 8, first := flags.testBit 0, last := flags.testBit 1
    hop := flags.testBit 2, body := slice bs 32 (leAt bs 12 2) }

/-- The ordering key of a segment (R395), its source apart. -/
def segKey (g : Seg) : Nat × Nat × Nat := (g.dest, (vcOf g.type).getD 3, g.order)

/-- A message cut into segments of at most 4,064 body bytes (R391). -/
def splitMessage (m : Seg) : List Seg :=
  let n := max 1 (ceilDiv m.body.length 4064)
  (List.range n).map fun k =>
    { m with body := (m.body.drop (4064 * k)).take 4064, first := decide (k = 0), last := decide (k + 1 = n) }

/-- Bytes a message puts on its link: its body, padded, and one header per segment. -/
def messageBytes (m : Seg) : Nat := ((splitMessage m).map fun g => 32 * segUnits g).foldl (· + ·) 0

/-- A message on its way: numbered, stamped with the open epoch, cut into segments that wait for a port. A fixed port is
for messages of one link (R394). -/
def sendMessage (s : State) (m : Seg) (port : Option Nat := none) : State :=
  let m1 := { m with src := deviceId s, id := s.fab.nextId % 2 ^ 32, epoch := openEpoch s }
  { s with fab := { s.fab with
      nextId := s.fab.nextId + 1
      out := s.fab.out ++ (splitMessage m1).map fun g => { seg := g, port := port } } }

/-! ### Routes (R393) -/

/-- The route entry of a destination. -/
def routeOf (s : State) (dest : Nat) : Word := tblGet (fun _ => 0) s.fab.routes dest

/-- A destination with a valid route entry. -/
def hasRoute (s : State) (dest : Nat) : Bool := decide (dest < 1024) && field (routeOf s dest) 27 24 ≠ 0

/-- The candidate ports of a destination, in order. -/
def candidatePorts (s : State) (dest : Nat) : List Nat :=
  (List.range 4).filterMap fun k =>
    if bitOf (routeOf s dest) (24 + k) then some (field (routeOf s dest) (6 * k + 5) (6 * k)) else none

/-- KP STATUS LINK_STATE (R423). -/
def linkState (s : State) (p : Nat) : Nat := getF s (unitKP p) 0x18 27 24

/-- A port that routes may choose: up, and neither disabled nor being disabled (R393, R422). -/
def portUp (s : State) (p : Nat) : Bool := decide (p < 48) && usable s (unitKP p) && linkState s p = 2

/-- Devices the route table names, this one apart (R408). -/
def routeDevices (s : State) : List Nat :=
  (s.fab.routes.filter fun e => field e.2 27 24 ≠ 0 && e.1 ≠ deviceId s && decide (e.1 < 1024)).map fun e => e.1

/-- The port of a key: among the usable candidates, the one a fixed hash picks (R393). -/
def hashPort (s : State) (dest order : Nat) : Option Nat :=
  let ups := (candidatePorts s dest).filter (portUp s)
  ups[Config.routeHash dest order % max 1 ups.length]?

/-! ### Row records (R397 to R399) -/

/-- Bits of an element of a row: of the segment's format, or bytes for opaque rows. -/
def wireBits (fmt : Nat) : Nat := if fmt = 0xFF then 8 else elemBits fmt

/-- The element codes of a row. -/
def wireCodes (fmt : Nat) (row : List Byte) : List Nat :=
  let n := wireBits fmt
  (List.range (8 * row.length / n)).map fun j => natField (leAt row (j * n / 8) 5) (j * n % 8 + n - 1) (j * n % 8)

/-- Element codes packed under R96. -/
def wirePack (fmt : Nat) (codes : List Nat) : List Byte :=
  let n := wireBits fmt
  leBytes (ceilDiv (codes.length * n) 8) ((codes.mapIdx fun j c => c % 2 ^ n * 2 ^ (j * n)).foldl (· + ·) 0)

/-- The body of a row in a form (R397). -/
def formBody (form fmt : Nat) (row : List Byte) : List Byte :=
  let cs := wireCodes fmt row
  let set := (cs.mapIdx fun j c => (j, c)).filter fun x => x.2 ≠ 0
  match form with
  | 0x1 => []
  | 0x2 =>
    leBytes (ceilDiv cs.length 8) ((set.map fun x => 2 ^ x.1).foldl (· + ·) 0) ++ wirePack fmt (set.map fun x => x.2)
  | 0x3 => (set.flatMap fun x => leBytes 2 x.1) ++ wirePack fmt (set.map fun x => x.2)
  | _ => row

/-- A form can carry a row exactly: ZERO needs every element zero, SPARSE indices of 16 bits. -/
def formFits (form fmt : Nat) (row : List Byte) : Bool :=
  let cs := wireCodes fmt row
  match form with
  | 0x0 => true
  | 0x1 => cs.all fun c => c = 0
  | 0x3 => decide (cs.length ≤ 65536)
  | _ => true

/-- The form of a row (R398): the smallest body among RAW and the forms the mask allows, earlier forms first among equals.
A row whose bytes hold no whole number of elements, and an MX row (R399), travels as RAW. -/
def wireForm (mask fmt : Nat) (row : List Byte) : Nat :=
  if isMx fmt || 8 * row.length % wireBits fmt ≠ 0 then 0
  else
    let forms := 0 :: [1, 2, 3].filter fun f => mask.testBit (f - 1) && formFits f fmt row
    (leastBy (fun f => (formBody f fmt row).length * 8 + f) forms).getD 0

/-- A row record: header, and body padded to a multiple of 4 bytes. -/
def recordOf (form : Nat) (body : List Byte) : List Byte :=
  leBytes 4 (form + body.length % 2 ^ 16 * 2 ^ 16) ++ body ++ zeros (roundUp body.length 4 - body.length)

/-- The record a clearing engine emits for a row. -/
def rowRecord (mask fmt : Nat) (row : List Byte) : List Byte :=
  let f := wireForm mask fmt row
  recordOf f (formBody f fmt row)

/-- A MISSING record (R403). -/
def missingRecord : List Byte := recordOf 0xF []

/-- A row record as read: its form, its body, and the bytes after it. -/
def takeRecord (bs : List Byte) : Nat × List Byte × List Byte :=
  let n := leAt bs 2 2
  (leAt bs 0 1 % 16, slice bs 4 n, bs.drop (4 + roundUp n 4))

/-- The positions of an element list filled from a body. -/
def scatterCodes (e : Nat) (idx codes : List Nat) : List Nat :=
  let m := idx.zip codes
  (List.range e).map fun j => ((m.find? fun x => x.1 = j).map fun x => x.2).getD 0

/-- The row of `n` bytes a record's body spells (R397). -/
def rowOfRecord (form fmt n : Nat) (body : List Byte) : List Byte :=
  let w := wireBits fmt
  let e := 8 * n / w
  let codesFrom (off count : Nat) : List Nat := (wireCodes fmt (body.drop off ++ zeros 4)).take count
  match form with
  | 0x1 => zeros n
  | 0x2 =>
    let map := leAt body 0 (ceilDiv e 8)
    let idx := (List.range e).filter fun j => map.testBit j
    slice (wirePack fmt (scatterCodes e idx (codesFrom (ceilDiv e 8) idx.length))) 0 n
  | 0x3 =>
    let nnz := 8 * body.length / (16 + w)
    let idx := (List.range nnz).map fun j => leAt body (2 * j) 2
    slice (wirePack fmt (scatterCodes e idx (codesFrom (2 * nnz) nnz))) 0 n
  | _ => slice body 0 n

end Sys2Proof.Machine
end

