-- ==== Sys2Proof/Machine/Tally.lean ====
section
/-! DEFINITION. The tally store (R85 to R94): engine updates, software writes, snapshots, the clear, and what a commit and
a rollback do to the two views. -/

namespace Sys2Proof.Machine

open Sys2Proof

/-- A slot of a view; slot 0 and every unlisted slot reads 0 (R85, R91). -/
def slotOf (v : Table TallySlot) (n : Nat) : TallySlot := tblGet (fun _ => {}) v n

/-- Writes a slot of the live view; the null slot takes nothing (R85). -/
def setLive (s : State) (n : Nat) (t : TallySlot) : State :=
  if n % 65536 = 0 then s
  else { s with tally := { s.tally with live := tblSet (fun _ => {}) s.tally.live (n % 65536) t } }

/-- The slot's KIND (R86). -/
def slotKind (t : TallySlot) : Nat := field t.w3 7 0

/-- The slot's SCALE as a signed exponent (R86). -/
def slotScale (t : TallySlot) : Int := signedOf 8 (field t.w3 15 8)

/-- A quantity in whole units of 2^scale, to nearest with ties away from zero (R87). -/
def toUnits (d : Dyadic) (scale : Int) : Nat :=
  let e := d.exp - scale
  if 0 ≤ e then d.num * 2 ^ e.toNat else (2 * d.num + 2 ^ (-e).toNat) / (2 * 2 ^ (-e).toNat)

/-- A word that saturates at 2^64 − 1, with whether it did (R89). -/
def satWord (a n : Nat) : Nat × Bool := (min (a + n) (2 ^ 64 - 1), decide (2 ^ 64 - 1 < a + n))

/-- A maximum's quantity held in 64 bits; one beyond the word saturates it (R89). -/
def capWord (n : Nat) : Nat × Bool := (min n (2 ^ 64 - 1), decide (2 ^ 64 - 1 < n))

/-- Stamps the epoch of an update (R86). -/
def stamp (s : State) (t : TallySlot) : TallySlot := { t with w3 := putField t.w3 63 32 (openEpoch s % 2 ^ 32) }

/-- Applies an update of a matching kind (R87, R89): the new slot, and whether a word saturated. -/
def applyKind (t : TallySlot) (u : TallyUpd) : TallySlot × Bool :=
  let c := satWord t.w0 u.count
  match u.kind with
  | 1 => ({ t with w0 := c.1 }, c.2)
  | 2 =>
    let a := satWord t.w1 (toUnits u.a (slotScale t))
    let b := satWord t.w2 (toUnits u.b (slotScale t))
    ({ t with w0 := c.1, w1 := a.1, w2 := b.1 }, c.2 || a.2 || b.2)
  | _ =>
    let v := capWord (toUnits u.a (slotScale t))
    if t.w1 ≤ v.1 then ({ t with w0 := c.1, w1 := v.1, w2 := u.ident % 2 ^ 64 }, c.2 || v.2)
    else ({ t with w0 := c.1 }, c.2)

/-- One engine update, applied now (R87 to R89): discarded at the null slot, discarded with MISMATCH where the kind
differs or is none, else applied. -/
def tallyApply (s : State) (u : TallyUpd) : State :=
  if u.slot % 65536 = 0 then s
  else
    let t := slotOf s.tally.live (u.slot % 65536)
    if slotKind t ≠ u.kind ∨ u.kind = 0 ∨ 3 < u.kind then
      raiseErr (setLive s u.slot { t with w3 := putField t.w3 17 17 1 }) unitDEV 17
    else
      let r := applyKind t u
      if r.2 then raiseErr (setLive s u.slot (stamp s { r.1 with w3 := putField r.1.w3 16 16 1 })) unitDEV 18
      else setLive s u.slot (stamp s r.1)

/-- An engine update: held while a clear runs (R93), else applied. -/
def tallyUpdate (s : State) (u : TallyUpd) : State :=
  if s.tally.clearing then { s with tally := { s.tally with held := s.tally.held ++ [.update u] } } else tallyApply s u

/-- The bits of W3 a software write takes: SCALE and KIND as written, MISMATCH and SAT cleared by 1 (R86). -/
def writeConfig (w mask v : Word) : Word :=
  let rw := mergeMask (mask &&& 0xFFFF) w v
  rw &&& ~~~(v &&& mask &&& 0x30000)

/-- A software write of one word of a slot, applied now (R90): W0 to W2 change the live view, W3 changes the
configuration fields KIND and SCALE in both views, and clears the flags of the live one. -/
def tallyWriteNow (s : State) (slot word : Nat) (mask v : Word) : State :=
  let n := slot % 65536
  if n = 0 then s
  else
    let t := slotOf s.tally.live n
    let merge (x : Nat) : Nat := (mergeMask mask (BitVec.ofNat 64 x) v).toNat
    match word with
    | 0 => setLive s n { t with w0 := merge t.w0 }
    | 1 => setLive s n { t with w1 := merge t.w1 }
    | 2 => setLive s n { t with w2 := merge t.w2 }
    | _ =>
      let s1 := setLive s n { t with w3 := writeConfig t.w3 mask v }
      let c := slotOf s1.tally.committed n
      { s1 with tally := { s1.tally with
          committed := tblSet (fun _ => {}) s1.tally.committed n { c with w3 := writeConfig c.w3 (mask &&& 0xFFFF) v } } }

/-- A software write to the live view: ignored in strongbox mode (R94), held while a clear runs (R93). -/
def tallyWrite (s : State) (slot word : Nat) (mask v : Word) : State :=
  if strongbox s then s
  else if s.tally.clearing then { s with tally := { s.tally with held := s.tally.held ++ [.write slot word mask v] } }
  else tallyWriteNow s slot word mask v

/-- Applies what a clear held, in arrival order. -/
def applyHeld (s : State) : List HeldTally → State
  | [] => s
  | .update u :: t => applyHeld (tallyApply s u) t
  | .write n w m v :: t => applyHeld (tallyWriteNow s n w m v) t

/-- DEV TALLY_CTRL CLEAR_ALL (R93): starts a clear; while one runs it starts nothing and is a locked write. -/
def clearAll (s : State) : State :=
  if s.tally.clearing then raiseErr s unitDEV 2
  else { (setF s unitDEV 0x180 1 1 1) with tally := { s.tally with clearing := true } }

/-- The clear completes: every slot of both views is 0, and what was held is applied in order (R93). -/
def clearComplete (s : State) : State :=
  if s.tally.clearing then
    let s1 := setF s unitDEV 0x180 1 1 0
    applyHeld { s1 with tally := { s1.tally with live := [], committed := [], clearing := false, held := [] } } s.tally.held
  else s

/-- A write to DEV TALLY_SNAP_IDX (R92): SNAP_VALID clears and a snapshot of the slot starts. -/
def snapStart (s : State) (slot : Nat) : State :=
  { (setReg s unitDEV 0x188 (BitVec.ofNat 64 (slot % 65536))) with tally := { s.tally with snap := some (slot % 65536) } }

/-- The four words of the slot from one instant appear, and SNAP_VALID sets (R92). A snapshot completes after a running
clear (R93). -/
def snapDone (s : State) : State :=
  match s.tally.snap with
  | none => s
  | some n =>
    let s0 := clearComplete s
    let t := slotOf s0.tally.live n
    let s1 := setReg s0 unitDEV 0x190 (BitVec.ofNat 64 t.w0)
    let s2 := setReg s1 unitDEV 0x198 (BitVec.ofNat 64 t.w1)
    let s3 := setReg s2 unitDEV 0x1A0 (BitVec.ofNat 64 t.w2)
    let s4 := setReg s3 unitDEV 0x1A8 t.w3
    { (setF s4 unitDEV 0x188 63 63 1) with tally := { s4.tally with snap := none } }

/-- An epoch commit: the committed view takes the live view, and DEV TALLY_COMMIT_EPOCH the epoch (R91). -/
def tallyCommit (s : State) (epoch : Nat) : State :=
  let s1 := setReg s unitDEV 0x1B0 (BitVec.ofNat 64 epoch)
  { s1 with tally := { s1.tally with committed := s1.tally.live } }

/-- A rollback (R91, R93): a running clear completes first with the engine updates it holds discarded, then the live view
takes the committed view. -/
def tallyRollback (s : State) : State :=
  let keep := s.tally.held.filter fun h => match h with
    | .write .. => true
    | .update _ => false
  let s1 := clearComplete { s with tally := { s.tally with held := keep } }
  { s1 with tally := { s1.tally with live := s1.tally.committed } }

/-- A word of a slot as the tally window reads it: 0 in strongbox mode (R94). -/
def tallyWord (s : State) (v : Table TallySlot) (slot word : Nat) : Word :=
  let t := slotOf v slot
  if strongbox s then 0
  else
    match word with
    | 0 => BitVec.ofNat 64 t.w0
    | 1 => BitVec.ofNat 64 t.w1
    | 2 => BitVec.ofNat 64 t.w2
    | _ => t.w3

/-! ### Meanings -/

/-- TALLY_UPDATE (R87 to R89, R93). -/
def execTallyUpdate (upd : TallyUpd) (s : State) : Host.Outcome State Fault Refusal := .next (tallyUpdate s upd)

/-- SNAP_VALID (R92). -/
def execSnapValid (s : State) : Host.Outcome State Fault Refusal := .next (snapDone s)

/-- CLEAR_COMPLETE (R93). -/
def execClearComplete (s : State) : Host.Outcome State Fault Refusal := .next (clearComplete s)

end Sys2Proof.Machine
end

