-- ==== Sys2Proof/Machine/TimeBase.lean ====
section
/-! DEFINITION. The time base (R79 to R84): latching, loading and comparing TIME, and the lock state of a follower. The
messages that carry sync are in the fabric's file. -/

namespace Sys2Proof.Machine

open Sys2Proof

/-- TB TIME. -/
def now (s : State) : Nat := s.tb.time

/-- Sets TIME. -/
def setTime (s : State) (t : Nat) : State := { s with tb := { s.tb with time := t % 2 ^ 64 } }

/-- SYNC_CFG ROLE: 0 free-run, 1 grandmaster, 2 follower (R79). -/
def syncRole (s : State) : Nat := getF s unitTB 0x120 1 0

/-- SYNC_CFG INTERVAL in nanoseconds. -/
def syncInterval (s : State) : Nat := getF s unitTB 0x120 31 16 * 1000

/-- A 32-bit read of TIME [31:0] latches TIME [63:32] (R83). -/
def latchTime (s : State) : State :=
  { (setReg s unitTB 0x108 (BitVec.ofNat 64 (now s / 2 ^ 32))) with hostRead := BitVec.ofNat 64 (now s % 2 ^ 32) }

/-- A write of COMPARE (R84): it arms the compare, and fires at once when the value is at or below TIME; 0 disables. -/
def compareWrite (s : State) (v : Nat) : State :=
  let s1 := setReg s unitTB 0x150 (BitVec.ofNat 64 v)
  if v % 2 ^ 64 = 0 then { s1 with tb := { s1.tb with armed := false } }
  else if v % 2 ^ 64 ≤ now s then raiseInt { s1 with tb := { s1.tb with armed := false } } unitTB 16
  else { s1 with tb := { s1.tb with armed := true } }

/-- TIME reaches the armed COMPARE value and INT_STATUS COMPARE sets once (R84). -/
def compareFire (s : State) : State :=
  if s.tb.armed then timeUpTo s (getReg s unitTB 0x150).toNat else s

/-- A new bound on the error of a follower's time (R82): LOCKED while it is at most ALARM_NS; when it rises above after
lock, LOCKED clears, ALARM sets, and INT_STATUS LOCK_LOST and ALARM set. -/
def setErrEst (s : State) (e : Nat) : State :=
  let alarm := getF s unitTB 0x120 15 8
  let s1 := setF s unitTB 0x140 15 0 (min e 0xFFFF)
  let wasLocked := getF s unitTB 0x130 0 0 = 1
  if e ≤ alarm then
    let s2 := setF (setF s1 unitTB 0x130 0 0 1) unitTB 0x130 3 3 0
    { s2 with tb := { s2.tb with lockedOnce := true } }
  else
    let s2 := setF s1 unitTB 0x130 0 0 0
    if s.tb.lockedOnce then
      let s3 := setF s2 unitTB 0x130 3 3 1
      if wasLocked then raiseInt (raiseInt s3 unitTB 17) unitTB 18 else s3
    else s2

/-- No sync message has come for four intervals (R82): HOLDOVER sets, TIME runs on, and the error bound has grown to
`errEst`. -/
def holdover (s : State) (errEst : Nat) : State :=
  if enabled s unitTB ∧ syncRole s = 2 then
    let s1 := timeUpTo s (s.tb.lastSync + 4 * syncInterval s)
    setErrEst (setF s1 unitTB 0x130 1 1 1) (max errEst (getF s unitTB 0x140 15 0))
  else s

/-- What TB ENABLE starts (R82): no lock is held yet, and the four intervals of HOLDOVER count from now. -/
def syncStart (s : State) : State :=
  let s1 := setF (setF (setF s unitTB 0x130 0 0 0) unitTB 0x130 1 1 0) unitTB 0x130 3 3 0
  { s1 with tb := { s1.tb with lockedOnce := false, lastSync := now s } }

/-! ### Meanings -/

/-- COMPARE (R84). -/
def execCompare (s : State) : Host.Outcome State Fault Refusal := .next (compareFire s)

/-- HOLDOVER (R82). -/
def execHoldover (errEst : Nat) (s : State) : Host.Outcome State Fault Refusal := .next (holdover s errEst)

end Sys2Proof.Machine
end

