-- ==== Sys2Proof/Machine/Registers.lean ====
section
/-! DEFINITION. Host accesses to BAR0 (R44 to R62): malformed and reserved accesses, what a register reads as, the
clearing of read-to-clear fields, and a write field by field with its locks. Fields whose write starts something are in
the file of their block; the whole host write is in HostWrite.lean. -/

namespace Sys2Proof.Machine

open Sys2Proof

/-! ### Access rules -/

/-- A register access is 64 bits aligned to 8 bytes or 32 bits aligned to 4 (R47). -/
def wellAligned (off size : Nat) : Bool := (size = 8 && off % 8 = 0) || (size = 4 && off % 4 = 0)

/-- The live tally window (R44). -/
def inLive (off : Nat) : Bool := decide (0x03000000 ≤ off ∧ off < 0x03200000)

/-- The committed tally window (R44). -/
def inCommitted (off : Nat) : Bool := decide (0x03200000 ≤ off ∧ off < 0x03400000)

/-- An address that answers: a page of R45 or the tally window (R46). -/
def answers (off : Nat) : Bool := (unitAt off).isSome || inLive off || inCommitted off

/-- The SIZE code of BAD_ACCESS_ADDR (R78). -/
def sizeCode (size : Nat) : Nat :=
  match size with
  | 1 => 0 | 2 => 1 | 4 => 2 | 8 => 3 | _ => 7

/-- Records a bad access in DEV BAD_ACCESS_ADDR and sets BAD_ACCESS (R46, R47, R78). -/
def badAccess (s : State) (write : Bool) (off size : Nat) : State :=
  let w : Word := putField (putField (putField 0 29 29 (bit write)) 28 26 (sizeCode size)) 25 0 off
  raiseErr (setReg s unitDEV 0x158 w) unitDEV 16

/-! ### Reads -/

/-- An engine or bank with work in flight (R58), or a disabled port whose retry buffer has not emptied (R422). -/
def busy (s : State) (u : UnitId) : Bool :=
  (tblGet (fun _ => ({} : Engine)) s.eng (pageOf u)).started ||
    (u.ty = 0x0A && !(tblGet (fun _ => ({} : VaultBank)) s.vb (globalOf u)).buf.isEmpty) ||
    (u.ty = 0x0C && !enabled s u && !(tblGet (fun _ => ({} : Port)) s.fab.ports (globalOf u)).retry.isEmpty)

/-- IDENT (R52, R53). -/
def identOf (s : State) (u : UnitId) : Word :=
  let pos := putField (putField 0 19 16 u.q) 15 8 u.i
  if present s u then
    putField (putField (putField (putField pos 39 32 (getF s unitDEV 0x118 7 0)) 27 24 1) 20 20 1) 7 0 u.ty
  else pos

/-- A rollup register (R77): one bit per type in each quarter's field, or one per device-wide type. -/
def rollup (s : State) (cond : State → UnitId → Bool) (dev : Bool) : Word :=
  if dev then
    (List.range 7).foldl (fun w t => putField w t t (bit (cond s ⟨0x20 + t, 15, 0⟩))) 0
  else
    (List.range 4).foldl (fun w q =>
      (List.range 14).foldl (fun w' t =>
        putField w' (16 * q + t + 1) (16 * q + t + 1)
          (bit ((List.range (perQuarter (t + 1))).any fun i => cond s ⟨t + 1, q, i⟩))) w) 0

/-- A page with an error pending (R77). -/
def pageErr (s : State) (u : UnitId) : Bool := getReg s u 0x28 ≠ 0

/-- The ring pair that RING_IDX names (R496). -/
def ringOf (s : State) (n : Nat) : Ring := tblGet (fun _ => {}) s.hi.rings (n % 256)

/-- The registers of the addressed ring pair, offsets 0x110 to 0x148 (R496). -/
def ringWindow (s : State) (off : Nat) : Word :=
  let r := ringOf s (getF s unitHI 0x100 7 0)
  match off with
  | 0x110 => r.sq
  | 0x118 => r.cq
  | 0x120 => r.stat
  | 0x128 => r.cfg
  | 0x130 => r.start
  | 0x138 => putField (putField (putField 0 43 40 r.held) 35 32 r.state) 31 0 r.sqHead
  | 0x140 => putField (putField 0 63 32 r.cqTail) 31 0 r.sqTail
  | _ => putField 0 31 0 r.cqHead

/-- DEV CTRL ENABLE reads 1: the device is ready and not in strongbox mode (R74, R493, R499). -/
def deviceReady (s : State) : Bool := getF s unitDEV 0x10 0 0 = 1

/-- CXL.mem is usable (R493, R494, R498 step 10). -/
def memActive (s : State) : Bool := deviceReady s && usable s unitHI

/-- A sensor of R532: junction sensors of a quarter, the four of a present stack, coolant inlet and outlet. -/
def sensorPresent (s : State) (i : Nat) : Bool :=
  decide (i < 64) || (decide (64 ≤ i ∧ i < 112) && present s (unitHS ((i - 64) / 4))) || i = 112 || i = 113

/-- A sensor's last reading; one that is not present reads 0 (R532). -/
def sensorReading (s : State) (i : Nat) : Nat := if sensorPresent s i then tblGet (fun _ => 0) s.pw.sensors i % 2 ^ 16 else 0

/-- The largest clock of each class in MHz (R4, R548): matrix, vector, gather and vault, control. -/
def classMax (k : Nat) : Nat := [1200, 1400, 1600, 2000].getD k 0

/-- The clock limit in force for a class (R528). -/
def clockLimit (s : State) (k : Nat) : Nat :=
  if enabled s unitPW then getF s unitPW 0x108 (16 * k + 15) (16 * k) else classMax k

/-- The steps of 64 a class's islands of a quarter run at (R529, R533): junction throttling on top of the cap, no lower than
the floor; control islands are not scaled for the cap. -/
def clockStep (s : State) (q k : Nat) : Nat :=
  max 8 ((if k = 3 then 64 else s.pw.capStep) - tblGet (fun _ => 0) s.pw.down q)

/-- PW CLK_NOWq: the clocks of a quarter in whole MHz (R531). -/
def clockNow (s : State) (q : Nat) : Word :=
  if s.pw.mainOn then
    (List.range 4).foldl (fun w k => putField w (16 * k + 15) (16 * k) (clockLimit s k * clockStep s q k / 64)) 0
  else 0

/-- A supply voltage outside 44 V to 58 V and inside the shutdown limits (R537). -/
def supplyMarginal (mv : Nat) : Bool := decide (43000 ≤ mv ∧ mv < 44000) || decide (58000 < mv ∧ mv ≤ 59000)

/-- PW registers that follow the pins, the clocks and the sensors (R549): the block-specific STATUS bits but CAP_UNMET,
CLK_NOWq and SENSOR_DATA. -/
def readPower (s : State) (off : Nat) (w : Word) : Word :=
  match off with
  | 0x18 =>
    let throttled := !s.pw.hot.isEmpty || !s.pw.down.isEmpty
    let mainOk := s.pw.p54 && !supplyMarginal (field (getReg s unitPW 0x158) 47 32)
    putField (putField (putField (putField w 19 19 (bit (decide (s.pw.capStep < 64)))) 18 18 (bit throttled)) 17 17 (bit mainOk))
      16 16 (bit s.pw.pwrGood)
  | 0x118 => clockNow s 0
  | 0x120 => clockNow s 1
  | 0x128 => clockNow s 2
  | 0x130 => clockNow s 3
  | 0x180 =>
    let i := getF s unitPW 0x178 6 0
    putField (putField 0 63 63 (bit (sensorPresent s i))) 15 0 (sensorReading s i)
  | _ => w

/-- CL STATUS TX_WAIT: a message that the clearing engine of a quarter has made under its own ordering key (R395) waits
because none of its candidate ports is up with credits for it (R389, R393). -/
def clWaits (s : State) (q : Nat) : Bool :=
  s.fab.out.any fun o => o.origin.isNone && [1, 3, 5, 6, 7, 8].contains o.seg.type && o.seg.order = 0x0700 + q &&
    (candidatePorts s o.seg.dest).all fun p =>
      !portUp s p || decide ((tblGet (fun _ => {}) s.fab.ports p).credits.getD (bufferOf o.seg) 0 < segUnits o.seg)

/-- What a 64-bit read of a page register returns (R10, R51, R58, R74, R77, R496). -/
def readReg (s : State) (u : UnitId) (off : Nat) : Word :=
  if off = 0 then identOf s u
  else if !present s u then 0
  else if off = 0x18 then
    let w := putField (putField (getReg s u off) 2 2 (bit (resetting s u))) 1 1 (bit (busy s u))
    match u.ty with
    | 0x26 => putField w 19 19 (getF s u 0x128 63 63)
    | 0x21 => putField w 20 20 (bit (memActive s))
    | 0x25 => readPower s off w
    | 0x07 => putField w 20 20 (bit (clWaits s u.q))
    | _ => w
  else if u.ty = 0x25 then readPower s off (getReg s u off)
  else if u.ty = 0x24 ∧ off = 0x138 then tblGet (fun _ => 0) s.fab.routes (getF s u 0x130 9 0)
  else if u.ty = 0x23 ∧ off = 0x100 then BitVec.ofNat 64 (now s)
  else if u.ty = 0x21 ∧ 0x110 ≤ off ∧ off ≤ 0x148 then ringWindow s off
  else if u.ty = 0x20 then
    match off with
    | 0x108 => BitVec.ofNat 64 s.serial
    | 0x130 => rollup s pageIrq false
    | 0x138 => rollup s pageIrq true
    | 0x140 => rollup s pageErr false
    | 0x148 => rollup s pageErr true
    | _ => getReg s u off
  else getReg s u off

/-- The mask of the half a 32-bit access addresses, or of the whole register (R50). -/
def halfMask (off size : Nat) : Word :=
  if size = 8 then BitVec.allOnes 64
  else if off % 8 = 0 then 0x00000000FFFFFFFF else 0xFFFFFFFF00000000

/-- The value of an access as the whole register's bits. -/
def placeValue (off size v : Nat) : Word :=
  if size = 8 ∨ off % 8 = 0 then BitVec.ofNat 64 v else BitVec.ofNat 64 (v % 2 ^ 32 * 2 ^ 32)

/-- The bits of an access out of a whole register. -/
def takeValue (off size : Nat) (w : Word) : Word :=
  if size = 8 then w else BitVec.ofNat 64 (w.toNat / (if off % 8 = 0 then 1 else 2 ^ 32) % 2 ^ 32)

/-- Clears the read-to-clear fields that lie wholly in the half a read addresses (R17, R50). -/
def clearRC (s : State) (u : UnitId) (off size : Nat) : State :=
  let r := off / 8 * 8
  let mask := halfMask off size
  let fs := (fieldsAt u.ty r).filter fun f => f.acc = .rc && (maskOf f.hi f.lo &&& mask) = maskOf f.hi f.lo
  if fs.isEmpty then s else setReg s u r (fs.foldl (fun w f => putField w f.hi f.lo 0) (getReg s u r))

/-- BAR0 answers once the CXL link has trained, until the device restarts (R498). -/
def linkUp (s : State) : Bool := getF s unitHI 0x1F0 12 8 ≠ 0

/-- A host read of BAR0 (R46, R47, R50, R83, R93): its value goes to `hostRead`. -/
def hostReadAt (s : State) (off size : Nat) : State :=
  if !linkUp s then s
  else if !wellAligned off size || !answers off then { (badAccess s false off size) with hostRead := 0 }
  else
    match unitAt off with
    | some u =>
      let r := off % 0x1000
      if u = unitTB ∧ r = 0x100 ∧ size = 4 then latchTime s
      else if u.ty = 0x20 ∧ 0x190 ≤ r ∧ r < 0x1B0 then
        let s1 := clearComplete s
        { s1 with hostRead := takeValue r size (readReg s1 u (r / 8 * 8)) }
      else
        let v := takeValue r size (readReg s u (r / 8 * 8))
        if present s u then { (clearRC s u r size) with hostRead := v } else { s with hostRead := v }
    | none =>
      let s1 := clearComplete s
      let view := if inLive off then s1.tally.live else s1.tally.committed
      let o := off % 0x00200000
      { s1 with hostRead := takeValue off size (tallyWord s1 view (o / 32) (o / 8 % 4)) }

/-! ### Writes -/

/-- A lock group of the active profile is in force (R512). -/
def groupLocked (s : State) (g : Nat) : Bool := s.locks.testBit g

/-- A field that a boot profile's lock group fixes (R512). -/
def profileLocked (s : State) (u : UnitId) (off : Nat) : Bool :=
  match u.ty with
  | 0x25 => groupLocked s 0 && (off = 0x100 || off = 0x108)
  | 0x0B => groupLocked s 1 && (decide (0x100 ≤ off ∧ off ≤ 0x180) || off = 0x198)
  | 0x0A => groupLocked s 1 && off = 0x100
  | 0x0C => groupLocked s 2 && off = 0x100
  | 0x24 => groupLocked s 2 && (off = 0x100 || off = 0x138)
  | 0x23 => groupLocked s 2 && (off = 0x120 || off = 0x128)
  | 0x26 => groupLocked s 3 && (off = 0x100 || off = 0x108 || off = 0x128 || decide (0x180 ≤ off ∧ off < 0x280))
  | 0x01 => groupLocked s 4 && (off = 0x100 || off = 0x110)
  | _ => false

/-- A locked page: its ENABLE or one of its fields is fixed by a group in force (R512). -/
def pageLocked (s : State) (u : UnitId) : Bool :=
  match u.ty with
  | 0x25 => groupLocked s 0
  | 0x0B => groupLocked s 1
  | 0x0A => groupLocked s 1
  | 0x0C => groupLocked s 2
  | 0x24 => groupLocked s 2
  | 0x23 => groupLocked s 2
  | 0x26 => groupLocked s 3
  | 0x01 => groupLocked s 4
  | _ => false

/-- A locked field keeps its value while ENABLE or ASSAY_BUSY reads 1 (R59), or while its profile group is locked
(R512). VB MODE is locked while any bank of its quarter is enabled (R357). -/
def fieldLocked (s : State) (u : UnitId) (off : Nat) (f : FieldSpec) : Bool :=
  if u.ty = 0x0A ∧ off = 0x100 then ((List.range 4).any fun i => enabled s ⟨0x0A, u.q, i⟩) || profileLocked s u off
  else (f.locked && (enabled s u || assayBusy s u)) || profileLocked s u off

/-- The writable fields of a register. INT_MASK has the bit positions of INT_STATUS (R61). -/
def writableAt (u : UnitId) (off : Nat) : List FieldSpec :=
  if off = 0x38 then (fieldsAt u.ty 0x30).map fun f => { f with acc := .rw } else fieldsAt u.ty off

/-- One field of a write: the new register value, and whether the write carried a differing value for a locked field. -/
def writeField (s : State) (u : UnitId) (off : Nat) (mask v : Word) (r : Word × Bool) (f : FieldSpec) : Word × Bool :=
  let m := maskOf f.hi f.lo &&& mask
  match f.acc with
  | .rw =>
    if fieldLocked s u off f then (r.1, r.2 || decide ((r.1 &&& m) ≠ (v &&& m))) else (mergeMask m r.1 v, r.2)
  | .w1c => (r.1 &&& ~~~(v &&& m), r.2)
  | _ => r

/-- A host write to a register without behaviour of its own (R59): unlocked fields take their value, locked ones keep
theirs, and LOCKED_WRITE sets exactly when a locked field was to change. -/
def plainWrite (s : State) (u : UnitId) (off : Nat) (mask v : Word) : State :=
  let r := (writableAt u off).foldl (writeField s u off mask v) (getReg s u off, false)
  let s1 := if off = 0x30 ∨ off = 0x38 then setInt s u off r.1 else setReg s u off r.1
  if r.2 then raiseErr s1 u 2 else s1

/-- Software's writes reach a page: the link is up, the page is present, and no block reset is in progress (R10, R57, R498).
Strongbox mode does not keep them away (R72). -/
def commandable (s : State) (u : UnitId) : Bool := linkUp s && present s u && !resetting s u

/-! ### Retirement -/

/-- Fault handling retires a whole unit (R64, R76): RETIRED and RETIRE_EVENT set, ENABLE clears, DEV RETIRE_SUMMARY
counts it. What it does to tasks is in the ledgers' file. -/
def markRetired (s : State) (u : UnitId) : State :=
  if retired s u then s
  else
    let s1 := setF s u 0x10 0 0 0
    let s2 := raiseErr (setF s1 u 0x18 3 3 1) u 3
    if u.ty = 0x01 then countRetired s2 7 0 1 else countRetired s2 23 16 1

/-! ### Meanings -/

/-- BAD_ACCESS (R46, R47): a malformed access or an access to a reserved address; any other access is none. -/
def execBadAccess (write : Bool) (off size : Nat) (s : State) : Host.Outcome State Fault Refusal :=
  .next
    (if linkUp s ∧ (wellAligned off size = false ∨ answers off = false) then
      let s1 := badAccess s write off size
      if write then s1 else { s1 with hostRead := 0 }
    else s)

/-- RC_READ (R17, R50): a host read; it returns the register and clears the read-to-clear fields it covers. -/
def execRcRead (off size : Nat) (s : State) : Host.Outcome State Fault Refusal := .next (hostReadAt s off size)

/-- TIME_LATCH (R83): a 32-bit read of TIME [31:0]. -/
def execTimeLatch (s : State) : Host.Outcome State Fault Refusal := .next (if linkUp s then latchTime s else s)

/-- COMPARE_WRITE (R84). -/
def execCompareWrite (value : Nat) (s : State) : Host.Outcome State Fault Refusal :=
  .next (if commandable s unitTB then compareWrite s value else s)

/-- TALLY_WRITE (R90). -/
def execTallyWrite (slot word value : Nat) (s : State) : Host.Outcome State Fault Refusal :=
  .next (if linkUp s then tallyWrite s slot word (BitVec.allOnes 64) (BitVec.ofNat 64 value) else s)

/-- TALLY_SNAPSHOT (R92). -/
def execTallySnapshot (slot : Nat) (s : State) : Host.Outcome State Fault Refusal := .next (if linkUp s then snapStart s slot else s)

/-- CLEAR_ALL (R93). -/
def execClearAll (s : State) : Host.Outcome State Fault Refusal := .next (if linkUp s then clearAll s else s)

end Sys2Proof.Machine
end

