-- ==== Sys2Proof/Machine/Links.lean ====
section
/-! DEFINITION. The Kenoujor ports (R376 to R395): training and retraining, lane repair, frames with their retry and their
credits, segments, and the delivery or the forwarding of messages. -/

namespace Sys2Proof.Machine

open Sys2Proof

/-! ### Port state -/

/-- What a port holds beside its registers. -/
def portOf (s : State) (p : Nat) : Port := tblGet (fun _ => {}) s.fab.ports p

/-- Writes it, with KP STATUS RETRY_FULL. -/
def setPort (s : State) (p : Nat) (x : Port) : State :=
  setF { s with fab := { s.fab with ports := tblSet (fun _ => {}) s.fab.ports p x } } (unitKP p) 0x18 20 20
    (bit (decide (256 ≤ x.retry.length)))

/-- Writes LINK_STATE. -/
def setLink (s : State) (p v : Nat) : State := setF s (unitKP p) 0x18 27 24 v

/-- Full receive buffers in credits (R389). -/
def fullCredits : List Nat := [1024, 1024, 1024, 1024, 128, 128]

/-- A disabled port goes down once its retry buffer has emptied (R422, R423). -/
def linkDown (s : State) (p : Nat) : State :=
  if enabled s (unitKP p) = false ∧ (portOf s p).retry = [] then setLink s p 0 else s

/-- A port that carries frames: its link is up. A port being disabled goes on until its retry buffer has emptied (R422). -/
def carries (s : State) (p : Nat) : Bool :=
  decide (p < 48) && present s (unitKP p) && linkState s p = 2 && (enabled s (unitKP p) || !(portOf s p).retry.isEmpty)

/-- A port that frames can reach at all, in training too. -/
def listens (s : State) (p : Nat) : Bool := decide (p < 48) && usable s (unitKP p)

/-! ### Failure and retraining (R383, R385) -/

/-- The link fails: LINK_STATE 4, LINK_FAIL, and when frames could be lost a detected fault (R383). -/
def failLink (s : State) (p : Nat) (fault : Bool) : State :=
  let s1 := raiseErr (setLink s p 4) (unitKP p) 21
  if fault then reportFault s1 (unitKP p) 0x06 else s1

/-- A retraining starts: counted in RETRAINS, with RETRAIN (R383). -/
def beginRetrain (s : State) (p : Nat) : State :=
  let s1 := raiseErr (bump (setLink s p 3) (unitKP p) 0x130 31 0 1) (unitKP p) 19
  setPort s1 p { portOf s1 p with trained := false, nak := false }

/-- A cause of a retraining on a link that is up. -/
def startRetrain (s : State) (p : Nat) : State := if listens s p ∧ linkState s p = 2 then beginRetrain s p else s

/-- CMD RETRAIN (R383): an up, failed or mismatched port retrains; the failures are counted anew. -/
def commandRetrain (s : State) (p : Nat) : State :=
  if listens s p ∧ (linkState s p = 2 ∨ linkState s p = 4 ∨ linkState s p = 5) then
    let s1 := setPort s p { portOf s p with fails := 0 }
    beginRetrain s1 p
  else s

/-- A retraining has failed: the third in a row fails the link, else another starts (R383, R385). -/
def retrainFailed (s : State) (p : Nat) : State :=
  let x := portOf s p
  let s1 := setPort s p { x with fails := x.fails + 1 }
  if 3 ≤ x.fails + 1 then failLink s1 p true else beginRetrain s1 p

/-- Counts symbol errors of a physical lane. -/
def countSer (s : State) (p lane n : Nat) : State :=
  if lane < 9 then bump64 s (unitKP p) (0x180 + 8 * lane) n else s

/-- Physical lanes that pass a training (R382): their ratio is below SER_LIMIT. -/
def passing (s : State) (p : Nat) (lanes : List LaneTest) : List Nat :=
  (List.range 9).filter fun n =>
    match lanes[n]? with
    | some m => decide (m.ratio < getF s (unitKP p) 0x100 23 8)
    | none => false

/-- Steps 1 to 5 of R382, in a training or a retraining: the lanes measured, the logical lanes and the spare mapped; with
fewer than eight passing lanes a training fails the link and a retraining fails (R385). -/
def trainLanes (s : State) (p : Nat) (lanes : List LaneTest) : State :=
  if listens s p ∧ (linkState s p = 1 ∨ linkState s p = 3) then
    let u := unitKP p
    let ok := passing s p lanes
    let s1 := foldOver (fun n t => countSer t p n ((lanes[n]?).map LaneTest.errors |>.getD 0)) (List.range 9) s
    if ok.length < 8 then
      if linkState s p = 1 then failLink s1 p false else retrainFailed s1 p
    else
      let map := ((ok.take 8).mapIdx fun l n => n * 16 ^ l).foldl (· + ·) 0
      let spare := (ok[8]?).getD 0xF
      let s2 := setF (setF s1 u 0x118 31 0 map) u 0x118 35 32 spare
      let s3 := setF (setF s2 u 0x18 22 22 (bit (decide (spare ≠ 0xF)))) u 0x18 23 23 0
      setPort s3 p { portOf s3 p with trained := true, repair := none, peerRepair := none, ues := [] }
  else s

/-- Step 1 of R382: a port whose ENABLE passes, or that is enabled when PERST_N is released, trains. -/
def startTraining (s : State) (p : Nat) : State :=
  let s1 := setF (setF s (unitKP p) 0x18 23 21 0) (unitKP p) 0x110 63 0 0
  setPort (setLink s1 p 1) p {}

/-- Steps 6 and 7 of R382: the peer's identity, the mismatch test, and the link coming up with full credits; in a
retraining the credits come from the free space the two ends exchange, and RETRAINING_COMPLETE ends it (R383). -/
def identityFrame (s : State) (p : Nat) (i : Identity) : State :=
  let u := unitKP p
  let x := portOf s p
  if listens s p ∧ x.trained = true ∧ (linkState s p = 1 ∨ linkState s p = 3) then
    if i.tag ≠ getF s unitPD 0x100 47 32 ∨ i.device = deviceId s then raiseErr (setLink s p 5) u 22
    else
      let s1 := setReg s u 0x110 (putField (putField (putField 0 41 32 i.device) 13 8 i.port) 7 0 i.level)
      if linkState s p = 1 then
        raiseInt (setPort (setLink s1 p 2) p
          { x with credits := fullCredits, owed := [0, 0, 0, 0, 0, 0], fseq := 0, expected := 0, fails := 0
                   lastGood := s.tb.time, ackAt := s.tb.time }) u 23
      else setPort s1 p { x with credits := i.free, owed := [0, 0, 0, 0, 0, 0] }
  else s

/-- Sends again every frame from ACK + 1 onward (R386). -/
def replay (s : State) (p : Nat) : State :=
  let n := (portOf s p).retry.length
  if n = 0 then s else raiseErr (bump s (unitKP p) 0x128 31 0 n) (unitKP p) 18

/-- A retraining ends (R383): up again with a replay, or failed. -/
def retrainEnd (s : State) (p : Nat) (ok : Bool) : State :=
  let x := portOf s p
  if listens s p ∧ linkState s p = 3 then
    if ok then
      if x.trained then
        let s1 := setPort (setLink s p 2) p { x with fails := 0, lastGood := s.tb.time, ackAt := s.tb.time }
        replay (raiseInt s1 (unitKP p) 23) p
      else s
    else retrainFailed s p
  else s

/-- Silence for 2 ms (R387): no good frame, or no advance of ACK while frames are unacknowledged. -/
def linkSilent (s : State) (p : Nat) : State :=
  if listens s p ∧ linkState s p = 2 then
    let x := portOf s p
    let since := if x.retry.isEmpty then x.lastGood else min x.lastGood x.ackAt
    beginRetrain (timeUpTo s (since + 2000000)) p
  else s

/-! ### Lane repair in service (R384) -/

/-- The physical lane that carries a logical lane, and the spare (R423). -/
def physLane (s : State) (p l : Nat) : Nat := getF s (unitKP p) 0x118 (4 * l + 3) (4 * l)
def spareLane (s : State) (p : Nat) : Nat := getF s (unitKP p) 0x118 35 32

/-- R384 can repair a lane: allowed, a usable spare that is not in use, and no other repair in progress. -/
def canRepair (s : State) (p : Nat) : Bool :=
  let u := unitKP p
  getF s u 0x100 4 4 = 1 && getF s u 0x18 22 22 = 1 && getF s u 0x18 23 23 = 0 && (portOf s p).repair.isNone

/-- A logical lane fails: its repair is asked for in every header, or a retraining starts (R384, R385). -/
def laneFailed (s : State) (p l : Nat) : State :=
  if listens s p ∧ linkState s p = 2 ∧ l < 8 then
    if (portOf s p).repair = some l then s
    else if canRepair s p then setPort s p { portOf s p with repair := some l }
    else startRetrain s p
  else s

/-- A 1 ms window of a physical lane ends (R384): a spare beyond SER_LIMIT is unusable, an active lane beyond it fails. -/
def serWindow (s : State) (p lane : Nat) (m : LaneTest) : State :=
  if listens s p ∧ linkState s p = 2 then
    let u := unitKP p
    let s1 := countSer s p lane m.errors
    if m.ratio ≤ getF s u 0x100 23 8 then s1
    else if spareLane s p = lane ∧ getF s u 0x18 23 23 = 0 then setF s1 u 0x18 22 22 0
    else
      match (List.range 8).find? fun l => physLane s p l = lane with
      | some l => laneFailed s1 p l
      | none => s1
  else s

/-- Steps 4 and 5 of R384: the receiver takes the failing lane from the spare. -/
def laneRepaired (s : State) (p : Nat) : State :=
  let u := unitKP p
  match (portOf s p).repair with
  | some l =>
    if listens s p ∧ linkState s p = 2 then
      let s1 := setF (setF s u 0x118 (4 * l + 3) (4 * l) (spareLane s p)) u 0x18 23 23 1
      let s2 := setPort s1 p { portOf s1 p with repair := none, ues := (portOf s1 p).ues.filter fun x => x.1 ≠ l }
      countRetired (raiseErr s2 u 20) 31 24 1
    else s
  | none => s

/-! ### Segments that arrive -/

/-- Adds to one element of a list of counts. -/
def addAt (l : List Nat) (k n : Nat) : List Nat := l.mapIdx fun j v => if j = k then v + n else v

/-- Returns credits: the bytes have left their buffer (R389). -/
def oweCredits (s : State) (p b n : Nat) : State :=
  setPort s p { portOf s p with owed := addAt (portOf s p).owed b n }

/-- Counts a message that cannot be taken (R392, R393). -/
def misroute (s : State) : State := raiseErr (bump64 s unitPD 0x190 1) unitPD 16

/-- A message of the aborted epoch that arrives after the ABORT (R454 step 3); tokens and link messages are not traffic of
an epoch. -/
def ofAborted (s : State) (g : Seg) : Bool :=
  decide (g.type ≤ 0x0A) && g.epoch ≠ 0 && g.epoch = getF s unitEX 0x148 47 0

/-- Counts a stray message at the clearing engine of a quarter (R388, R412, R454). -/
def stray (s : State) (q : Nat) : State := raiseErr (bump64 s (unitCL q) 0x148 1) (unitCL q) 19

/-- A whole message goes to the block it addresses. -/
def arriveWhole (s : State) (p : Nat) (m : Seg) : State :=
  if ofAborted s m then stray s (p / 12)
  else { s with fab := { s.fab with inbox := s.fab.inbox ++ [⟨m, p, s.tb.time⟩] } }

/-- A segment for this device joins its message (R388, R391). -/
def joinSeg (s : State) (p : Nat) (g : Seg) : State :=
  let x := portOf s p
  let same (m : Seg) : Bool := m.src = g.src && m.type = g.type && m.id = g.id
  let whole := match x.parts.find? same with
    | some m => if g.first then g else { m with body := m.body ++ g.body, last := g.last }
    | none => g
  let rest := x.parts.filter fun m => !same m
  if g.last then arriveWhole (setPort s p { x with parts := rest }) p { whole with first := true, last := true }
  else setPort s p { x with parts := rest ++ [whole] }

/-- A segment leaves its receive buffer: to this device, on towards its destination with HOP = 1, or away (R392 to R394). -/
def routeSeg (s : State) (p : Nat) (g : Seg) : State :=
  let b := bufferOf g
  match vcOf g.type with
  | none => misroute s
  | some _ =>
    if g.dest = deviceId s ∨ g.type = 0x12 ∨ g.type = 0x13 ∨ g.type = 0x14 then
      joinSeg (oweCredits s p b (segUnits g)) p g
    else if g.hop then misroute (oweCredits s p b (segUnits g))
    else
      { s with fab := { s.fab with out := s.fab.out ++ [{ seg := { g with hop := true }, origin := some (p, b) }] } }

/-- Cuts received bytes into segments (R391): a unit that begins with 0 is padding; a segment waits until it is whole. -/
def parseUnits (p : Nat) : Nat → State → State
  | 0, s => s
  | n + 1, s =>
    let x := portOf s p
    if x.rx.length < 32 then s
    else if leAt x.rx 0 1 = 0 then parseUnits p n (setPort s p { x with rx := x.rx.drop 32 })
    else
      let need := 32 + roundUp (leAt x.rx 12 2) 32
      if x.rx.length < need then s
      else parseUnits p n (routeSeg (setPort s p { x with rx := x.rx.drop need }) p (segOf x.rx))

/-! ### Frame headers (R380) -/

def fhSeq (h : Nat) : Nat := natField h 127 112
def fhAck (h : Nat) : Nat := natField h 111 96
def fhNak (h : Nat) : Bool := h.testBit 95
def fhKind (h : Nat) : Nat := natField h 94 92
def fhSlow (h : Nat) : Nat := natField h 67 64
def fhRepair (h : Nat) : Option Nat := if h.testBit 59 then some (natField h 63 60) else none

/-- A frame is good: every codeword decoded and the CRC matches (R381). -/
def frameGood (f : Frame) : Bool :=
  f.bad.isEmpty && decide (f.header % 2 ^ 32 = Config.frameCrc (f.header / 2 ^ 32) f.data % 2 ^ 32)

/-- Counts FEC results, and the codewords a lane has lost within a millisecond; the fourth makes the lane fail (R381, R384). -/
def countFec (s : State) (p : Nat) (f : Frame) : State :=
  let u := unitKP p
  let s1 := bump (bump s u 0x120 31 0 f.corrected) u 0x120 63 32 f.bad.length
  let s2 := if f.bad.isEmpty then s1 else raiseErr s1 u 16
  let x := portOf s2 p
  let recent := (x.ues.filter fun e => decide (s.tb.time ≤ e.2 + 1000000)) ++ f.bad.map fun l => (l, s.tb.time)
  let s3 := setPort s2 p { x with ues := recent }
  foldOver (fun l t => if 4 ≤ (recent.filter fun e => e.1 = l).length then laneFailed t p l else t) f.bad s3

/-- A receiver that discards a frame sets NAK, at most once in 2 microseconds (R386). -/
def setNak (s : State) (p : Nat) : State :=
  let x := portOf s p
  let soon := match x.nakAt with
    | some t => decide (s.tb.time < t + 2000)
    | none => false
  if soon then s
  else bump (setPort s p { x with nak := true, nakAt := some s.tb.time }) (unitKP p) 0x128 63 32 1

/-- Frames up to an ACK leave the retry buffer (R386); a disabled port goes down with the last of them (R422). -/
def takeAck (s : State) (p ack : Nat) : State :=
  let x := portOf s p
  if x.retry.any fun f => f.fseq = ack then
    linkDown (setPort s p { x with retry := (x.retry.dropWhile fun f => f.fseq ≠ ack).drop 1, ackAt := s.tb.time }) p
  else s

/-- Credits of a header (R380, R389). -/
def takeCredits (s : State) (p h : Nat) : State :=
  let x := portOf s p
  let c0 := addAt x.credits (natField h 91 89) (natField h 88 80)
  setPort s p { x with credits := addAt c0 (natField h 79 77) (natField h 76 68) }

/-- The slowdown factor another device has announced; 1 when it has announced none (R418). -/
def slowOf (s : State) (dev : Nat) : Nat := tblGet (fun _ => 1) s.fab.slow dev

/-- Notes an announced factor; 0 means 1. -/
def noteSlow (s : State) (dev factor : Nat) : State :=
  { s with fab := { s.fab with slow := tblSet (fun _ => 1) s.fab.slow dev (max 1 factor) } }

/-- What every good frame's header says: ACK, NAK, the peer's factor and its lane repair (R380, R384, R386, R418). -/
def takeHeader (s : State) (p h : Nat) : State :=
  let s1 := takeAck s p (fhAck h)
  let s2 := setPort s1 p { portOf s1 p with lastGood := s.tb.time, peerRepair := fhRepair h }
  let s3 := noteSlow s2 (getF s2 (unitKP p) 0x110 41 32) (fhSlow h)
  if fhNak h then replay s3 p else s3

/-- A data frame arrives (R386): accepted when it is good and in order. -/
def dataFrame (s : State) (p : Nat) (f : Frame) : State :=
  if carries s p then
    let s1 := countFec s p f
    if frameGood f = false then
      setNak (if f.bad.isEmpty then raiseErr s1 (unitKP p) 17 else s1) p
    else if fhKind f.header ≠ 0 then s1
    else
      let s2 := takeHeader s1 p f.header
      let x := portOf s2 p
      let ahead := (fhSeq f.header + 65536 - x.expected) % 65536
      if ahead = 0 then
        let s3 := takeCredits (setPort s2 p { x with expected := (x.expected + 1) % 65536, nak := false }) p f.header
        let s4 := bump64 s3 (unitKP p) 0x140 1
        let y := portOf s4 p
        parseUnits p (f.data.length / 32 + 1 + y.rx.length / 32) (setPort s4 p { y with rx := y.rx ++ f.data })
      else if ahead < 32768 then setNak s2 p
      else s2
  else s

/-- An idle frame arrives (R386, R387): its header alone counts. -/
def idleFrame (s : State) (p : Nat) (f : Frame) : State :=
  if carries s p then
    let s1 := countFec s p f
    if frameGood f = false then setNak (if f.bad.isEmpty then raiseErr s1 (unitKP p) 17 else s1) p
    else if fhKind f.header ≠ 1 then s1
    else takeCredits (takeHeader s1 p f.header) p f.header
  else s

/-! ### Transmission -/

/-- The port a waiting segment may take now (R393, R395): its own, the one its key is bound to, one of the usable
candidates; in transit only a candidate whose peer is the destination. -/
def portFor (s : State) (o : OutSeg) : Option Nat :=
  match o.port with
  | some p => if portUp s p then some p else none
  | none =>
    if o.seg.hop then
      (candidatePorts s o.seg.dest).find? fun p => portUp s p && getF s (unitKP p) 0x110 41 32 = o.seg.dest
    else
      let k := segKey o.seg
      match s.fab.bound.find? fun b => (b.1, b.2.1, b.2.2.1) = k with
      | some b => if portUp s b.2.2.2 then some b.2.2.2 else if linkState s b.2.2.2 = 4 then hashPort s k.1 k.2.2 else none
      | none => hashPort s k.1 k.2.2

/-- The next segment a port may send: the first of its own whose buffer has credits, with none of its key before it. -/
def pickSeg (s : State) (p : Nat) : List (Nat × Nat × Nat) → List OutSeg → Option OutSeg
  | _, [] => none
  | held, o :: t =>
    let k := segKey o.seg
    if held.contains k = false ∧ portFor s o = some p ∧ segUnits o.seg ≤ (portOf s p).credits.getD (bufferOf o.seg) 0 then some o
    else pickSeg s p (k :: held) t

/-- A segment moves into the port's frames: credits spent, its key bound to the port, and a transit buffer freed. -/
def loadSeg (s : State) (p : Nat) (o : OutSeg) : State :=
  let x := portOf s p
  let b := bufferOf o.seg
  let k := segKey o.seg
  let s1 := setPort s p { x with
    credits := x.credits.mapIdx fun j c => if j = b then c - segUnits o.seg else c
    tx := x.tx ++ segBytes o.seg
    txKeys := k :: x.txKeys }
  let s2 := { s1 with fab := { s1.fab with
    out := ((takeFirst (fun y => decide (y = o)) s1.fab.out).map fun r => r.2).getD s1.fab.out
    bound := (k.1, k.2.1, k.2.2, p) :: s1.fab.bound.filter fun y => (y.1, y.2.1, y.2.2.1) ≠ k } }
  match o.origin with
  | some (q, c) => oweCredits s2 q c (segUnits o.seg)
  | none => s2

/-- Fills a frame's worth of bytes. -/
def fillFrame (p : Nat) : Nat → State → State
  | 0, s => s
  | n + 1, s =>
    if 5120 ≤ (portOf s p).tx.length then s
    else
      match pickSeg s p [] s.fab.out with
      | some o => fillFrame p n (loadSeg s p o)
      | none => s

/-- Keys with nothing unacknowledged on their port are free to move (R395): no frame of theirs waits for its ACK, no byte
waits for a frame, and no segment that continues a message waits. -/
def releaseKeys (s : State) : State :=
  let busy (b : Nat × Nat × Nat × Nat) : Bool :=
    let k := (b.1, b.2.1, b.2.2.1)
    let x := portOf s b.2.2.2
    x.txKeys.contains k || x.retry.any (fun f => f.keys.contains k) || s.fab.out.any fun o => segKey o.seg = k && !o.seg.first
  { s with fab := { s.fab with bound := s.fab.bound.filter busy } }

/-- Credits that remain to be returned after one header, which returns at most 511 of each of two buffers (R380). -/
def oweLeft (owed : List Nat) : List Nat :=
  let due := ((List.range 6).filter fun b => owed.getD b 0 ≠ 0).take 2
  owed.mapIdx fun b n => if due.contains b then n - 511 else n

/-- One codeword interval of a port that carries frames (R378, R386, R387): a data frame when bytes wait and the retry buffer
has room, else an idle frame; either returns the credits due. -/
def sendFrame (p : Nat) (s : State) : State :=
  if carries s p then
    let s1 := if (portOf s p).retry.length < 256 ∧ enabled s (unitKP p) then fillFrame p 160 s else s
    let x := portOf s1 p
    let idle := { x with owed := oweLeft x.owed, nak := false }
    let wait := bit (s1.fab.out.any fun o =>
      portFor s1 o = some p && decide (x.credits.getD (bufferOf o.seg) 0 < segUnits o.seg))
    let s2 := if getF s1 (unitKP p) 0x18 21 21 = wait then s1 else setF s1 (unitKP p) 0x18 21 21 wait
    if x.tx.isEmpty ∨ 256 ≤ x.retry.length then bump64 (setPort s2 p idle) (unitKP p) 0x148 1
    else
      let data := x.tx.take 5120
      let rest := x.tx.drop 5120
      let s3 := setPort s2 p { idle with
        fseq := (x.fseq + 1) % 65536
        retry := x.retry ++ [⟨x.fseq, data ++ zeros (5120 - data.length), x.txKeys⟩]
        ackAt := if x.retry.isEmpty then s.tb.time else x.ackAt
        tx := rest
        txKeys := if rest.isEmpty then [] else x.txKeys.take 1 }
      bump64 s3 (unitKP p) 0x138 1
  else s

/-- One codeword interval of every port. -/
def sendFrames (s : State) : State := releaseKeys (foldOver sendFrame (List.range 48) s)

/-! ### Meanings -/

/-- RETRAIN (R383). -/
def execRetrain (port : Nat) (s : State) : Host.Outcome State Fault Refusal :=
  .next (if commandable s (unitKP port) then commandRetrain s port else s)

/-- LINK_TRAINING (R382 steps 1 to 5). -/
def execLinkTraining (port : Nat) (lanes : List LaneTest) (s : State) : Host.Outcome State Fault Refusal :=
  .next (trainLanes s port lanes)

/-- IDENTITY_FRAME (R382 steps 6 and 7, R383). -/
def execIdentityFrame (port : Nat) (i : Identity) (s : State) : Host.Outcome State Fault Refusal := .next (identityFrame s port i)

/-- RETRAINING_COMPLETE (R383). -/
def execRetrainingComplete (port : Nat) (ok : Bool) (s : State) : Host.Outcome State Fault Refusal := .next (retrainEnd s port ok)

/-- LINK_SILENCE (R387). -/
def execLinkSilence (port : Nat) (s : State) : Host.Outcome State Fault Refusal := .next (linkSilent s port)

/-- SER_WINDOW (R384). -/
def execSerWindow (port lane : Nat) (m : LaneTest) (s : State) : Host.Outcome State Fault Refusal := .next (serWindow s port lane m)

/-- LANE_REPAIR (R384). -/
def execLaneRepair (port : Nat) (s : State) : Host.Outcome State Fault Refusal := .next (laneRepaired s port)

/-- LOSS_OF_DESKEW (R383). -/
def execLossOfDeskew (port : Nat) (s : State) : Host.Outcome State Fault Refusal := .next (startRetrain s port)

/-- LOSS_OF_LOCK (R384). -/
def execLossOfLock (port lane : Nat) (s : State) : Host.Outcome State Fault Refusal := .next (laneFailed s port lane)

/-- DATA_FRAME (R386). -/
def execDataFrame (port : Nat) (f : Frame) (s : State) : Host.Outcome State Fault Refusal := .next (dataFrame s port f)

/-- IDLE_FRAME (R386, R387). -/
def execIdleFrame (port : Nat) (f : Frame) (s : State) : Host.Outcome State Fault Refusal := .next (idleFrame s port f)

end Sys2Proof.Machine
end

