-- ==== Sys2Proof/Machine/Sha.lean ====
section
/-! DEFINITION. SHA-256 and the RSASSA-PSS verification with a 3,072-bit key, which R500, R503 and R519 use: as FIPS 180-4
and RFC 8017 define them, with MGF1 on SHA-256, a 32-byte salt and the exponent 65,537. -/

namespace Sys2Proof.Machine

open Sys2Proof

/-! ### SHA-256 -/

/-- The working variables of SHA-256. -/
structure ShaState where
  a : BitVec 32
  b : BitVec 32
  c : BitVec 32
  d : BitVec 32
  e : BitVec 32
  f : BitVec 32
  g : BitVec 32
  h : BitVec 32
  deriving DecidableEq, Repr

/-- The round constants. -/
def shaK : List (BitVec 32) :=
  [0x428a2f98, 0x71374491, 0xb5c0fbcf, 0xe9b5dba5, 0x3956c25b, 0x59f111f1, 0x923f82a4, 0xab1c5ed5] ++
  [0xd807aa98, 0x12835b01, 0x243185be, 0x550c7dc3, 0x72be5d74, 0x80deb1fe, 0x9bdc06a7, 0xc19bf174] ++
  [0xe49b69c1, 0xefbe4786, 0x0fc19dc6, 0x240ca1cc, 0x2de92c6f, 0x4a7484aa, 0x5cb0a9dc, 0x76f988da] ++
  [0x983e5152, 0xa831c66d, 0xb00327c8, 0xbf597fc7, 0xc6e00bf3, 0xd5a79147, 0x06ca6351, 0x14292967] ++
  [0x27b70a85, 0x2e1b2138, 0x4d2c6dfc, 0x53380d13, 0x650a7354, 0x766a0abb, 0x81c2c92e, 0x92722c85] ++
  [0xa2bfe8a1, 0xa81a664b, 0xc24b8b70, 0xc76c51a3, 0xd192e819, 0xd6990624, 0xf40e3585, 0x106aa070] ++
  [0x19a4c116, 0x1e376c08, 0x2748774c, 0x34b0bcb5, 0x391c0cb3, 0x4ed8aa4a, 0x5b9cca4f, 0x682e6ff3] ++
  [0x748f82ee, 0x78a5636f, 0x84c87814, 0x8cc70208, 0x90befffa, 0xa4506ceb, 0xbef9a3f7, 0xc67178f2]

/-- The initial hash value. -/
def shaInit : ShaState :=
  ⟨0x6a09e667, 0xbb67ae85, 0x3c6ef372, 0xa54ff53a, 0x510e527f, 0x9b05688c, 0x1f83d9ab, 0x5be0cd19⟩

/-- Big-endian bytes of a number, and the number they spell. -/
def beBytes (n v : Nat) : List Byte := (leBytes n v).reverse
def ofBE (bs : List Byte) : Nat := ofLE bs.reverse

/-- The 32-bit words of a block. -/
def shaWords (block : List Byte) : List (BitVec 32) :=
  (List.range 16).map fun k => BitVec.ofNat 32 (ofBE (slice block (4 * k) 4))

/-- The next word of the message schedule, from the last sixteen. -/
def shaNext (w : List (BitVec 32)) : BitVec 32 :=
  let x := w.getD 1 0
  let y := w.getD 14 0
  let s0 := x.rotateRight 7 ^^^ x.rotateRight 18 ^^^ (x >>> 3)
  let s1 := y.rotateRight 17 ^^^ y.rotateRight 19 ^^^ (y >>> 10)
  w.getD 0 0 + s0 + w.getD 9 0 + s1

/-- One round. -/
def shaRound (k w : BitVec 32) (s : ShaState) : ShaState :=
  let s1 := s.e.rotateRight 6 ^^^ s.e.rotateRight 11 ^^^ s.e.rotateRight 25
  let t1 := s.h + s1 + ((s.e &&& s.f) ^^^ (~~~s.e &&& s.g)) + k + w
  let s0 := s.a.rotateRight 2 ^^^ s.a.rotateRight 13 ^^^ s.a.rotateRight 22
  let t2 := s0 + ((s.a &&& s.b) ^^^ (s.a &&& s.c) ^^^ (s.b &&& s.c))
  ⟨t1 + t2, s.a, s.b, s.c, s.d + t1, s.e, s.f, s.g⟩

/-- The rounds of a block, with the last sixteen words of the schedule. -/
def shaRounds : List (BitVec 32) → List (BitVec 32) → ShaState → ShaState
  | [], _, s => s
  | k :: ks, w, s => shaRounds ks (w.drop 1 ++ [shaNext w]) (shaRound k (w.getD 0 0) s)

/-- A block is taken into the hash value. -/
def shaBlock (s : ShaState) (block : List Byte) : ShaState :=
  let t := shaRounds shaK (shaWords block) s
  ⟨s.a + t.a, s.b + t.b, s.c + t.c, s.d + t.d, s.e + t.e, s.f + t.f, s.g + t.g, s.h + t.h⟩

/-- A message with its padding. -/
def shaPad (m : List Byte) : List Byte :=
  m ++ [0x80] ++ zeros ((119 - m.length % 64) % 64) ++ beBytes 8 (8 * m.length)

/-- SHA-256. -/
def sha256 (m : List Byte) : List Byte :=
  let p := shaPad m
  let s := (pieces 64 (p.length / 64) p).foldl shaBlock shaInit
  [s.a, s.b, s.c, s.d, s.e, s.f, s.g, s.h].flatMap fun w => beBytes 4 w.toNat

/-! ### RSASSA-PSS (R500) -/

/-- The mask generation function MGF1. -/
def mgf1 (seed : List Byte) (n : Nat) : List Byte :=
  ((List.range (ceilDiv n 32)).flatMap fun k => sha256 (seed ++ beBytes 4 k)).take n

/-- A number to the power 65,537. -/
def pow65537 (n s : Nat) : Nat := iter (fun _ x => x * x % n) 16 s * s % n

/-- The encoded message carries the hash of the message: the check of RFC 8017 for 384 bytes, of which the top bit is clear. -/
def pssCheck (em m : List Byte) : Bool :=
  let masked := em.take 351
  let h := slice em 351 32
  let db := List.zipWith (fun (x y : Byte) => x ^^^ y) masked (mgf1 h 351)
  let db0 : List Byte := (db.getD 0 0 &&& 0x7F) :: db.drop 1
  em.getD 383 0 = 0xBC && decide ((em.getD 0 0).toNat < 128) && (db0.take 318).all (fun b => b = 0) && db0.getD 318 0 = 0x01 &&
    h = sha256 (zeros 8 ++ sha256 m ++ slice db0 319 32)

/-- The signature of a message verifies under a modulus; both are big-endian. -/
def pssVerify (modulus signature m : List Byte) : Bool :=
  let n := ofBE modulus
  let s := ofBE signature
  decide (s < n) && pssCheck (beBytes 384 (pow65537 n s)) m

end Sys2Proof.Machine
end

