-- ==== Sys2Proof/Machine/Flash.lean ====
section
/-! DEFINITION. The flash (R497), the record store with its compaction (R514 to R517), and the firmware image with the
checks of R500. -/

namespace Sys2Proof.Machine

open Sys2Proof

/-! ### Bytes of the flash -/

/-- The records of a half of the store, in the order written. -/
def halfRecords (s : State) (half : Nat) : List Stored := if half % 2 = 0 then s.mc.store0 else s.mc.store1

/-- A byte of the flash: of a record in the store, else of the identity or the image region. -/
def flashByte (s : State) (a : Nat) : Byte :=
  if 0x2000000 ≤ a then
    let half := (a - 0x2000000) / halfBytes
    (halfImage (halfBase half) (halfRecords s half)).getD (a - halfBase half) 0xFF
  else tblGet flashDefault s.mc.flash a

/-- Bytes of the identity or the image region. -/
def flashBytes (s : State) (a n : Nat) : List Byte := (List.range n).map fun k => tblGet flashDefault s.mc.flash (a + k)

/-- Programs one byte of the image region. -/
def flashSet (s : State) (a : Nat) (b : Byte) : State := { s with mc := { s.mc with flash := tblSet flashDefault s.mc.flash a b } }

/-- Programs bytes from an offset on. -/
def flashPut (s : State) (a : Nat) : List Byte → State
  | [] => s
  | b :: t => flashPut (flashSet s a b) (a + 1) t

/-- Erases a range of the image region. -/
def flashErase (s : State) (a n : Nat) : State := flashPut s a (List.replicate n 0xFF)

/-! ### Records (R514, R515) -/

/-- Puts the records of a half. -/
def setHalf (s : State) (half : Nat) (l : List Stored) : State :=
  if half % 2 = 0 then { s with mc := { s.mc with store0 := l } } else { s with mc := { s.mc with store1 := l } }

/-- The records of a half that count: those committed. The CRC of every record MC writes matches (R515). -/
def committedIn (l : List Stored) : List Stored := l.filter fun r => !r.torn

/-- The bytes a half holds. -/
def halfUsed (l : List Stored) : Nat := (l.map fun r => recordSize r.body.length).foldl (· + ·) 0

/-- The committed records of the half in use. -/
def records (s : State) : List Stored := committedIn (halfRecords s s.mc.half)

/-- The bytes used in the half in use: the next record goes there. -/
def storeTail (s : State) : Nat := halfUsed (halfRecords s s.mc.half)

/-- The record with the highest SEQ among some. -/
def latestBy (p : Stored → Bool) (rs : List Stored) : Option Stored :=
  (rs.filter p).foldl (fun best r =>
    match best with
    | none => some r
    | some b => if b.seq ≤ r.seq then some r else some b) none

/-- The committed body of a profile (R515). -/
def profileRecord (s : State) (index : Nat) : Option (List Byte) :=
  (latestBy (fun r => r.type = 0x0005 && leAt r.body 0 1 = index) (records s)).map fun r => r.body

/-- Remap and retirement entries, committed or on their way to the store: type and body. -/
def spareEntries (s : State) : List (Nat × List Byte) :=
  ((records s).map fun r => (r.type, r.body)) ++ s.flashDue.map fun r => (r.type, r.body)

/-! ### Writing records (R514 to R517) -/

/-- The registers that report the store: RECORD_SEQ and USED_KIB. -/
def noteStore (s : State) (seq : Nat) : State :=
  setF (setReg s unitMC 0x150 (BitVec.ofNat 64 seq)) unitMC 0x148 15 0 (storeTail s / 1024)

/-- SEQ of the last committed record. -/
def lastSeq (s : State) : Nat := (getReg s unitMC 0x150).toNat

/-- Writes a record beyond the previous one; one that is torn keeps an erased COMMIT byte and does not count (R515). -/
def appendRecord (s : State) (type : Nat) (body : List Byte) (torn : Bool) : State :=
  let seq := (lastSeq s + 1) % 2 ^ 64
  let s1 := setHalf s s.mc.half (halfRecords s s.mc.half ++ [⟨type, seq, body, torn⟩])
  noteStore s1 (if torn then lastSeq s else seq)

/-- A remap or a page retirement. -/
def isSpareType (type : Nat) : Bool := decide (1 ≤ type ∧ type ≤ 3)

/-- The live records in the order written (R517): remaps and retirements, the latest boot counter, the latest record of each
profile, the latest 256 log entries. -/
def liveRecords (rs : List Stored) : List Stored :=
  let logs := rs.filter fun r => r.type = 0x0006
  let kept := logs.drop (logs.length - 256)
  rs.filter fun r =>
    isSpareType r.type || (r.type = 0x0004 && latestBy (fun x => x.type = 0x0004) rs = some r) ||
      (r.type = 0x0005 && latestBy (fun x => x.type = 0x0005 && leAt x.body 0 1 = leAt r.body 0 1) rs = some r) ||
      (r.type = 0x0006 && kept.contains r)

/-- 12 MiB (R517). -/
def storeLimit : Nat := 0xC00000

/-- The active half has passed 12 MiB. -/
def compactDue (s : State) : Bool := decide (storeLimit < storeTail s)

/-- Compaction into the other half (R517): erased, a half-start record with the next generation, the live records, a
compaction-done record, and the old half erased. -/
def compact (s : State) : State :=
  let live := liveRecords (records s)
  let old := s.mc.half
  let g := s.mc.gen + 1
  let s1 := setHalf s (old + 1) []
  let s2 := { s1 with mc := { s1.mc with half := (old + 1) % 2, gen := g } }
  let s3 := appendRecord s2 0x0007 (leBytes 4 g) false
  let s4 := foldOver (fun r t => appendRecord t r.type r.body false) live s3
  setHalf (appendRecord s4 0x0008 (leBytes 4 g) false) old []

/-- The bytes the live records take. -/
def liveBytes (s : State) : Nat := halfUsed (liveRecords (records s))

/-- Writes a record (R515, R517): after a compaction that is due; a remap or retirement that the live records leave no room
for is dropped, and counted. -/
def putRecord (s : State) (type : Nat) (body : List Byte) (torn : Bool) : State :=
  if isSpareType type ∧ compactDue s = true ∧ storeLimit < liveBytes s + recordSize body.length then
    raiseErr (bump s unitMC 0x148 63 32 1) unitMC 19
  else
    let s1 := if compactDue s then compact s else s
    if storeTail s1 + recordSize body.length ≤ halfBytes then appendRecord s1 type body torn else s1

/-! ### Replay at power-up (R515, R517) -/

/-- The generation of a half that holds its compaction-done record. -/
def doneGen (h : List Stored) : Option Nat := (latestBy (fun r => r.type = 0x0008) (committedIn h)).map fun r => leAt r.body 0 4

/-- The generation of a half's half-start record. -/
def startGen (h : List Stored) : Option Nat := (latestBy (fun r => r.type = 0x0007) (committedIn h)).map fun r => leAt r.body 0 4

/-- The half to use: the one of the higher generation that a compaction completed; half 0 when there is none. -/
def chooseHalf (h0 h1 : List Stored) : Nat :=
  match doneGen h0, doneGen h1 with
  | some a, some b => if a < b then 1 else 0
  | none, some _ => 1
  | _, _ => 0

/-- MC BOOT and FAIL_INFO as the latest log entry and the latest counter record have them (R506, R525). A log entry holds
reason, detail, FAIL_INFO and TIME. -/
def noteBoot (s : State) (rs : List Stored) : State :=
  let count := ((latestBy (fun r => r.type = 0x0004) rs).map fun r => leAt r.body 0 1 % 4).getD 0
  let s1 := setF s unitMC 0x120 23 16 count
  match latestBy (fun r => r.type = 0x0006) rs with
  | none => s1
  | some l =>
    let s2 := setF (setF s1 unitMC 0x120 15 8 (leAt l.body 0 1)) unitMC 0x120 7 0 (leAt l.body 1 1)
    setReg s2 unitMC 0x128 (BitVec.ofNat 64 (leAt l.body 2 8))

/-- A failure has been logged since the last counter record (R507). -/
def loggedSince (rs : List Stored) : Bool :=
  let c := ((latestBy (fun r => r.type = 0x0004) rs).map fun r => r.seq).getD 0
  rs.any fun r => r.type = 0x0006 && decide (c < r.seq)

/-- Step 2 of R498: the store is replayed. A half of a higher generation without a compaction-done record is erased. -/
def replayStore (s : State) : State :=
  let n := chooseHalf s.mc.store0 s.mc.store1
  let h := halfRecords s n
  let g := (doneGen h).getD 0
  let s1 := if (startGen (halfRecords s (n + 1))).any (fun x => decide (g < x)) then setHalf s (n + 1) [] else s
  let s2 := { s1 with mc := { s1.mc with half := n, gen := g, failLogged := loggedSince (committedIn h) } }
  let seq := ((committedIn h).map fun r => r.seq).foldl max 0
  let torn := (h.filter fun r => r.torn).length
  let s3 := noteBoot (setF (noteStore s2 seq) unitMC 0x148 31 16 (min torn 65535)) (committedIn h)
  if torn = 0 then s3 else raiseErr s3 unitMC 18

/-! ### The boot counter and the log (R506, R516) -/

/-- The boot counter. -/
def bootCount (s : State) : Nat := getF s unitMC 0x120 17 16

/-- Writes a boot-counter record; DEV STATE and MC BOOT report it. -/
def writeCount (s : State) (c : Nat) : State :=
  let s1 := putRecord s 0x0004 (leBytes 1 c) false
  setF (setF { s1 with mc := { s1.mc with failLogged := false } } unitMC 0x120 23 16 c) unitDEV 0x120 23 16 c

/-- Logs a failure: its reason and detail, with FAIL_INFO and the time (R507, R516). -/
def logFailure (s : State) (reason detail : Nat) : State :=
  let info := (getReg s unitMC 0x128).toNat
  let s1 := putRecord s 0x0006 (leBytes 1 reason ++ leBytes 1 detail ++ leBytes 8 info ++ leBytes 8 s.tb.time) false
  setF (setF { s1 with mc := { s1.mc with failLogged := true } } unitMC 0x120 15 8 reason) unitMC 0x120 7 0 detail

/-! ### The image (R500 to R502) -/

/-- The image region (R497). -/
def imageBase : Nat := 0x1000000
def imageHeader (s : State) : List Byte := flashBytes s imageBase 1024

def hdrSlot (h : List Byte) : Nat := leAt h 2 1
def hdrSvn (h : List Byte) : Nat := leAt h 3 1
def hdrBytes (h : List Byte) : Nat := leAt h 16 4
def hdrHash (h : List Byte) : List Byte := slice h 24 32

/-- The revocation fuses: bit s is slot s. -/
def revoked (s : State) : Nat := getF s unitMC 0x130 11 8

/-- The anti-rollback counter. -/
def svnFuses (s : State) : Nat := getF s unitMC 0x130 5 0

/-- Every byte of a range is 0. -/
def allZero (h : List Byte) (off n : Nat) : Bool := (slice h off n).all fun b => b = 0

/-- Check 1: version, size, exponent and reserved bytes. -/
def headerFormed (h : List Byte) : Bool :=
  let n := hdrBytes h
  leAt h 0 2 = 1 && n % 4096 = 0 && decide (4096 ≤ n ∧ n ≤ 16773120) && leAt h 440 4 = 65537 && allZero h 7 1 &&
    allZero h 10 6 && allZero h 20 4 && allZero h 444 68 && allZero h 896 128

/-- Check 2: the slot's revocation fuse is intact. -/
def slotIntact (s : State) (slot : Nat) : Bool := decide (slot < 4) && !(revoked s).testBit slot

/-- Check 3: a modulus and an exponent hash to the slot's fused hash. -/
def keyMatches (s : State) (slot : Nat) (key : List Byte) : Bool := sha256 key = s.mc.keys.getD slot []

/-- The first of checks 1 to 5 that a header fails, 0 for none. -/
def headerCheck (s : State) (h : List Byte) : Nat :=
  if headerFormed h = false then 1
  else if slotIntact s (hdrSlot h) = false then 2
  else if keyMatches s (hdrSlot h) (slice h 56 388) = false then 3
  else if pssVerify (slice h 56 384) (slice h 512 384) (slice h 0 512) = false then 4
  else if hdrSvn h < svnFuses s then 5
  else 0

/-- Check 6: the body read back hashes to BODY_HASH. -/
def bodyMatches (s : State) (h : List Byte) : Bool := sha256 (flashBytes s (imageBase + 4096) (hdrBytes h)) = hdrHash h

/-- The first failing check of the image in flash, 0 for none (R500); a read that does not complete fails check 6. -/
def imageCheck (s : State) (readOk : Bool) : Nat :=
  let h := imageHeader s
  let c := headerCheck s h
  if c ≠ 0 then c else if readOk && bodyMatches s h then 0 else 6

/-- DEV FW_VERSION of a header (R75). -/
def fwVersion (h : List Byte) : Word :=
  putField (putField (putField (putField (putField 0 45 40 (hdrSvn h)) 39 32 (leAt h 4 1)) 31 24 (leAt h 5 1)) 23 16 (leAt h 6 1))
    15 0 (leAt h 8 2)

end Sys2Proof.Machine
end

