-- ==== Sys2Proof/Machine/Mem.lean ====
section
/-! DEFINITION. Device memory: address forms (R335 to R338), the pool directory, the stacks with their twinned and
journaled pages, regulators and poison, the vault banks as scratchpad and as cache with their merging buffers, and the one
read and the one write every agent uses. -/

namespace Sys2Proof.Machine

open Sys2Proof

/-! ### Address forms -/

/-- The stack-form address of a byte of a stack (R335). -/
def stackAddr (st off : Nat) : Nat := 2 ^ 60 + st * 2 ^ 37 + off

/-- The vault-form address of a byte of a bank (R335). -/
def vaultAddr (b off : Nat) : Nat := 2 * 2 ^ 60 + b * 2 ^ 27 + off

/-- The tile-local address of a byte of a tile's own memory, its TYPE, QUARTER and INSTANCE written out (R335, R336). -/
def tileAddr (u : UnitId) (off : Nat) : Nat := 3 * 2 ^ 60 + u.ty * 2 ^ 40 + u.q * 2 ^ 36 + u.i * 2 ^ 28 + off

/-- Bytes of a stack's visible range (R339). -/
def stackBytes : Nat := 80000000000

/-- Bytes of a vault bank (R356). -/
def bankBytes : Nat := 2 ^ 27

/-- What a byte of an access names. -/
inductive Spot where
  | stack (st off : Nat)
  | vault (b off : Nat)
  | remote (owner pool : Nat)
  | nowhere
  deriving DecidableEq, Repr

/-! ### Pool directory -/

/-- Extent size of an entry (R400). -/
def extentBytes (e : DirEntry) : Nat := 2 ^ (26 + field e.w0 55 52)

/-- Pool address at which an entry's extent starts. -/
def extentBase (e : DirEntry) : Nat := field e.w0 49 26 * 2 ^ 26

/-- A valid entry whose extent holds a pool address (R401). -/
def entryHolds (e : DirEntry) (p : Nat) : Bool :=
  bitOf e.w0 63 && decide (extentBase e ≤ p ∧ p < extentBase e + extentBytes e)

/-- The one valid entry that maps a pool address, with its index (R401). -/
def dirFind (s : State) (p : Nat) : Option (Nat × DirEntry) := s.dir.find? fun e => entryHolds e.2 p

/-- Counts sectors against the extent that holds a pool address (R404). -/
def countLoad (s : State) (p n : Nat) : State :=
  match dirFind s p with
  | none => s
  | some (i, e) => { s with dir := tblSet (fun _ => {}) s.dir i { e with cur := satAdd 32 e.cur n } }

/-- What byte `k` of an access at `base` names (R335 to R338): an access never continues past the end of its bank or its
stack, and each byte of a pool access resolves through the extent that holds it. -/
def spotOf (s : State) (base k : Nat) : Spot :=
  match natField base 63 60 with
  | 0 =>
    if natField base 59 50 ≠ 0 ∨ 2 ^ 50 ≤ base + k then .nowhere
    else
      match dirFind s (base + k) with
      | none => .nowhere
      | some (_, e) =>
        if field e.w0 25 16 = deviceId s then
          .stack (field e.w1 40 37) (field e.w1 36 26 * 2 ^ 26 + (base + k - extentBase e))
        else .remote (field e.w0 25 16) (base + k)
  | 1 =>
    if natField base 59 41 ≠ 0 then .nowhere
    else .stack (natField base 40 37) (natField base 36 0 + k)
  | 2 =>
    if natField base 59 31 ≠ 0 ∨ bankBytes ≤ natField base 26 0 + k then .nowhere
    else .vault (natField base 30 27) (natField base 26 0 + k)
  | _ => .nowhere

/-- A stack controller that serves: present, enabled and not in reset (R338). -/
def stackServes (s : State) (st : Nat) : Bool :=
  decide (st < 12) && present s (unitHS st) && enabled s (unitHS st) && !resetting s (unitHS st)

/-- A byte of a stack that names memory (R338). -/
def stackNames (s : State) (st off : Nat) : Bool := stackServes s st && decide (off < stackBytes)

/-- A bank that serves vault-form accesses: in scratchpad mode, enabled, not retired (R358). -/
def bankServes (s : State) (b : Nat) : Bool :=
  decide (getF s (unitVB b) 0x100 1 0 = 0) && enabled s (unitVB b) && !retired s (unitVB b)

/-! ### Escrowed regions -/

/-- An enabled escrowed region as its registers give it (R430, R465). -/
structure Region where
  base : Nat
  bytes : Nat
  twinned : Bool
  twin : Nat
  deriving DecidableEq, Repr

/-- The regions of a quarter's escrow part, enabled ones only, while ES is enabled. -/
def regionsOf (s : State) (q : Nat) : List Region :=
  let u := unitES q
  if enabled s u then
    (List.range 16).filterMap fun n =>
      let b := getReg s u (0x108 + 0x18 * n)
      if bitOf b 63 then
        some ⟨(getReg s u (0x100 + 0x18 * n)).toNat, field b 36 0, bitOf b 62, (getReg s u (0x110 + 0x18 * n)).toNat⟩
      else none
  else []

/-- Whether a range holds an address. -/
def within (lo n a : Nat) : Bool := decide (lo ≤ a ∧ a < lo + n)

/-- The escrowed region that holds a stack-form address. -/
def regionAt (s : State) (a : Nat) : Option Region :=
  (regionsOf s (natField a 40 37 / 3)).find? fun r => within r.base r.bytes a

/-- A byte of a twin copy, an undo area or a state area, which only escrow reads and writes (R433). -/
def escrowOwn (s : State) (a : Nat) : Bool :=
  let q := natField a 40 37 / 3
  let u := unitES q
  enabled s u &&
    ((regionsOf s q).any (fun r => r.twinned && within r.twin r.bytes a) ||
      within (getReg s u 0x280).toNat (getF s u 0x288 36 0) a ||
      within (getReg s u 0x290).toNat (getF s u 0x298 36 0) a)

/-- The 4 KiB page that holds an address. -/
def pageBase (a : Nat) : Nat := a / 4096 * 4096

/-- Where the current copy of a stack-form byte lies: the twin for a page whose working copy, or whose committed copy
while no working copy exists, is the twin (R434). -/
def physAddr (s : State) (a : Nat) : Nat :=
  match regionAt s a with
  | some r =>
    if r.twinned && (decide (pageBase a ∈ s.esc.swapped) != decide (pageBase a ∈ s.esc.working)) then r.twin + (a - r.base)
    else a
  | none => a

/-! ### Raw bytes -/

/-- The canonical form of a memory: addresses strictly rising, no entry equal to what an unlisted address reads as. -/
def Memory.wf (m : List Host.Cell) : Bool := tblWf (fun _ => (0 : Byte)) m

/-- A stored byte of device memory; a byte nothing has written reads 0. -/
def rawByte (s : State) (a : Nat) : Byte := tblGet (fun _ => 0) s.mem a

/-- Stores a byte of device memory. -/
def putByte (s : State) (a : Nat) (b : Byte) : State := { s with mem := tblSet (fun _ => 0) s.mem a b }

/-- Stores consecutive bytes. -/
def putBytes (s : State) (a : Nat) : List Byte → State
  | [] => s
  | b :: bs => putBytes (putByte s a b) (a + 1) bs

/-- Copies a range, poison with it (R434: a poisoned sector is copied poisoned). -/
def copyRange (s : State) (src dst n : Nat) : State :=
  let cells := s.mem.filter fun c => within src n c.1
  let cleared := tblClear s.mem dst n
  { s with
    mem := cells.foldl (fun m c => tblSet (fun _ => 0) m (dst + (c.1 - src)) c.2) cleared
    poison := (s.poison.filter fun p => !within dst n p) ++
      (s.poison.filter fun p => within src n p).map fun p => dst + (p - src) }

/-! ### Regulators -/

/-- The bandwidth factor F of a stack in hundredths (R344). -/
def factor100 (s : State) (st : Nat) : Nat :=
  if getF s (unitHS st) 0x18 23 23 = 1 then 50
  else if getF s (unitHS st) 0x18 26 24 = 1 then 100 else 96

/-- What a stack holds beside its registers. -/
def stackOf (s : State) (st : Nat) : Stack := tblGet (fun _ => {}) s.hs st

/-- Writes it. -/
def setStack (s : State) (st : Nat) (h : Stack) : State := { s with hs := tblSet (fun _ => {}) s.hs st h }

/-- The regulator of a partition: its own when enabled, else REG0 (R353). -/
def regulatorOf (s : State) (st part : Nat) : Nat :=
  if getF s (unitHS st) (0x100 + 8 * (part % 16)) 16 16 = 1 then part % 16 else 0

/-- Tokens of a regulator now, in ten-thousandths: SHARE · 50 · F per microsecond since they were last counted, up to
BURST (R354). -/
def tokensNow (s : State) (st n : Nat) : Nat :=
  let h := stackOf s st
  let r := getReg s (unitHS st) (0x100 + 8 * n)
  min (field r 63 48 * 10000)
    (tblGet (fun _ => 0) h.tokens n + (s.tb.time - h.tokensAt) * field r 8 0 * factor100 s st * 5)

/-- Brings every regulator's token count up to the present time. -/
def settleTokens (s : State) (st : Nat) : State :=
  let t := (List.range 16).foldl (fun m n => tblSet (fun _ => 0) m n (tokensNow s st n)) ([] : Table Nat)
  setStack s st { stackOf s st with tokens := t, tokensAt := s.tb.time }

/-- An access is in budget when its regulator holds its tokens (R354). -/
def inBudget (s : State) (st part cost : Nat) : Bool := decide (cost * 10000 ≤ tokensNow s st (regulatorOf s st part))

/-- Charges an access that is served (R354, R355): its tokens, SERVEDn and, out of budget, BORROWEDn. -/
def charge (s : State) (st part cost sectors : Nat) : State :=
  let n := regulatorOf s st part
  let ok := inBudget s st part cost
  let s1 := settleTokens s st
  let h := stackOf s1 st
  let left := tblGet (fun _ => 0) h.tokens n - cost * 10000
  let s2 := if ok then setStack s1 st { h with tokens := tblSet (fun _ => 0) h.tokens n left } else s1
  let s3 := bump64 s2 (unitHS st) (0x200 + 8 * n) cost
  if ok then s3 else bump64 s3 (unitHS st) (0x280 + 8 * n) sectors

/-! ### Vault banks -/

/-- What a bank holds beside its registers. -/
def bankOf (s : State) (b : Nat) : VaultBank := tblGet (fun _ => {}) s.vb b

/-- Writes it, with BUF_USED and BUF_FULL of VB STATUS (R372). -/
def setBank (s : State) (b : Nat) (v : VaultBank) : State :=
  let s1 := { s with vb := tblSet (fun _ => {}) s.vb b v }
  setF s1 (unitVB b) 0x18 22 16 v.buf.length

/-- The cache-mode banks of a quarter, by ascending local index (R359). -/
def cacheBanks (s : State) (q : Nat) : List Nat :=
  (List.range 4).filterMap fun i => if getF s (unitVB (4 * q + i)) 0x100 1 0 = 1 then some (4 * q + i) else none

/-- The bank that serves a hashed line among a quarter's cache-mode banks; none where the line is not cached (R359). -/
def pickBank (s : State) (q h : Nat) : Option Nat :=
  let banks := cacheBanks s q
  match banks[h % max 1 banks.length]? with
  | some b => if enabled s (unitVB b) && !retired s (unitVB b) then some b else none
  | none => none

/-- The bank that caches a sector of a stack (R359). -/
def bankFor (s : State) (st sector : Nat) : Option Nat := pickBank s (st / 3) (Config.lineHash sector)

/-- The bank that holds a remote line: its home quarter is a hash of the pool address (R367). -/
def remoteBank (s : State) (pool : Nat) : Option Nat :=
  pickBank s (Config.homeHash (pool / 64 * 64) % 4) (Config.lineHash (pool / 64 * 64))

/-- A valid byte of the merging buffer (R361). -/
def bufByte (v : VaultBank) (sector k : Nat) : Option Byte :=
  match v.buf.find? fun e => e.sector = sector && e.mask.testBit k with
  | some e => e.bytes[k]?
  | none => none

/-- A byte of a cached line. -/
def lineByte (v : VaultBank) (addr k : Nat) : Option Byte :=
  match v.lines.find? fun l => l.addr = addr with
  | some l => l.bytes[k]?
  | none => none

/-- A whole sector write or read counts as whole from the first byte. -/
def wholeSector (off n : Nat) : Bool := off % 64 = 0 && n = 64

/-! ### The view of one byte -/

/-- A byte of a stack as every party but escrow sees it: the merging buffer over the line over the current copy; zeros
where it names no memory, on an offline page and on escrow's own areas (R338, R351, R361, R433, R434). -/
def stackView (s : State) (st off : Nat) : Byte :=
  let a := stackAddr st off
  if !stackNames s st off || escrowOwn s a || decide (pageBase off ∈ (stackOf s st).offline) then 0
  else
    let under := rawByte s (physAddr s a)
    match bankFor s st (a / 64 * 64) with
    | none => under
    | some b =>
      match bufByte (bankOf s b) (a / 64 * 64) (a % 64) with
      | some x => x
      | none => (lineByte (bankOf s b) (a / 64 * 64) (a % 64)).getD under

/-- A byte of a vault bank: zeros where the bank does not serve (R358). -/
def vaultView (s : State) (b off : Nat) : Byte := if bankServes s b then rawByte s (vaultAddr b off) else 0

/-- Byte `k` of an access at `base`, as a read of it returns; a remote byte is not held here and reads 0. -/
def viewByte (s : State) (base k : Nat) : Byte :=
  match spotOf s base k with
  | .stack st off => stackView s st off
  | .vault b off => vaultView s b off
  | _ => 0

/-- Bytes as a read returns them. -/
def viewBytes (s : State) (base n : Nat) : List Byte := (List.range n).map (viewByte s base)

/-! ### Recorded accesses -/

/-- Records an access that names no memory (R338), at the requester's quarter, or quarter 0 for the host and a peer. -/
def noteUnmapped (s : State) (who : UnitId) (a : Nat) : State :=
  let q := if who.q < 4 ∧ who.ty ≠ 0x0C then who.q else 0
  let u : UnitId := ⟨0x0B, q, 0⟩
  raiseErr (setReg s u 0x1C8 (BitVec.ofNat 64 a)) u 21

/-- Records a vault-form access to a bank that does not serve (R358, R372). -/
def noteBadMode (s : State) (who : UnitId) (b off : Nat) (write : Bool) : State :=
  let w : Word := putField (putField (putField (putField (putField 0 63 63 (bit write)) 47 40 who.ty) 39 36 who.q) 35 28 who.i)
    26 0 off
  raiseErr (setReg s (unitVB b) 0x110 w) (unitVB b) 16

/-- Records an access to escrow's own memory (R433). -/
def noteReserved (s : State) (a : Nat) : State :=
  let u := unitES (natField a 40 37 / 3)
  raiseErr (setReg s u 0x2C8 (BitVec.ofNat 64 a)) u 17

/-! ### First-write copies -/

/-- Undo copies of a quarter's area (R432). -/
def undoSlots (s : State) (q : Nat) : Nat := getF s (unitES q) 0x288 36 0 / 4096

/-- Undo copies in use in a quarter. -/
def undoUsed (s : State) (q : Nat) : List (Nat × Nat) := s.esc.undo.filter fun e => natField e.1 40 37 / 3 = q

/-- The lowest free undo copy of a quarter. -/
def freeUndo (s : State) (q : Nat) : Option Nat :=
  (List.range (undoSlots s q)).find? fun n => !(undoUsed s q).any fun e => e.2 = n

/-- Asks the root for an early close of the open epoch (R443); the message is sent by the commands of the tree. -/
def requestClose (s : State) : State := if openEpoch s = 0 then s else setF s unitEX 0x18 16 16 1

/-- Charges a first-write copy and counts it (R436, R465). -/
def countCopy (s : State) (q st part : Nat) : State := charge (bump64 s (unitES q) 0x2B8 1) st part 128 128

/-- The first write of the open epoch to an escrowed page copies it (R434 to R437). It answers none when the write must
wait because the undo area is full. -/
def firstWrite (s : State) (part a : Nat) : Option State :=
  if openEpoch s = 0 then some s
  else
    match regionAt s a with
    | none => some s
    | some r =>
      let q := natField a 40 37 / 3
      let st := natField a 40 37
      let p := pageBase a
      if r.twinned then
        if p ∈ s.esc.working then some s
        else
          let other := if p ∈ s.esc.swapped then p else r.twin + (p - r.base)
          let s1 := copyRange s (physAddr s p) other 4096
          let s2 := { s1 with esc := { s1.esc with working := p :: s1.esc.working } }
          some (countCopy (bump s2 (unitES q) 0x2B0 63 32 1) q st part)
      else if s.esc.undo.any fun e => e.1 = p then some s
      else
        match freeUndo s q with
        | none => none
        | some n =>
          let s1 := copyRange s p ((getReg s (unitES q) 0x280).toNat + 4096 * n) 4096
          let s2 := { s1 with esc := { s1.esc with undo := (p, n) :: s1.esc.undo } }
          let s3 := setF s2 (unitES q) 0x2A0 31 0 (undoUsed s2 q).length
          let s4 := countCopy (bump s3 (unitES q) 0x2B0 31 0 1) q st part
          if 7 * undoSlots s4 q ≤ 8 * (undoUsed s4 q).length then some (requestClose (setF s4 (unitES q) 0x18 17 17 1))
          else some s4

/-! ### Writes at the stack controller and at the merging buffer -/

/-- Marks that the present step's access waits under R30: the command that made it is then without effect. -/
def mustWait (s : State) : State := { s with rem := { s.rem with wait := true } }

/-- Marks that the present step's write waits for an undo copy (R437), unless an access before it waits already. -/
def mustWaitUndo (s : State) (part q : Nat) : State :=
  if s.rem.wait then s else { s with rem := { s.rem with wait := true, full := some (part, q) } }

/-- The bytes of a sector write with those a mask leaves out kept as stored. -/
def maskBytes (s : State) (a mask : Nat) (data : List Byte) : List Byte :=
  data.mapIdx fun k b => if mask.testBit k then b else rawByte s (a + k)

/-- A write the stack controller performs (R341, R342, R351): first-write copy, the bytes of the mask, and an end of poison
on a whole-sector write. A write that must wait for an undo copy sets UNDO_FULL (R437), by `orWait`. -/
def controllerWrite (s : State) (part st off : Nat) (data : List Byte) (mask : Nat := 2 ^ data.length - 1) : State :=
  let a := stackAddr st off
  if decide (pageBase off ∈ (stackOf s st).offline) then s
  else
    match firstWrite s part a with
    | none => mustWaitUndo s part (st / 3)
    | some s1 =>
      let whole := wholeSector off data.length && decide (mask = 2 ^ data.length - 1)
      let s2 := putBytes s1 (physAddr s1 a) (maskBytes s1 (physAddr s1 a) mask data)
      let s3 := if whole then { s2 with poison := s2.poison.filter fun p => p ≠ physAddr s1 a } else s2
      let s4 := bump64 s3 (unitHS st) 0x1E0 1
      charge s4 st part (if whole then 1 else 2) 1

/-- Drains the oldest entry of a bank's merging buffer (R361): a whole-sector write when all 64 bytes are valid, else a
partial write of the valid ones. -/
def drainOldest (s : State) (b : Nat) : State :=
  match (bankOf s b).buf with
  | [] => s
  | e :: rest =>
    let st := natField e.sector 40 37
    let off := natField e.sector 36 0
    let s1 := controllerWrite s 0 st off e.bytes e.mask
    if s1.rem.wait then s1
    else bump64 (setBank s1 b { bankOf s1 b with buf := rest }) (unitVB b) 0x130 1

/-- A write enters the merging buffer of its bank (R361): merged into its sector's entry, else a free entry; when none is
free the oldest entry drains first, which is the wait of R361. A line that holds the sector is updated (R360). -/
def bufferWrite (s : State) (b sector k : Nat) (data : List Byte) : State :=
  let v := bankOf s b
  let mask := (List.range data.length).foldl (fun m j => m ||| 2 ^ (k + j)) 0
  let lines := v.lines.map fun l => if l.addr = sector then { l with bytes := splice l.bytes k data } else l
  if v.buf.any fun e => e.sector = sector then
    bump64
      (setBank s b { lines := lines, buf := v.buf.map fun e =>
        if e.sector = sector then { e with bytes := splice e.bytes k data, mask := e.mask ||| mask } else e })
      (unitVB b) 0x128 1
  else
    let s1 := if v.buf.length < 64 then s else drainOldest s b
    let v1 := bankOf s1 b
    setBank s1 b { lines := lines, buf := v1.buf ++ [⟨sector, splice (zeros 64) k data, mask⟩] }

/-- A write of at most one sector of a stack (R359, R361). -/
def stackWrite (s : State) (part st off : Nat) (data : List Byte) : State :=
  let sector := stackAddr st off / 64 * 64
  match bankFor s st sector with
  | some b => bufferWrite s b sector (off % 64) data
  | none => controllerWrite s part st off data

/-! ### Reads and writes of one sector piece -/

/-- The pieces of an access, each within one 64-byte sector: offset from the base, and length. -/
def sectorPieces (base len : Nat) : List (Nat × Nat) :=
  (List.range (len / 64 + 2)).filterMap fun j =>
    let lo := if j = 0 then 0 else j * 64 - base % 64
    let hi := min len ((j + 1) * 64 - base % 64)
    if lo < hi then some (lo, hi - lo) else none

/-- A remote line that may be served from this device's own copies (R367, R368): of a cacheable extent, for an engine that
uses copies, and fetched in the open epoch. -/
def remoteCopy (s : State) (who : UnitId) (pool : Nat) : Option (List Byte) :=
  let line := pool / 64 * 64
  let ok := match dirFind s pool with
    | some (_, e) => bitOf e.w0 62
    | none => false
  if ok = true ∧ who.ty ≠ 0x02 ∧ who.ty ≠ 0x07 ∧ who.ty ≠ 0x08 then
    let lines := (match remoteBank s pool with
      | some b => (bankOf s b).lines
      | none => []) ++ s.rem.pcache
    (lines.find? fun l => l.addr = line && l.epoch = openEpoch s).map fun l => l.bytes
  else none

/-- Counts a hit or a miss of a remote line at its bank (R367, R372). -/
def countRemote (s : State) (who : UnitId) (pool : Nat) (hit : Bool) : State :=
  let cached := ((dirFind s pool).map fun e => bitOf e.2.w0 62).getD false && !([0x02, 0x07, 0x08].contains who.ty)
  match remoteBank s pool with
  | some b => if cached then bump64 s (unitVB b) (if hit then 0x118 else 0x120) 1 else s
  | none => s

/-- Reads a piece of a remote sector: from a copy, or from the engine's reply buffer, else it is asked for and the task
waits (R337, R397). A missing sector reads zeros and is recorded (R337, R338). -/
def remoteRead (s : State) (who : UnitId) (pool n : Nat) : State × List Byte :=
  let line := pool / 64 * 64
  match remoteCopy s who pool with
  | some bs => (countRemote s who pool true, slice bs (pool % 64) n)
  | none =>
    match s.rem.got.find? fun g => g.1 = who && g.2.1 = line with
    | some g => (countRemote s who pool false, slice g.2.2 (pool % 64) n)
    | none =>
      if (who, line) ∈ s.rem.missing then (noteUnmapped s who pool, zeros n)
      else if (who, line) ∈ s.rem.wanted ∨ (who, line) ∈ s.rem.asked then (mustWait s, zeros n)
      else (mustWait { s with rem := { s.rem with wanted := s.rem.wanted ++ [(who, line)] } }, zeros n)

/-- A write to a remote pool address: this device's copies of the sectors go first (R368), then the write is on its way. -/
def remoteWrite (s : State) (who : UnitId) (pool : Nat) (data : List Byte) : State :=
  let line := pool / 64 * 64
  let drop (ls : List CacheLine) := ls.filter fun l => l.addr ≠ line
  let s1 := foldOver (fun b t => setBank t b { bankOf t b with lines := drop (bankOf t b).lines }) (List.range 16) s
  { s1 with rem := { s1.rem with pcache := drop s1.rem.pcache, writes := s1.rem.writes ++ [⟨who, pool, data, 0⟩] } }

/-- A stored sector is marked poisoned (R341), unless valid bytes of the merging buffer cover it or its page is offline (R351). -/
def poisonedAt (s : State) (st off : Nat) : Bool :=
  let sector := stackAddr st off / 64 * 64
  let hidden := match bankFor s st sector with
    | some b => (bankOf s b).buf.any fun e => e.sector = sector && e.mask = 2 ^ 64 - 1
    | none => false
  !hidden && !decide (pageBase off ∈ (stackOf s st).offline) && decide (physAddr s sector ∈ s.poison)

/-- Records an uncorrectable or a corrected sector read (R341): its count, its ERR_SUMMARY bit and LAST_ECC. -/
def noteUE (s : State) (st off : Nat) : State :=
  let u := unitHS st
  let w : Word := putField (putField (putField 0 63 63 1) 55 48 0xFF) 36 0 (off / 64 * 64)
  setReg (raiseErr (bump s u 0x1D0 63 32 1) u 17) u 0x1B8 w
def noteCE (s : State) (st off symbol : Nat) : State :=
  let u := unitHS st
  let w : Word := putField (putField 0 55 48 symbol) 36 0 (off / 64 * 64)
  setReg (raiseErr (bump s u 0x1D0 31 0 1) u 16) u 0x1B8 w

/-- A bank holds a sector of a stack whole: as a line, or with every byte in its merging buffer. -/
def bankHolds (s : State) (b sector : Nat) : Bool :=
  (bankOf s b).lines.any (fun l => l.addr = sector) || (bankOf s b).buf.any fun e => e.sector = sector && e.mask = 2 ^ 64 - 1

/-- A sector read that the stack controller serves: counted and charged, and recorded when the sector is poisoned (R341,
R354, R374). -/
def sectorServed (s : State) (part st off : Nat) : State :=
  let s1 := charge (bump64 s (unitHS st) 0x1D8 1) st part 1 1
  if poisonedAt s st off then noteUE s1 st off else s1

/-- Reads a piece of a stack sector, with what the read counts and records (R338, R351, R354, R359, R433). The answer's mark
is the poison of R341. -/
def stackRead (s : State) (who : UnitId) (part base k n st off : Nat) : State × List Byte × Bool :=
  let data := viewBytes s (base + k) n
  if !stackNames s st off then (noteUnmapped s who (base + k), zeros n, false)
  else if escrowOwn s (stackAddr st off) then (noteReserved s (stackAddr st off), zeros n, false)
  else
    let sector := stackAddr st off / 64 * 64
    match bankFor s st sector with
    | some b =>
      if bankHolds s b sector then (bump64 s (unitVB b) 0x118 1, data, poisonedAt s st off)
      else (sectorServed (bump64 s (unitVB b) 0x120 1) part st off, data, poisonedAt s st off)
    | none => (sectorServed s part st off, data, poisonedAt s st off)

/-! ### Hot extents -/

/-- The entry of a HOT extent of this device's own that lies over a byte of a stack, with the byte's pool address. -/
def hotEntry (s : State) (st off : Nat) : Option (DirEntry × Nat) :=
  (s.dir.find? fun e =>
    bitOf e.2.w0 63 && bitOf e.2.w0 61 && field e.2.w0 25 16 = deviceId s && field e.2.w1 40 37 = st &&
      within (field e.2.w1 36 26 * 2 ^ 26) (extentBytes e.2) off).map
    fun e => (e.2, extentBase e.2 + (off - field e.2.w1 36 26 * 2 ^ 26))

/-- A write to a HOT extent of this device's own notes its granules for an invalidation round, when the route table names a
device (R408). -/
def noteHot (s : State) (who : UnitId) (st off : Nat) : State :=
  match hotEntry s st off with
  | none => s
  | some (e, pool) =>
    let g := pool / 2 ^ (6 + field e.w0 15 12) * 2 ^ (6 + field e.w0 15 12)
    if (routeDevices s).isEmpty then s
    else if s.rem.rounds.any fun r => r.who = who && !r.sent then
      { s with rem := { s.rem with rounds := s.rem.rounds.map fun r =>
          if r.who = who ∧ r.sent = false ∧ ¬ g ∈ r.granules then { r with granules := r.granules ++ [g] } else r } }
    else { s with rem := { s.rem with rounds := s.rem.rounds ++ [{ who := who, granules := [g] }] } }

/-- The INVAL messages of a round to one device: at most 128 granules each (R408). -/
def invalMessages (dev : Nat) (gs : List Nat) : List Seg :=
  (pieces 128 (ceilDiv gs.length 128) gs).map fun c =>
    { type := 0x15, dest := dev, src := 0, tag := c.headD 0, body := c.flatMap fun g => leBytes 8 g }

/-- Sends what the rounds not yet sent ask for: INVAL to every device the route table names (R408). -/
def flushInvals (s : State) : State :=
  let devs := routeDevices s
  let msgs := (s.rem.rounds.filter fun r => !r.sent).flatMap fun r => devs.flatMap fun d => invalMessages d r.granules
  let s1 := foldOver (fun m t => sendMessage t m) msgs s
  let send (r : InvalRound) : Option InvalRound :=
    if r.sent then some r
    else if devs.isEmpty then none
    else some { r with sent := true, waiting := devs.flatMap fun d => List.replicate (ceilDiv r.granules.length 128) d }
  { s1 with rem := { s1.rem with rounds := s1.rem.rounds.filterMap send } }

/-- A unit whose write still waits for an invalidation round. -/
def roundPending (s : State) (u : UnitId) : Bool := s.rem.rounds.any fun r => r.who = u

/-- A plain write ends the running totals of the elements it touches (R36). -/
def clearWraps (s : State) (a n : Nat) : State := { s with wraps := tblClear s.wraps (a - 3) (n + 3) }

/-- Reads a piece of an access that lies in one sector. -/
def readPiece (s : State) (who : UnitId) (part base k n : Nat) : State × List Byte × Bool :=
  match spotOf s base k with
  | .stack st off =>
    let r := stackRead s who part base k n st off
    if natField base 63 60 = 0 then (countLoad r.1 (base + k) 1, r.2) else r
  | .vault b off =>
    if bankServes s b then (s, viewBytes s (base + k) n, false) else (noteBadMode s who b off false, zeros n, false)
  | .remote _ pool =>
    let r := remoteRead s who pool n
    (countLoad r.1 pool 1, r.2, false)
  | .nowhere => (noteUnmapped s who (base + k), zeros n, false)

/-- Writes a piece of an access that lies in one sector. -/
def writePiece (s : State) (who : UnitId) (part base k : Nat) (data : List Byte) : State :=
  match spotOf s base k with
  | .stack st off =>
    let s0 := if natField base 63 60 = 0 then countLoad s (base + k) 1 else s
    if !stackNames s st off then noteUnmapped s0 who (base + k)
    else if escrowOwn s (stackAddr st off) then noteReserved s0 (stackAddr st off)
    else stackWrite (noteHot s0 who st off) part st off data
  | .vault b off =>
    if bankServes s b then putBytes (clearWraps s (vaultAddr b off) data.length) (vaultAddr b off) data
    else noteBadMode s who b off true
  | .remote _ pool => countLoad (remoteWrite s who pool data) pool 1
  | .nowhere => noteUnmapped s who (base + k)

/-! ### The one read and the one write -/

/-- Reads memory for an engine, the host or a peer: its bytes, with what the read records, and whether a sector was
poisoned. -/
def load (s : State) (who : UnitId) (part base len : Nat) : State × List Byte × Bool :=
  (sectorPieces base len).foldl
    (fun r p =>
      let x := readPiece r.1 who part base p.1 p.2
      (x.1, r.2.1 ++ x.2.1, r.2.2 || x.2.2))
    (s, [], false)

/-- Writes memory for an engine, the host or a peer. -/
def store (s : State) (who : UnitId) (part base : Nat) (data : List Byte) : State :=
  (sectorPieces base data.length).foldl (fun t p => writePiece t who part base p.1 (slice data p.1 p.2)) s

/-- The kind of the fault a poisoned sector is (R449, R450): committed data is lost where its page lies in an escrowed
region and the open epoch has not written it. -/
def poisonKind (s : State) (a : Nat) : Nat :=
  if (regionAt s a).isSome && !(pageBase a ∈ s.esc.working) && !(s.esc.undo.any fun e => e.1 = pageBase a) then 0x80 else 0x03

/-- Reads memory for an engine: a poisoned sector is a detected fault of the stack page (R341, R448). -/
def loadFor (s : State) (who : UnitId) (part base len : Nat) : State × List Byte :=
  let r := load s who part base len
  if r.2.2 then
    match spotOf s base 0 with
    | .stack st off => (reportFault r.1 (unitHS st) (poisonKind s (stackAddr st off)), r.2.1)
    | _ => (r.1, r.2.1)
  else (r.1, r.2.1)

/-- A little-endian number read for an engine. -/
def loadLE (s : State) (who : UnitId) (part base len : Nat) : State × Nat :=
  let r := loadFor s who part base len
  (r.1, ofLE r.2)

/-- The first-write copies that an attempt made before a write of it had to wait for an undo copy (R435). -/
def keepCopies (s t : State) (part : Nat) : State :=
  (t.esc.undo.reverse.filter fun e => !s.esc.undo.contains e).foldl (fun r e => (firstWrite r part e.1).getD r) s

/-- Runs an operation that may have to wait (R30): when an access of it waits, the command leaves everything as it was,
but for the requests that the wait itself sends, and, where a write waits for an undo copy, the copies made until then and
the UNDO_FULL it sets (R437). -/
def orWait (s : State) (f : State → State) : State :=
  let t := f { s with rem := { s.rem with wait := false, full := none } }
  if t.rem.wait then
    let s1 := { s with rem := { s.rem with wanted := t.rem.wanted, wait := false, full := none } }
    match t.rem.full with
    | some x => raiseErr (keepCopies s1 t x.1) (unitES x.2) 16
    | none => s1
  else t

/-! ### Tile-local and host memory -/

/-- Reads a tile's own memory (R20, R336). -/
def tileRead (s : State) (u : UnitId) (off n : Nat) : List Byte := (List.range n).map fun k => rawByte s (tileAddr u (off + k))

/-- Writes a tile's own memory. -/
def tileWrite (s : State) (u : UnitId) (off : Nat) (data : List Byte) : State := putBytes s (tileAddr u off) data

/-- A byte of host memory. -/
def hostByte (s : State) (a : Nat) : Byte := tblGet (fun _ => 0) s.host a

/-- Bytes of host memory. -/
def hostBytes (s : State) (a n : Nat) : List Byte := (List.range n).map fun k => hostByte s (a + k)

/-- Writes host memory. -/
def hostWrite (s : State) (a : Nat) : List Byte → State
  | [] => s
  | b :: bs => hostWrite { s with host := tblSet (fun _ => 0) s.host a b } (a + 1) bs

end Sys2Proof.Machine
end

