-- ==== Sys2Proof/Machine/Replicas.lean ====
section
/-! DEFINITION. Hot-row replicas (R406 to R408): finding, counting, installing and freeing them. -/

namespace Sys2Proof.Machine

open Sys2Proof

/-- Bytes of a replica slot (R406). -/
def slotBytes (s : State) : Nat := 2 ^ (6 + getF s unitPD 0x150 3 0)

/-- The granule of a pool address: its base and its bytes (R400, R406). -/
def granuleOf (e : DirEntry) (pool : Nat) : Nat × Nat :=
  let n := 2 ^ (6 + field e.w0 15 12)
  (pool / n * n, n)

/-- Where a replica's slot lies in this device's own stack. -/
def replicaAddr (s : State) (r : Replica) : Nat := (getReg s unitPD 0x140).toNat + r.slot * slotBytes s

/-- A valid replica that holds a pool address (R407). -/
def replicaOf (s : State) (pool : Nat) : Option Replica :=
  s.rem.replicas.find? fun r => r.valid && within r.addr r.bytes pool

/-- PD REPL_VALID and REPL_FULL follow the table. -/
def setReplicas (s : State) (l : List Replica) : State :=
  let n := (l.filter fun r => r.valid).length
  let s1 := { s with rem := { s.rem with replicas := l } }
  setF (setReg s1 unitPD 0x160 (BitVec.ofNat 64 n)) unitPD 0x18 17 17 (bit (decide (64000 ≤ n)))

/-- A gather read served by a replica counts (R407). -/
def countHit (s : State) (r : Replica) : State :=
  bump64 { s with rem := { s.rem with replicas := s.rem.replicas.map fun x =>
    if x.addr = r.addr then { x with reads := x.reads + 1 } else x } } unitPD 0x170 1

/-- The lowest free slot of the replica area. -/
def freeSlot (s : State) : Option Nat :=
  (List.range (getF s unitPD 0x148 36 0 / slotBytes s)).find? fun n => !s.rem.replicas.any fun r => r.slot = n

/-- Starts an install: a slot is taken and the granule asked for, or the install is refused (R406). -/
def startInstall (s : State) (g : Nat × Nat) : State :=
  if s.rem.replicas.any (fun r => r.addr = g.1) ∨ slotBytes s < g.2 then s
  else
    match freeSlot s with
    | some n =>
      if s.rem.replicas.length < 65536 ∧ (s.rem.replicas.filter fun r => r.valid).length < 64000 then
        let s1 := setReplicas s (s.rem.replicas ++ [⟨g.1, g.2, n, false, 0⟩])
        { s1 with rem := { s1.rem with
            wanted := s1.rem.wanted ++ (List.range (g.2 / 64)).map fun k => (unitPD, g.1 + 64 * k) } }
      else bump64 s unitPD 0x180 1
    | none => bump64 s unitPD 0x180 1

/-- A gather read of a HOT row that goes to its owner counts against its granule; at THRESHOLD an install starts (R406). -/
def countRequest (s : State) (pool : Nat) : State :=
  match dirFind s pool with
  | none => s
  | some (_, e) =>
    if bitOf e.w0 61 && getF s unitPD 0x148 36 0 ≠ 0 then
      let g := granuleOf e pool
      let h := Config.granuleHash g.1 % 262144
      let n := tblGet (fun _ => 0) s.rem.replCounts h + 1
      let s1 := { s with rem := { s.rem with replCounts := tblSet (fun _ => 0) s.rem.replCounts h n } }
      if n = getF s unitPD 0x150 47 32 then startInstall s1 g else s1
    else s

/-- The fetched granule arrives in its slot, and the replica becomes valid (R406). -/
def finishInstall (s : State) (addr : Nat) (data : List Byte) : State :=
  match s.rem.replicas.find? fun r => r.addr = addr && !r.valid with
  | none => s
  | some r =>
    if data.length = r.bytes then
      let s1 := store s unitPD 0 (replicaAddr s r) data
      bump64 (setReplicas s1 (s1.rem.replicas.map fun x => if x.addr = addr then { x with valid := true } else x)) unitPD 0x168 1
    else s

/-- Frees the replicas of a granule (R408). -/
def freeGranule (s : State) (addr : Nat) : State :=
  if s.rem.replicas.any fun r => within r.addr r.bytes addr then
    bump64 (setReplicas s (s.rem.replicas.filter fun r => !within r.addr r.bytes addr)) unitPD 0x178 1
  else s

/-- Frees every replica (R408, REPL_CMD FLUSH). -/
def flushReplicas (s : State) : State := setReplicas s []

/-- What a commit does (R406): counters return to 0, and replicas that served fewer than KEEP reads are freed. -/
def commitReplicas (s : State) : State :=
  let keep := getF s unitPD 0x150 15 8
  let l := (s.rem.replicas.filter fun r => !r.valid || decide (keep ≤ r.reads)).map fun r => { r with reads := 0 }
  let s1 := setReplicas s l
  { s1 with rem := { s1.rem with replCounts := [] } }

end Sys2Proof.Machine
end

