-- ==== Sys2Proof/Machine/Directory.lean ====
section
/-! DEFINITION. The pool directory's commands (R400 to R402, R404, R425): reading, writing and staging entries, and what a
commit does with staged changes and load counters. -/

namespace Sys2Proof.Machine

open Sys2Proof

/-- An entry of the directory. -/
def dirEntry (s : State) (i : Nat) : DirEntry := tblGet (fun _ => {}) s.dir i

/-- Writes the two words of an entry; its load counters stay. -/
def setDirWords (s : State) (i : Nat) (w0 w1 : Word) : State :=
  { s with dir := tblSet (fun _ => {}) s.dir i { dirEntry s i with w0 := w0, w1 := w1 } }

/-- Two extents overlap. -/
def overlaps (a b : DirEntry) : Bool :=
  decide (extentBase a < extentBase b + extentBytes b ∧ extentBase b < extentBase a + extentBytes a)

/-- A change would make two valid entries overlap (R401). -/
def wouldOverlap (s : State) (i : Nat) (w0 w1 : Word) : Bool :=
  bitOf w0 63 && s.dir.any fun e => e.1 ≠ i && bitOf e.2.w0 63 && overlaps e.2 { w0 := w0, w1 := w1 }

/-- RANGE of R402. -/
def entryRange (s : State) (w0 w1 : Word) : Bool :=
  let own := field w0 25 16 = deviceId s
  field w0 60 56 ≠ 0 || field w0 51 50 ≠ 0 || field w0 11 0 ≠ 0 || decide (6 < field w0 55 52) || decide (8 < field w0 15 12) ||
    (own && (field w1 63 41 ≠ 0 || field w1 25 0 ≠ 0 || decide (12 ≤ field w1 40 37) || !present s (unitHS (field w1 40 37)) ||
      decide (stackBytes < field w1 36 26 * 2 ^ 26 + 2 ^ (26 + field w0 55 52))))

/-- ALIGN of R402. -/
def entryAlign (s : State) (w0 w1 : Word) : Bool :=
  let n := 2 ^ (26 + field w0 55 52)
  field w0 49 26 * 2 ^ 26 % n ≠ 0 || (field w0 25 16 = deviceId s && field w1 36 26 * 2 ^ 26 % n ≠ 0)

/-- The RESULT of a WRITE or STAGE, by the order of R402; a change with VALID 0 has only BUSY and STAGE_FULL. -/
def entryResult (s : State) (stage : Bool) (i : Nat) (w0 w1 : Word) : Nat :=
  let v := bitOf w0 63
  if stage = false ∧ openEpoch s ≠ 0 ∧ bitOf (dirEntry s i).w0 63 = true then 4
  else if v && entryRange s w0 w1 then 3
  else if v && entryAlign s w0 w1 then 2
  else if stage = false ∧ wouldOverlap s i w0 w1 = true then 1
  else if stage = true ∧ 4096 ≤ s.fab.staged.length then 5
  else 0

/-- A command completes: DONE and RESULT (R402). -/
def entryDone (s : State) (result : Nat) : State :=
  setReg s unitPD 0x120 (putField (putField 0 63 63 1) 11 8 result)

/-- STAGED and STAGED_COUNT follow the queue of staged changes. -/
def setStaged (s : State) (l : List (Nat × Word × Word)) : State :=
  setF (setReg { s with fab := { s.fab with staged := l } } unitPD 0x188 (BitVec.ofNat 64 l.length)) unitPD 0x18 16 16 (bit (!l.isEmpty))

/-- ENTRY_IDX and the two words software has written. -/
def entryIdx (s : State) : Nat := getF s unitPD 0x108 17 0

/-- READ (R402, R404). -/
def entryRead (s : State) : State :=
  let e := dirEntry s (entryIdx s)
  let s1 := setReg (setReg s unitPD 0x110 e.w0) unitPD 0x118 e.w1
  entryDone (setReg s1 unitPD 0x128 (putField (putField 0 63 32 e.last) 31 0 e.cur)) 0

/-- WRITE (R402). -/
def entryWrite (s : State) : State :=
  let w0 := getReg s unitPD 0x110
  let w1 := getReg s unitPD 0x118
  let r := entryResult s false (entryIdx s) w0 w1
  entryDone (if r = 0 then setDirWords s (entryIdx s) w0 w1 else s) r

/-- STAGE (R402). -/
def entryStage (s : State) : State :=
  let w0 := getReg s unitPD 0x110
  let w1 := getReg s unitPD 0x118
  let r := entryResult s true (entryIdx s) w0 w1
  entryDone (if r = 0 then setStaged s (s.fab.staged ++ [(entryIdx s, w0, w1)]) else s) r

/-- A write of PD ENTRY_CMD (R402). -/
def entryCommand (s : State) (op : Nat) : State :=
  match op with
  | 1 => entryRead s
  | 2 => entryWrite s
  | 3 => entryStage s
  | 4 => entryDone (setStaged s []) 0
  | _ => entryDone s 3

/-- Applies one staged change at a commit: one that would create an overlap is dropped, with STAGE_FAIL (R402). -/
def applyStaged (c : Nat × Word × Word) (s : State) : State :=
  if wouldOverlap s c.1 c.2.1 c.2.2 then raiseErr s unitPD 18 else setDirWords s c.1 c.2.1 c.2.2

/-- What a commit does to the directory (R402, R404): staged changes in order, then the load counters roll. -/
def commitDirectory (s : State) : State :=
  let s1 := setStaged (foldOver applyStaged s.fab.staged s) []
  let roll (e : Nat × DirEntry) (t : Table DirEntry) : Table DirEntry :=
    tblSet (fun _ => {}) t e.1 { e.2 with last := e.2.cur, cur := 0 }
  { s1 with dir := foldOver roll s1.dir s1.dir }

/-! ### Meanings -/

/-- READ (R402). -/
def execRead (s : State) : Host.Outcome State Fault Refusal := .next (if commandable s unitPD then entryCommand s 1 else s)

/-- WRITE (R402). -/
def execWrite (s : State) : Host.Outcome State Fault Refusal := .next (if commandable s unitPD then entryCommand s 2 else s)

/-- STAGE (R402). -/
def execStage (s : State) : Host.Outcome State Fault Refusal := .next (if commandable s unitPD then entryCommand s 3 else s)

/-- DISCARD_STAGED (R402). -/
def execDiscardStaged (s : State) : Host.Outcome State Fault Refusal :=
  .next (if commandable s unitPD then entryCommand s 4 else s)

/-- UNDEFINED_ENTRY_OP (R402): an OP of 0, 5, 6 or 7. -/
def execUndefinedEntryOp (op : Nat) (s : State) : Host.Outcome State Fault Refusal :=
  .next (if commandable s unitPD && [0, 5, 6, 7].contains (op % 8) then entryCommand s (op % 8) else s)

/-- FLUSH (R425): frees every replica. -/
def execFlush (s : State) : Host.Outcome State Fault Refusal := .next (if commandable s unitPD then flushReplicas s else s)

/-- REPLICA_INSTALL (R406): an install whose granule has arrived whole becomes a valid replica; one whose granule its owner
does not hold ends. -/
def replicaInstall (s : State) : State :=
  let lines (r : Replica) : List Nat := (List.range (r.bytes / 64)).map fun k => r.addr + 64 * k
  let here (a : Nat) : Bool := s.rem.got.any fun g => g.1 = unitPD && g.2.1 = a
  let gone (a : Nat) : Bool := decide ((unitPD, a) ∈ s.rem.missing)
  match s.rem.replicas.find? fun r => !r.valid && (lines r).all fun a => here a || gone a with
  | none => s
  | some r =>
    let ls := lines r
    let data := ls.flatMap fun a => ((s.rem.got.find? fun g => g.1 = unitPD && g.2.1 = a).map fun g => g.2.2).getD []
    let s1 := { s with rem := { s.rem with
      got := s.rem.got.filter (fun g => !(g.1 = unitPD && ls.contains g.2.1))
      missing := s.rem.missing.filter fun g => !(g.1 = unitPD && ls.contains g.2) } }
    if ls.any gone then setReplicas s1 (s1.rem.replicas.filter fun x => x.addr ≠ r.addr) else finishInstall s1 r.addr data

/-- REPLICA_INSTALL (R406). -/
def execReplicaInstall (s : State) : Host.Outcome State Fault Refusal := .next (orWait s replicaInstall)

end Sys2Proof.Machine
end

