-- ==== Sys2Proof/Machine/Operands.lean ====
section
/-! DEFINITION. Operands of a task: the fields of the 128-byte descriptor's common header (R298), and how a class's own
fields are read and checked. -/

namespace Sys2Proof.Machine

open Sys2Proof

/-! ### Common header (R298) -/

def dTaskId (d : List Byte) : Nat := leAt d 0 4
def dClass (d : List Byte) : Nat := leAt d 4 1
def dPriority (d : List Byte) : Nat := leAt d 5 1 % 8
def dFlowEn (d : List Byte) : Bool := (leAt d 5 1).testBit 3
def dDelayEn (d : List Byte) : Bool := (leAt d 5 1).testBit 4
def dDeadlineEn (d : List Byte) : Bool := (leAt d 5 1).testBit 5
def dQuiet (d : List Byte) : Bool := (leAt d 5 1).testBit 6
def dRunOnFail (d : List Byte) : Bool := (leAt d 5 1).testBit 7
def dFlow (d : List Byte) : Nat := natField (leAt d 6 2) 9 0
def dDlist (d : List Byte) : Nat := natField (leAt d 6 2) 11 10
def dQuarter (d : List Byte) : Nat := natField (leAt d 6 2) 13 12
def dContext (d : List Byte) : Nat := natField (leAt d 8 2) 11 0
def dNpred (d : List Byte) : Nat := leAt d 10 1 % 4
def dPol (d : List Byte) (k : Nat) : Bool := (leAt d 10 1).testBit (2 + k)
def dEngine (d : List Byte) : Nat := leAt d 11 1
def dPred (d : List Byte) (k : Nat) : Nat := leAt d (12 + 4 * k) 4
def dDeadline (d : List Byte) : Nat := leAt d 20 4
def dRelease (d : List Byte) : Nat := leAt d 24 8
def dOp (d : List Byte) : Nat := leAt d 32 1

/-- Reserved bits of the header are 0 (R298). -/
def dReservedOk (d : List Byte) : Bool :=
  leAt d 6 2 / 2 ^ 14 = 0 && leAt d 8 2 / 2 ^ 12 = 0 && leAt d 10 1 / 16 = 0

/-- A ledger-class task (R311). -/
def dLedgerClass (d : List Byte) : Bool := dClass d = 9

/-- A TABLE_SWITCH task (R188). -/
def dTableSwitch (d : List Byte) : Bool := dClass d = 2 && dOp d = 0x10

/-- A task that names a table (R190): GATHER, POOL_SUM, POOL_MEAN, UNIQUE and SCATTER. -/
def dNamesTable (d : List Byte) : Bool := dClass d = 2 && [1, 2, 3, 5, 6].contains (dOp d)

/-- A matrix task with DEST VECTOR, or a vector task with ACC_EN, which must name its engine (R301). -/
def dNeedsEngine (d : List Byte) : Bool :=
  (dClass d = 1 && dOp d = 1 && natField (leAt d 36 1) 3 2 = 2) ||
    (dClass d = 3 && dOp d = 1 && (leAt d 33 1).testBit 0)

/-! ### Descriptor faults (R562) -/

/-- A fault a descriptor check finds: a status code and a detail. -/
structure DescFault where
  status : Nat
  detail : Nat
  deriving DecidableEq, Repr

/-- A fault when a condition holds. -/
def faultIf (c : Bool) (status detail : Nat) : List DescFault := if c then [⟨status, detail⟩] else []

/-- The one fault a task reports (R562): the lowest status, then the lowest detail. An undefined OP is reported alone by
the checks themselves. -/
def chooseFault (l : List DescFault) : Option DescFault := leastBy (fun f => f.status * 2 ^ 16 + f.detail) l

/-- A tile-local address that names the tile running the task: the short form or its own full form (R336). -/
def ownTile (u : UnitId) (a : Nat) : Bool :=
  natField a 63 60 = 3 && natField a 59 48 = 0 && natField a 27 22 = 0 &&
    ((natField a 47 40 = 0 && natField a 39 36 = 0 && natField a 35 28 = 0) ||
      (natField a 47 40 = u.ty && natField a 39 36 = u.q && natField a 35 28 = u.i))

/-- A tile-local address of any tile. -/
def isTileForm (a : Nat) : Bool := natField a 63 60 = 3

/-- A vault-form address in a bank that serves as scratchpad, with its whole window inside the bank (R358). -/
def inScratchpad (s : State) (a n : Nat) : Bool :=
  natField a 63 60 = 2 && natField a 59 31 = 0 && bankServes s (natField a 30 27) && decide (natField a 26 0 + n ≤ bankBytes)

/-- A reserved byte range that is not all zero. -/
def reservedSet (d : List Byte) (lo hi : Nat) : Bool := leAt d lo (hi + 1 - lo) ≠ 0

/-! ### Reads and writes of a running engine -/

/-- An engine reads bytes its task names: its own tile for a tile-local address it accepts, else memory (R336). -/
def engineLoad (s : State) (u : UnitId) (part a n : Nat) : State × List Byte :=
  if ownTile u a then (s, tileRead s u (natField a 21 0) n) else loadFor s u part a n

/-- An engine writes bytes its task names. -/
def engineStore (s : State) (u : UnitId) (part a : Nat) (data : List Byte) : State :=
  if ownTile u a then tileWrite s u (natField a 21 0) data else store s u part a data

end Sys2Proof.Machine
end

