-- ==== Sys2Proof/Machine/Ledger.lean ====
section
/-! DEFINITION. The ledgers (R297 to R330): names, admission with its checks and its holds, the admission log, edges and
outcomes, readiness, dispatch into tills, flow release, delay lists, deadlines, contexts, the table registry, and
completion records. The ledger-class tasks a control core evaluates are in Control.lean. -/

namespace Sys2Proof.Machine

open Sys2Proof

/-! ### Tasks and names -/

/-- An admitted task by its ADMIT_SEQ. -/
def taskOf (s : State) (seq : Nat) : Option Task := s.led.tasks.find? fun t => t.seq = seq

/-- Replaces a task. -/
def setTask (s : State) (t : Task) : State :=
  { s with led := { s.led with tasks := s.led.tasks.map fun x => if x.seq = t.seq then t else x } }

/-- The quarter whose ledger dispatches a task (R298). -/
def quarterOf (t : Task) : Nat := dQuarter t.desc

/-- A device contains itself in recovery and in a domain fault: PHASE 4 and 5 (R453, R459). -/
def contained (s : State) : Bool := decide (4 ≤ phase s)

/-- Descriptors admitted now belong to the next epoch: the open one has reached its close instant (R444). -/
def afterCut (s : State) : Bool := openEpoch s ≠ 0 && s.esc.cutDone

/-- The epoch a descriptor admitted now belongs to. -/
def admitEpoch (s : State) : Nat :=
  if afterCut s then (if getF s unitEX 0x110 0 0 = 0 then 0 else openEpoch s + 1) else openEpoch s

/-- The owner of a name in the epoch of an admission: an ADMIT_SEQ, or 0 for a refused descriptor. -/
def nameOwner (s : State) (next : Bool) (id : Nat) : Option Nat :=
  (s.led.names.find? fun n => n.id = id && n.next = next).map fun n => n.owner

/-- Takes a name; a refused descriptor's with its status. -/
def takeName (s : State) (id owner : Nat) (next : Bool) (status : Nat := 0) : State :=
  { s with led := { s.led with names := s.led.names ++ [⟨id, owner, next, status⟩] } }

/-! ### Completion records (R326, R327) -/

/-- The OUTCOME byte's code. -/
def verdictCode (v : Verdict) : Nat :=
  match v with
  | .ok => 0 | .failed => 1 | .skipped => 2 | .expired => 3

/-- A TASK record. -/
def taskRecord (d : List Byte) (e : Ending) (epoch : Nat) : List Byte :=
  leBytes 4 (dTaskId d) ++ leBytes 1 1 ++
    leBytes 1 (verdictCode e.verdict + 4 * bit e.atWidest + 8 * bit e.condTrue + 16 * bit e.noValue) ++
    leBytes 1 e.status ++ leBytes 1 e.detail ++ leBytes 1 (e.flags % 64) ++ leBytes 1 (dClass d) ++
    leBytes 1 (dQuarter d) ++ leBytes 1 e.engine ++ leBytes 6 epoch ++ leBytes 2 (dContext d) ++ leBytes 4 0 ++
    leBytes 8 e.time

/-- Hands a record to its ring's completion buffer. -/
def queueRecord (s : State) (q ring : Nat) (bytes : List Byte) : State :=
  { s with led := { s.led with records := s.led.records ++ [⟨q, ring, bytes⟩] } }

/-- The completion buffer of a quarter holds 256 completions (R328). -/
def bufferFull (s : State) (q : Nat) : Bool := decide (256 ≤ (s.led.records.filter fun r => r.q = q).length)

/-! ### The table registry (R187 to R191) -/

/-- A registry entry. -/
def tblEntry (s : State) (n : Nat) : TblEntry := tblGet (fun _ => {}) s.led.tables n

/-- Writes it. -/
def setTblEntry (s : State) (n : Nat) (e : TblEntry) : State :=
  { s with led := { s.led with tables := tblSet (fun _ => {}) s.led.tables n e } }

/-- Changes the reference count of one version of a table. -/
def changeRefs (e : TblEntry) (version : Nat) (f : Nat → Nat) : TblEntry :=
  let g (v : TblVersion) : TblVersion := if v.version = version then { v with refs := f v.refs } else v
  { current := e.current.map g, draining := e.draining.map g }

/-- Pins the current version of the table a task names (R190): the version's reference count rises. -/
def pinTable (s : State) (t : Task) : State × Task :=
  let n := leAt t.desc 36 2
  if dNamesTable t.desc = true ∧ n < 1024 then
    match (tblEntry s n).current with
    | some v => (setTblEntry s n (changeRefs (tblEntry s n) v.version (· + 1)), { t with pin := some (n, v.version) })
    | none => (s, t)
  else (s, t)

/-- A task names a table that has no current version (R190). -/
def tableMissing (s : State) (d : List Byte) : Bool :=
  dNamesTable d && decide (leAt d 36 2 < 1024) && (tblEntry s (leAt d 36 2)).current.isNone

/-- A task that ends releases its reference (R190). -/
def unpinTable (s : State) (t : Task) : State :=
  match t.pin with
  | some (n, v) => setTblEntry s n (changeRefs (tblEntry s n) v (· - 1))
  | none => s

/-- The pinned version itself. -/
def pinnedVersion (s : State) (t : Task) : Option TblVersion :=
  match t.pin with
  | some (n, v) =>
    let e := tblEntry s n
    (e.current.toList ++ e.draining).find? fun x => x.version = v
  | none => none

/-- The checks of a TABLE_SWITCH in the order R189 lists them: status and detail of the first that fails. -/
def switchRefusal (s : State) (d : List Byte) : Option DescFault :=
  let flags := leAt d 34 1
  let remove := flags.testBit 1
  let dflt := leAt d 56 8
  let table := leAt d 36 2
  let e := tblEntry s table
  let checks : List DescFault :=
    faultIf (decide (1023 < table)) 0x07 36 ++
    (if remove then
      faultIf e.current.isNone 0x0A 36 ++ faultIf (decide (3 ≤ e.draining.length)) 0x0C 38
    else
      faultIf (leAt d 40 4 = 0) 0x07 40 ++
      faultIf (decide (leAt d 44 4 < 64 ∨ 16384 < leAt d 44 4)) 0x07 44 ++
      faultIf (leAt d 44 4 % 64 ≠ 0) 0x04 44 ++ faultIf (leAt d 48 8 % 64 ≠ 0) 0x04 48 ++
      faultIf (!flags.testBit 0 && dflt % 64 ≠ 0) 0x04 56 ++
      faultIf (decide (2 ^ 50 < leAt d 48 8 + leAt d 40 4 * leAt d 44 4)) 0x0D 48 ++
      faultIf ((e.current.isSome && decide (3 ≤ e.draining.length)) ||
        (e.current.toList ++ e.draining).any fun v => v.version = leAt d 38 2) 0x0C 38)
  checks.head?

/-- The version a TABLE_SWITCH installs. -/
def newVersion (d : List Byte) : TblVersion :=
  { version := leAt d 38 2, base := leAt d 48 8, rows := leAt d 40 4, rowBytes := leAt d 44 4, rowFmt := leAt d 33 1
    default := if (leAt d 34 1).testBit 0 then none else some (leAt d 56 8) }

/-- Applies a TABLE_SWITCH that passed its checks: the current version becomes draining, the new one current; with REMOVE
none becomes current (R189). -/
def applySwitch (s : State) (d : List Byte) (ring : Nat) : State :=
  let n := leAt d 36 2
  let e := tblEntry s n
  let out := e.draining ++ e.current.toList.map fun v => { v with ring := ring, q := dQuarter d }
  setTblEntry s n { current := if (leAt d 34 1).testBit 1 then none else some (newVersion d), draining := out }

/-- A draining version whose references have all gone leaves the registry, and its TABLE_DRAINED record goes to the ring
of the switch that made it draining (R191). No record is written while the device is contained (R192). -/
def tableDrained (s : State) (n version : Nat) : State :=
  let e := tblEntry s n
  if contained s then s
  else
    match e.draining.find? fun v => v.version = version && v.refs = 0 with
    | none => s
    | some v =>
      let s1 := setTblEntry s n { e with draining := e.draining.filter fun x => x.version ≠ version }
      queueRecord s1 v.q v.ring
        (leBytes 4 0 ++ leBytes 1 3 ++ zeros 4 ++ leBytes 1 2 ++ leBytes 1 v.q ++ leBytes 1 0xFF ++
          leBytes 6 (openEpoch s) ++ leBytes 2 n ++ leBytes 2 version ++ zeros 2 ++ leBytes 8 (now s))

/-! ### Contexts (R322, R323) -/

/-- Entry 0 as reset defines it, and no other entry (R322). -/
def ctxDefault (n : Nat) : Option Ctx := if n = 0 then some {} else none

/-- A context's entry, if defined. -/
def ctxOf (s : State) (n : Nat) : Option Ctx := tblGet ctxDefault s.led.ctxs n

/-- The out-of-range tests of a CTX_SET body (R322, R323). -/
def ctxBodyBad (d : List Byte) : Bool :=
  let flags := leAt d 33 1
  let target := leAt d 36 2
  let len := leAt d 48 4
  let dst := leAt d 52 4
  if flags.testBit 0 then target = 0 || decide (4095 < target)
  else
    decide (4 ≤ flags) || decide (15 < leAt d 34 1) || decide (7 < leAt d 35 1) || decide (4095 < target) ||
      decide (leAt d 38 2 < 1 ∨ 16384 < leAt d 38 2) ||
      (flags.testBit 1 && (leAt d 40 8 % 64 ≠ 0 || len % 64 ≠ 0 || dst % 64 ≠ 0 || decide (len < 64 ∨ 1048576 < len) ||
        decide (0x180000 < dst + len)))

/-- The entry a CTX_SET defines. -/
def newCtx (d : List Byte) : Ctx :=
  { part := leAt d 34 1 % 16, prioMax := leAt d 35 1 % 8, quota := leAt d 38 2
    pin := if (leAt d 33 1).testBit 1 then some ⟨leAt d 40 8, leAt d 48 4, leAt d 52 4⟩ else none }

/-- Applies a CTX_SET of a task whose ADMIT_SEQ is `seq`: its status (R323). -/
def applyCtxSet (s : State) (seq : Nat) (d : List Byte) : State × Nat :=
  let target := leAt d 36 2
  let put (v : Option Ctx) : State := { s with led := { s.led with ctxs := tblSet ctxDefault s.led.ctxs target v } }
  if (leAt d 33 1).testBit 0 then
    if (ctxOf s target).isNone then (s, 0xF6)
    else if s.led.tasks.any fun t => t.seq ≠ seq && t.ending.isNone && dContext t.desc = target then (s, 0xF8)
    else (put none, 0)
  else (put (some (newCtx d)), 0)

/-! ### The admission log (R302) -/

/-- Entries a quarter's log holds. -/
def logCount (s : State) (q : Nat) : Nat := (s.led.log.filter fun e => e.q = q).length

/-- Entries a quarter's log has room for. -/
def logRoom (s : State) (q : Nat) : Nat := getF s (unitLG q) 0x130 49 0 / 256

/-- The 256 bytes of a log entry. -/
def logBytes (e : LogEntry) : List Byte :=
  e.desc ++ leBytes 6 e.seq ++ leBytes 6 e.epoch ++ leBytes 2 e.ring ++ zeros 114

/-- Appends an entry to its quarter's log, at LG LOG_BASE in the stack that names; LOG_HIGH sets and an early close is asked
for when the log is seven eighths full (R302, R331, R443). An entry of a commit that finds the log full is kept for the
replay without a place in memory, and sets LOG_FULL. -/
def appendLog (s : State) (e : LogEntry) : State :=
  let u := unitLG e.q
  let addr := 2 ^ 60 + getF s u 0x128 40 0 + 256 * logCount s e.q
  let s1 := if logCount s e.q < logRoom s e.q then store s u 0 addr (logBytes e) else raiseErr s u 16
  let s2 := { s1 with led := { s1.led with log := s1.led.log ++ [e] } }
  if 7 * getF s2 u 0x130 49 0 ≤ 8 * (256 * logCount s2 e.q) then requestClose (setF s2 u 0x18 16 16 1) else s2

/-- Empties every log (R444 step 6). -/
def emptyLogs (s : State) : State :=
  let s1 := { s with led := { s.led with log := [] } }
  foldOver (fun q t => setF t (unitLG q) 0x18 16 16 0) (List.range 4) s1

/-- The log entry of a task in an epoch. -/
def entryOf (t : Task) (epoch : Nat) : LogEntry :=
  ⟨quarterOf t, t.seq, epoch, t.ring, t.tAdmit, t.desc0, t.pin, t.carried, t.ctx⟩

/-! ### Edges and outcomes (R303, R304, R312) -/

/-- The state of an edge. -/
inductive EdgeState where
  | satisfied | unsatisfiable | pending
  deriving DecidableEq, Repr

/-- Tasks admitted earlier in the same flow (R309). -/
def earlierInFlow (s : State) (t : Task) : List Task :=
  s.led.tasks.filter fun x => dFlowEn x.desc && dFlowEn t.desc && quarterOf x = quarterOf t &&
    dFlow x.desc = dFlow t.desc && decide (x.seq < t.seq)

/-- A predecessor's outcome is visible once it is released; to a task of its own retry scope, once it has ended in the
present attempt and its flow has (R309, R316). -/
def outcomeVisible (s : State) (t p : Task) : Bool :=
  p.released ||
    (p.ending.isSome && p.scope.isSome && p.scope = t.scope &&
      (earlierInFlow s p).all fun x => x.released || (x.scope = p.scope && x.ending.isSome))

/-- One edge, read against its predecessor's outcome (R303). -/
def edgeState (s : State) (t : Task) (e : Edge) : EdgeState :=
  let onFail := if dRunOnFail t.desc then EdgeState.satisfied else EdgeState.unsatisfiable
  if e.pred = 0 then onFail
  else
    match taskOf s e.pred with
    | none => .satisfied
    | some p =>
      match p.ending with
      | none => .pending
      | some x =>
        if !outcomeVisible s t p then .pending
        else
          match x.verdict with
          | .skipped => .unsatisfiable
          | .failed => onFail
          | .expired => onFail
          | .ok =>
            if dLedgerClass p.desc && dOp p.desc = 2 then
              if x.condTrue != e.pol then .satisfied else .unsatisfiable
            else .satisfied

/-- A JOIN task, and one in ANY mode (R312). -/
def isJoin (t : Task) : Bool := dLedgerClass t.desc && dOp t.desc = 1
def joinAny (t : Task) : Bool := isJoin t && (leAt t.desc 33 1).testBit 0

/-- Some edge can no longer be satisfied. -/
def anyUnsat (s : State) (t : Task) : Bool := t.edges.any fun e => edgeState s t e = .unsatisfiable

/-- Every edge is satisfied. -/
def allSat (s : State) (t : Task) : Bool := t.edges.all fun e => edgeState s t e = .satisfied

/-- Every edge is decided one way or the other. -/
def allDecided (s : State) (t : Task) : Bool := t.edges.all fun e => edgeState s t e ≠ .pending

/-- Counts an outcome in LG OUTCOMES (R332). -/
def countOutcome (s : State) (q : Nat) (v : Verdict) : State :=
  match v with
  | .ok => s
  | .failed => bump s (unitLG q) 0x148 31 0 1
  | .skipped => bump s (unitLG q) 0x148 47 32 1
  | .expired => bump s (unitLG q) 0x148 63 48 1

/-- A task ends (R299): its outcome is recorded, its table reference released, its delay list left. -/
def endTask (s : State) (t : Task) (e : Ending) : State :=
  let s1 := unpinTable s t
  let s2 := setTask s1 { t with ending := some { e with time := now s }, place := .ended, delay := none, pin := none }
  countOutcome s2 (quarterOf t) e.verdict

/-- A task ends with a ledger status. -/
def endWith (s : State) (t : Task) (v : Verdict) (status : Nat) : State := endTask s t { verdict := v, status := status }

/-! ### Engines that can take a task (R306) -/

/-- Engines that could ever take a task: of its class and quarter, present, not retired, and the one it names. -/
def candidates (s : State) (d : List Byte) : List UnitId :=
  ((List.range (perQuarter (dClass d))).map fun i => (⟨dClass d, dQuarter d, i⟩ : UnitId)).filter fun u =>
    present s u && !retired s u && (dEngine d = 0xFF || dEngine d = u.i)

/-- What an engine holds beside its registers. -/
def engOf (s : State) (u : UnitId) : Engine := tblGet (fun _ => {}) s.eng (pageOf u)

/-- Writes it, with STATUS TILLS of the page. -/
def setEng (s : State) (u : UnitId) (e : Engine) : State :=
  setF { s with eng := tblSet (fun _ => {}) s.eng (pageOf u) e } u 0x18 17 16 e.tills.length

/-- An engine can take a task now: enabled, no check or reset in progress, and a till is free (R306, R308). -/
def canTake (s : State) (u : UnitId) : Bool :=
  usable s u && !assayBusy s u && decide ((engOf s u).tills.length < 2)

/-! ### Settling: skips, readiness and release -/

/-- A ledger-class task. -/
def isLedgerTask (t : Task) : Bool := dLedgerClass t.desc

/-- One look at one task (R304, R306): it is skipped when an edge cannot be satisfied; an engine task whose edges and delay
are done becomes ready, or ends NO_ENGINE when no engine is left for it. Tasks held for the next epoch and carried ones
do not become ready before it opens (R330, R444). -/
def settleTask (clock : Nat) (t0 : Task) (s : State) : State :=
  match taskOf s t0.seq with
  | none => s
  | some t =>
    if t.ending.isSome then s
    else
      match t.place with
      | .till _ _ => s
      | .ended => s
      | _ =>
        if anyUnsat s t ∧ joinAny t = false then endWith s t .skipped 0xF0
        else if isLedgerTask t then s
        else if allSat s t ∧ t.delay = none ∧ t.cut = false ∧ (t.carried = false ∨ s.esc.cutDone = false) then
          if (candidates s t.desc).isEmpty then endWith s t .failed 0xF2
          else
            match t.place with
            | .ready _ => s
            | _ => setTask s { t with place := .ready clock }
        else s

/-- A task that has ended may be released: its retry scope has ended, and its flow allows it (R309, R316). -/
def releasable (s : State) (t : Task) : Bool :=
  t.ending.isSome && !t.released &&
    (match t.scope with
      | some r => ((taskOf s r).map fun x => x.ending.isSome).getD true
      | none => true) &&
    (earlierInFlow s t).all fun x => x.released

/-- Releases a task: its outcome becomes visible and its record is written, unless QUIET suppresses it (R309, R327). -/
def releaseTask (t0 : Task) (s : State) : State :=
  match taskOf s t0.seq with
  | none => s
  | some t =>
    match t.ending with
    | none => s
    | some e =>
      if releasable s t then
        let s1 := setTask s { t with released := true }
        if dQuiet t.desc = true ∧ e.verdict = .ok then s1
        else queueRecord s1 (quarterOf t) t.ring (taskRecord t.desc e (if t.cut || (t.carried && s.esc.cutDone) then admitEpoch s else openEpoch s))
      else s

/-- One pass over every task, in admission order. -/
def settlePass (clock : Nat) (s : State) : State :=
  foldOver releaseTask s.led.tasks (foldOver (settleTask clock) s.led.tasks s)

/-- Settles the ledgers after a change: as many passes as there are tasks, so that a chain of skips or releases runs to
its end, all at one instant (R304, R307, R309). A contained device settles nothing (R453). -/
def settle (s : State) : State :=
  if contained s then s
  else
    let clock := s.led.readyClock + 1
    iter (fun _ t => settlePass clock t) (s.led.tasks.length + 1) { s with led := { s.led with readyClock := clock } }

/-! ### Admission (R300, R301, R328) -/

/-- Predecessor names of a descriptor with their polarities: the header's, and a JOIN's further ones (R298, R312). -/
def predNames (d : List Byte) : List (Bool × Nat) :=
  ((List.range (dNpred d)).map fun k => (dPol d k, dPred d k)) ++
    (if dLedgerClass d && dOp d = 1 then (List.range (leAt d 34 1)).map fun k => (false, leAt d (40 + 4 * k) 4) else [])

/-- The edges of a descriptor admitted now: names not taken in its epoch are satisfied and give none (R303). -/
def edgesOf (s : State) (next : Bool) (d : List Byte) : List Edge :=
  (predNames d).filterMap fun p => (nameOwner s next p.2).map fun o => ⟨p.1, o⟩

/-- A polarity bit is set for a name that a task which is not a COND task took (R301). -/
def polRefused (s : State) (next : Bool) (d : List Byte) : Bool :=
  (List.range (dNpred d)).any fun k => dPol d k &&
    match nameOwner s next (dPred d k) with
    | some o => o ≠ 0 && ((taskOf s o).map fun p => !(dLedgerClass p.desc && dOp p.desc = 2)).getD false
    | none => false

/-- A ledger-class body that R311, R312, R313 or R323 refuses. -/
def ledgerBodyBad (d : List Byte) : Bool :=
  match dOp d with
  | 1 => decide (22 < leAt d 34 1)
  | 2 => dNpred d = 0 || decide (7 < leAt d 33 1) || decide (7 < leAt d 34 1) || decide (2 < leAt d 35 1) ||
      (leAt d 33 1 = 0 && decide (15 < leAt d 36 1))
  | 3 => false
  | 4 => ctxBodyBad d
  | 5 => false
  | _ => true

/-- HEADER of R301. -/
def headerBad (s : State) (next : Bool) (d : List Byte) : Bool :=
  decide (dClass d < 1 ∨ 9 < dClass d) || !dReservedOk d || dNpred d = 3 || (dDeadlineEn d && dDeadline d = 0) ||
    (dLedgerClass d && dEngine d ≠ 0xFF) || polRefused s next d || (dLedgerClass d && ledgerBodyBad d)

/-- The tasks a RETRY's scope would hold: the last ones admitted from its ring in its epoch, latest first (R315). -/
def scopeTasks (s : State) (next : Bool) (ring count : Nat) : List Task :=
  ((s.led.tasks.filter fun t => t.ring = ring && t.cut = next && !t.carried).reverse).take count

/-- SCOPE of R301 and R315. -/
def scopeBad (s : State) (next : Bool) (ring : Nat) (d : List Byte) : Bool :=
  let n := leAt d 38 2
  let slots := leAt d 34 1
  let tasks := scopeTasks s next ring n
  dNpred d ≠ 0 || decide (1 < leAt d 33 1) || decide (n < 1 ∨ 256 < n) || decide (slots < 1 ∨ 8 < slots) ||
    ((List.range slots).any fun k => leAt d (48 + 2 * k) 2 = 0) || decide (tasks.length < n) ||
    tasks.any fun t => quarterOf t ≠ dQuarter d

/-- The first check of R301 that fails, in its order. -/
def refusal (s : State) (ring : Nat) (d : List Byte) : Option Nat :=
  let next := afterCut s
  if headerBad s next d then some 0xF3
  else if dTaskId d = 0 ∨ (nameOwner s next (dTaskId d)).isSome then some 0xF4
  else if (ctxOf s (dContext d)).isNone then some 0xF6
  else if dFlowEn d ∧ getF s (unitLG (dQuarter d)) 0x100 10 0 ≤ dFlow d then some 0xF5
  else if dLedgerClass d = false ∧ (candidates s d).isEmpty then some 0xF2
  else if dNeedsEngine d ∧ dEngine d = 0xFF then some 0xF7
  else if dLedgerClass d ∧ dOp d = 3 ∧ scopeBad s next ring d then some 0xF9
  else none

/-- Entries of a quarter's ready list: tasks admitted and not dispatched, and retry scopes until their release (R328). -/
def readyCount (s : State) (q : Nat) : Nat :=
  (s.led.tasks.filter fun t => quarterOf t = q &&
    ((t.ending.isNone && (match t.place with | .till _ _ => false | _ => true)) || (t.scope.isSome && !t.released))).length

/-- Tasks of a context a quarter holds admitted and not dispatched (R324). -/
def ctxCount (s : State) (q c : Nat) : Nat :=
  (s.led.tasks.filter fun t => quarterOf t = q && dContext t.desc = c && t.ending.isNone && t.attempt = 0 &&
    (match t.place with | .till _ _ => false | _ => true)).length

/-- Entries of a delay list (R317). -/
def delayCount (s : State) (q l : Nat) : Nat :=
  (s.led.tasks.filter fun t => quarterOf t = q && t.delay.isSome && dDlist t.desc = l).length

/-- The point of R328 that holds a descriptor back, by the code of R479; 0 for none. -/
def holdCode (s : State) (d : List Byte) : Nat :=
  let q := dQuarter d
  if contained s then 6
  else if 16384 ≤ readyCount s q then 1
  else if decide (((ctxOf s (dContext d)).map fun c => c.quota).getD 16384 ≤ ctxCount s q (dContext d)) then 2
  else if dDelayEn d ∧ 4096 ≤ delayCount s q (dDlist d) then 3
  else if openEpoch s ≠ 0 ∧ afterCut s = false ∧ logRoom s q ≤ logCount s q then 4
  else 0

/-- The tick of a delay list (R317). -/
def tickOf (s : State) (q l : Nat) : Nat := getF s (unitLG q) (0x108 + 8 * l) 19 0

/-- The boundary at which a delay is released (R318): the end of the window that holds RELEASE; for a window already
ended, the first boundary at or after the present time. None when that is now, or the task has no delay. -/
def delayUntil (s : State) (d : List Byte) : Option Nat :=
  if dDelayEn d then
    let t := max 1 (tickOf s (dQuarter d) (dDlist d))
    let ends := (dRelease d / t + 1) * t
    let at_ := if now s < ends then ends else roundUp (now s) t
    if at_ ≤ now s then none else some at_
  else none

/-- Refuses a descriptor (R301): a FAILED record at once, REFUSED and LAST_REFUSED, and its name taken. -/
def refuseDesc (s : State) (ring : Nat) (d : List Byte) (status : Nat) : State :=
  let u := unitLG (dQuarter d)
  let s1 := if dTaskId d ≠ 0 ∧ status ≠ 0xF4 then takeName s (dTaskId d) 0 (afterCut s) status else s
  let s2 := setReg s1 u 0x160 (putField (BitVec.ofNat 64 status) 63 32 (dTaskId d))
  let s3 := countOutcome (raiseErr s2 u 17) (dQuarter d) .failed
  queueRecord s3 (dQuarter d) ring (taskRecord d { verdict := .failed, status := status, time := now s } (admitEpoch s))

/-- Ends at admission (R189, R190, R311, R312, R323): the status a descriptor ends with when it is admitted, if it does. -/
def admissionEnd (s : State) (seq ring : Nat) (d : List Byte) : State × Option Ending :=
  if dTableSwitch d then
    match switchRefusal s d with
    | some f => (s, some { verdict := .failed, status := f.status, detail := f.detail })
    | none => (applySwitch s d ring, some { verdict := .ok })
  else if tableMissing s d then (s, some { verdict := .failed, status := 0x0A, detail := 36 })
  else if dLedgerClass d ∧ dOp d = 4 then
    let r := applyCtxSet s seq d
    (r.1, some { verdict := if r.2 = 0 then .ok else .failed, status := r.2 })
  else if dLedgerClass d ∧ dOp d = 1 ∧ predNames d = [] then
    (s, some (if (leAt d 33 1).testBit 0 then { verdict := .skipped, status := 0xF0 } else { verdict := .ok }))
  else (s, none)

/-- Marks the scope of an admitted RETRY task (R315). -/
def markScope (s : State) (t : Task) : State :=
  if dLedgerClass t.desc ∧ dOp t.desc = 3 then
    let seqs := (scopeTasks s t.cut t.ring (leAt t.desc 38 2 + 1)).filterMap fun x => if x.seq = t.seq then none else some x.seq
    { s with led := { s.led with tasks := s.led.tasks.map fun x =>
        if (seqs.take (leAt t.desc 38 2)).contains x.seq then { x with scope := some t.seq } else x } }
  else s

/-- Puts a task into the ledgers, whatever it was admitted from: its edges, its delay, its pin, its log entry where one is
due, and its end where admission ends it. -/
def enterTask (s : State) (t0 : Task) (logIt : Bool) : State :=
  let s0 := bump64 s (unitLG (quarterOf t0)) 0x138 1
  let r := if t0.carried then (s0, none) else admissionEnd s0 t0.seq t0.ring t0.desc
  let t1 := { t0 with delay := delayUntil s0 t0.desc, edges := edgesOf s0 t0.cut t0.desc }
  let p := if t1.pin.isSome then (r.1, t1) else pinTable r.1 t1
  let t2 := p.2
  let s1 := { p.1 with led := { p.1.led with tasks := p.1.led.tasks ++ [t2] } }
  let s2 := takeName s1 (dTaskId t2.desc) t2.seq t2.cut
  let s3 := if logIt then appendLog s2 (entryOf t2 (openEpoch s2)) else s2
  let s4 := markScope s3 t2
  match r.2 with
  | some e => endTask s4 t2 e
  | none => s4

/-- Whether a ring has descriptors admitted after the cut whose slots are not released (R480). -/
def ringHeld (s : State) (ring : Nat) : Bool := s.led.tasks.any fun t => t.ring = ring && t.cut && !t.carried

/-- Writes a ring pair. -/
def setRing (s : State) (n : Nat) (r : Ring) : State :=
  { s with hi := { s.hi with rings := tblSet (fun _ => {}) s.hi.rings (n % 256) r } }

/-- The offered descriptor has been taken: the ring moves on, and SQ_HEAD with it unless slots are held (R480). -/
def ringAdvance (s : State) (n : Nat) : State :=
  let r := ringOf s n
  let offer := (r.offer + 1) % 2 ^ 32
  let cutHeld := ringHeld s n
  let head := if cutHeld then r.sqHead else offer
  setRing s n { r with
    offer := offer
    fetched := r.fetched.drop 1
    sqHead := head
    held := if cutHeld then 5 else 0
    lineDue := true }

/-- Admits a descriptor from a ring: it takes the next ADMIT_SEQ (R300). -/
def admitDesc (s : State) (ring : Nat) (d : List Byte) : State :=
  let seq := s.led.nextSeq
  let cut := afterCut s
  let t : Task :=
    { seq := seq, ring := ring, tAdmit := now s, desc := d, desc0 := d, ctx := (ctxOf s (dContext d)).getD {}
      cut := cut, logged := !cut }
  let s1 := { s with led := { s.led with nextSeq := (seq + 1) % 2 ^ 48 } }
  let s2 := setF s1 (unitLG (dQuarter d)) 0x168 47 0 seq
  enterTask s2 t (openEpoch s ≠ 0 && !cut)

/-- Holds a ring's descriptor back for a reason of R479, with LG STATUS ADMIT_WAIT (R328). -/
def holdRing (s : State) (n q code : Nat) : State :=
  let s1 := setRing s n { ringOf s n with held := code, lineDue := true }
  let s2 := setF s1 (unitLG q) 0x18 17 17 1
  if code = 4 then raiseErr s2 (unitLG q) 16 else s2

/-- Offers a ring's next fetched descriptor for admission (R301, R328): held, refused or admitted. -/
def admitFrom (s : State) (n : Nat) : State :=
  let r := ringOf s n
  match r.fetched with
  | [] => s
  | d :: _ =>
    if r.state = 2 then setRing s n { r with held := 7, lineDue := true }
    else if r.state ≠ 1 then s
    else
      let code := holdCode s d
      if usable s (unitLG (dQuarter d)) = false then s
      else if code ≠ 0 then holdRing s n (dQuarter d) code
      else
        let s0 := setF s (unitLG (dQuarter d)) 0x18 17 17 0
        match refusal s0 n d with
        | some st => settle (ringAdvance (refuseDesc s0 n d st) n)
        | none => settle (ringAdvance (admitDesc s0 n d) n)

/-! ### Dispatch and the tills (R307, R308, R325) -/

/-- The effective priority of a task (R307). -/
def effPriority (t : Task) : Nat := min (dPriority t.desc) t.ctx.prioMax

/-- Dispatch order: higher effective priority, then ready earlier, then admitted earlier (R307). -/
def dispatchKey (t : Task) : Nat :=
  match t.place with
  | .ready c => ((7 - effPriority t) * 2 ^ 64 + c) * 2 ^ 48 + t.seq
  | _ => 2 ^ 200

/-- The engine that takes a task: one with both tills free first, then the lowest local index (R307). -/
def chooseEngine (s : State) (t : Task) : Option UnitId :=
  let free := (candidates s t.desc).filter (canTake s)
  match free.find? fun u => (engOf s u).tills.isEmpty with
  | some u => some u
  | none => free.head?

/-- Ready tasks of a quarter that may be dispatched and for which an engine is free. -/
def dispatchable (s : State) (q : Nat) : List Task :=
  s.led.tasks.filter fun t => quarterOf t = q && t.ending.isNone && t.logged &&
    (match t.place with | .ready _ => true | _ => false) && (chooseEngine s t).isSome

/-- Loads the context of the task in front of an engine's tills (R325): the context registers, and on a matrix array the
pin image, copied as a PIN task copies it. -/
def switchContext (s : State) (u : UnitId) : State :=
  let e := engOf s u
  match e.tills.head?.bind (taskOf s) with
  | none => s
  | some t =>
    if e.ctx = some (dContext t.desc) then s
    else
      let s1 := bump64 (setEng s u { e with ctx := some (dContext t.desc) }) (unitLG u.q) 0x158 1
      match t.ctx.pin with
      | some p =>
        if u.ty = 0x01 then
          let r := loadFor s1 u t.ctx.part p.src p.len
          tileWrite r.1 u (0x280000 + p.dst) r.2
        else s1
      | none => s1

/-- Places the head ready task of a quarter in a free till (R306 to R308); an idle engine switches context first. -/
def dispatch (s : State) (q : Nat) : State :=
  if contained s || !usable s (unitLG q) then s
  else
    match leastBy dispatchKey (dispatchable s q) with
    | none => s
    | some t =>
      match chooseEngine s t with
      | none => s
      | some u =>
        let e := engOf s u
        let since := match t.place with | .ready c => c | _ => 0
        let s1 := bump64 (setTask s { t with place := .till u since }) (unitLG q) 0x140 1
        let free := if e.till.any fun x => x.2 = 0 then 1 else 0
        let s2 := setEng s1 u { e with tills := e.tills ++ [t.seq], till := e.till ++ [(t.seq, free)] }
        if e.tills.isEmpty then orWait s2 (fun x => switchContext x u) else s2

/-- What an engine's page and the device hold for its front task goes with the task: of an array a tile held in the cells
(R283), PAUSED, and CROSS of the array that was to run its tile (R183); of a gather engine its fragments and split slots
(R199). -/
def dropHeld (s : State) (u : UnitId) : State :=
  if u.ty = 0x01 then
    let n := globalOf u
    let s1 := { s with vq := tblSet (fun _ => []) s.vq n ((tblGet (fun _ => []) s.vq n).filter fun t => !t.held) }
    match (engOf s u).work with
    | .ma r =>
      match r.partner with
      | some p => setF (setF s1 u 0x18 20 20 0) (unitMA p) 0x18 21 21 0
      | none => s1
    | _ => s1
  else if u.ty = 0x03 then setF s u 0x18 21 20 0
  else if u.ty = 0x02 then
    match (engOf s u).tills.head? with
    | some seq => { s with frags := s.frags.filter (fun x => x.seq ≠ seq), splitUse := s.splitUse.filter fun x => x.2 ≠ seq }
    | none => s
  else s

/-- Replies that wait in an engine's buffer for its front task go with the task (R397). -/
def dropReplies (s : State) (u : UnitId) : State :=
  { s with rem := { s.rem with
      wanted := s.rem.wanted.filter (fun x => x.1 ≠ u)
      asked := s.rem.asked.filter (fun x => x.1 ≠ u)
      got := s.rem.got.filter (fun x => x.1 ≠ u)
      missing := s.rem.missing.filter fun x => x.1 ≠ u } }

/-- Takes a task out of an engine's tills; what the engine had of it is gone. -/
def dropFromTill (s0 : State) (u : UnitId) (seq : Nat) : State :=
  let e := engOf s0 u
  let front := e.tills.head? = some seq
  let s := if front then setF (dropReplies (dropHeld s0 u) u) u 0x18 19 18 0 else s0
  setEng s u
    { e with
      tills := e.tills.filter fun x => x ≠ seq
      till := e.till.filter fun x => x.1 ≠ seq
      work := if front then .none else e.work
      markerDue := if front then false else e.markerDue
      takeovers := e.takeovers.filter fun x => x.1 ≠ seq
      started := if front then false else e.started
      done := if front then none else e.done
      summary := if front then none else e.summary }

/-- Where an engine's page holds TASKS. -/
def tasksOffset (ty : Nat) : Nat :=
  match ty with
  | 0x01 => 0x140 | 0x02 => 0x140 | 0x03 => 0x138 | 0x04 => 0x130 | 0x05 => 0x130 | 0x06 => 0x118 | 0x07 => 0x158
  | 0x08 => 0x130 | _ => 0

/-- Where an engine's page holds LAST_STATUS. -/
def lastStatusOffset (ty : Nat) : Nat :=
  match ty with
  | 0x01 => 0x130 | 0x02 => 0x108 | 0x03 => 0x108 | 0x04 => 0x100 | 0x05 => 0x100 | 0x06 => 0x108 | 0x07 => 0x108
  | 0x08 => 0x118 | _ => 0

/-- The ERR_SUMMARY bits that a status other than DONE sets on its engine's page (R149, R181, R211, R231, R241, R292, R415,
R420, R429). -/
def statusBits (ty status : Nat) : List Nat :=
  match ty, status with
  | 0x01, 0x01 => [16] | 0x01, 0x08 => [] | 0x01, _ => [17]
  | 0x02, 0x0B => [17] | 0x02, 0x0A => [] | 0x02, _ => [16]
  | 0x03, 0x0A => [17] | 0x03, 0x0B => [17] | 0x03, _ => [16]
  | 0x04, 0x0B => [17] | 0x04, _ => [16]
  | 0x05, 0x08 => [17] | 0x05, _ => [16]
  | 0x06, 0x01 => [16] | 0x06, _ => [17]
  | 0x07, 0x01 => [18] | 0x07, 0x0B => [17] | 0x07, _ => [16]
  | 0x08, 0x10 => [16, 18] | 0x08, _ => [16]
  | _, _ => []

/-- What an engine's page records of a task that ends on it: TASKS, LAST_STATUS and the bits of its status; a predictor's
TRUNCATED counts as done and raises its own event (R241, R251), and a vector engine gathers the flags (R296). -/
def accountEnd (s : State) (u : UnitId) (e : Ending) : State :=
  let s0 := if u.ty = 0x03 then setF s u 0x130 5 0 (getF s u 0x130 5 0 ||| e.flags % 64) else s
  if e.status = 0 then bump s0 u (tasksOffset u.ty) 31 0 1
  else if u.ty = 0x05 ∧ e.status = 1 then raiseInt (bump s0 u (tasksOffset u.ty) 31 0 1) u 18
  else
    let s1 := bump s0 u (tasksOffset u.ty) 63 32 1
    let s2 := setF (setF s1 u (lastStatusOffset u.ty) 7 0 e.status) u (lastStatusOffset u.ty) 15 8 (e.detail % 256)
    foldOver (fun b r => raiseErr r u b) (statusBits u.ty e.status) s2

/-- The task an engine runs: the one in front of its tills. -/
def runningTask (s : State) (u : UnitId) : Option Task := (engOf s u).tills.head?.bind (taskOf s)

/-- An engine reports its task complete (R34): when every remote write of it has been acknowledged and the completion
buffer has room (R328), the ledger ends it, and the engine turns to its other till. -/
def taskComplete (s : State) (u : UnitId) : State :=
  let e := engOf s u
  match e.done, runningTask s u with
  | some x, some t =>
    if contained s || e.markerDue || bufferFull s (quarterOf t) || (s.rem.writes.any fun w => w.who = u) || roundPending s u then s
    else
      let s1 := setTask s { t with summary := e.summary }
      let s2 := endTask (dropFromTill (accountEnd s1 u x) u t.seq) { t with summary := e.summary } { x with engine := u.i }
      orWait (settle s2) (fun y => if (engOf y u).tills.isEmpty then y else switchContext y u)
  | _, _ => s

/-- Tasks in an engine's tills that have not started return to the ready list at their place (R68). -/
def returnTills (s : State) (u : UnitId) : State :=
  let e := engOf s u
  let back := if e.started then e.tills.drop 1 else e.tills
  let s1 := { s with led := { s.led with tasks := s.led.tasks.map fun t =>
      match t.place with
      | .till _ c => if back.contains t.seq then { t with place := .ready c } else t
      | _ => t } }
  let keep := if e.started then e.tills.take 1 else []
  setEng s1 u { e with tills := keep, till := e.till.filter fun x => keep.contains x.1 }

/-! ### Delays and deadlines (R317 to R321) -/

/-- A tick boundary releases every entry of its list whose window has ended (R318, R319). -/
def delayTick (s : State) (q l time : Nat) : State :=
  let t := max 1 (tickOf s q l)
  if time % t ≠ 0 then s
  else
    let s1 := timeUpTo s time
    settle { s1 with led := { s1.led with tasks := s1.led.tasks.map fun x =>
      match x.delay with
      | some b => if quarterOf x = q ∧ dDlist x.desc = l ∧ b ≤ time then { x with delay := none } else x
      | none => x } }

/-- Every delay whose boundary the present time has reached is released at once (R319). -/
def releasePassed (s : State) : State :=
  settle { s with led := { s.led with tasks := s.led.tasks.map fun x =>
    match x.delay with
    | some b => if b ≤ now s then { x with delay := none } else x
    | none => x } }

/-- The device time of a task's deadline (R320). -/
def deadlineAt (t : Task) : Option Nat :=
  if dDeadlineEn t.desc then some (t.tAdmit + 1000 * dDeadline t.desc) else none

/-- A task that passes its deadline ends EXPIRED, wherever it stands (R320); one in a till counts in its engine's TASKS
ERRORED. -/
def expireTask (s : State) (t : Task) : State :=
  let s1 := match t.place with
    | .till u _ => bump (dropFromTill s u t.seq) u (tasksOffset u.ty) 63 32 1
    | _ => s
  endWith s1 t .expired 0xF1

/-- TIME reaches a task's deadline (R320). -/
def deadlineExpiry (s : State) (seq : Nat) : State :=
  match taskOf s seq with
  | none => s
  | some t =>
    match deadlineAt t with
    | none => s
    | some d => if t.ending.isSome || contained s then s else settle (expireTask (timeUpTo s d) t)

/-- Every task whose deadline the present time has reached expires at once (R320). -/
def expirePassed (s : State) : State :=
  let due := s.led.tasks.filter fun t => t.ending.isNone && (match deadlineAt t with | some d => decide (d ≤ now s) | none => false)
  if due.isEmpty || contained s then s else settle (foldOver (fun t r => expireTask r t) due s)

/-- TIME was stepped or loaded: delays and deadlines follow (R319, R320). -/
def timeStepped (s : State) : State := expirePassed (releasePassed (compareDue s))

/-! ### Retirement (R64, R306) -/

/-- A unit is retired: its tasks end or go back, and tasks left without an engine end NO_ENGINE (R64, R306). -/
def retireUnit (s : State) (u : UnitId) : State :=
  let s1 := markRetired s u
  settle (returnTills s1 u)

end Sys2Proof.Machine
end

