-- ==== Sys2Proof/Machine/Epochs.lean ====
section
/-! DEFINITION. Epochs (R438 to R445): the commit role and the commit tree, its tokens, starting and stopping epochs, the
close instant with its cut and its carried tasks, the drain, the vote and the commit. Recovery is in Escrow.lean. -/

namespace Sys2Proof.Machine

open Sys2Proof

/-! ### The role and the tree (R428, R439) -/

/-- The collective engine that holds the commit role (R428). -/
def roleHolder (s : State) : Option Nat := (List.range 4).find? fun n => getF s (unitCO n) 0x18 20 20 = 1

/-- Assigns the commit role to the lowest-numbered collective engine that is enabled and not retired (R439). -/
def assignRole (s : State) : State :=
  let h := (List.range 4).find? fun n => usable s (unitCO n)
  foldOver (fun n t => setF t (unitCO n) 0x18 20 20 (bit (h = some n))) (List.range 4) s

/-- The role follows the collective engines once it has been assigned: at the start of epochs (R441), and while epochs run. -/
def passRole (s : State) : State := if (roleHolder s).isSome || decide (phase s ≠ 0) then assignRole s else s

/-- EX TREE ROOT, PARENT and DOMAIN_SIZE. -/
def treeRoot (s : State) : Bool := getF s unitEX 0x128 63 63 = 1
def treeParent (s : State) : Nat := getF s unitEX 0x128 9 0
def domainSize (s : State) : Nat := getF s unitEX 0x128 42 32

/-- EX COMMITTED. -/
def committed (s : State) : Nat := getF s unitEX 0x120 47 0

/-- EX EPOCH_CTRL RUN. -/
def running (s : State) : Bool := getF s unitEX 0x110 0 0 = 1

/-- The devices of EX TREE_CHILDn. -/
def children (s : State) : List Nat :=
  (List.range 32).filterMap fun n =>
    let w := getReg s unitEX (0x180 + 8 * n)
    if bitOf w 63 then some (field w 9 0) else none

/-- Writes EX STATUS PHASE. -/
def setPhase (s : State) (p : Nat) : State := setF s unitEX 0x18 23 20 p

/-! ### Tokens (R419, R440) -/

/-- The body of a commit token (R419). -/
def tokenBody (epoch phase count sender reason : Nat) : List Byte :=
  leBytes 6 epoch ++ leBytes 1 phase ++ zeros 1 ++ leBytes 2 count ++ leBytes 2 sender ++ leBytes 2 reason ++ zeros 18

/-- The engine that holds the role sends a token to a neighbour in the tree (R419, R439). -/
def sendToken (s : State) (dest phase epoch count sender reason : Nat) : State :=
  match roleHolder s with
  | none => s
  | some n =>
    bump64 (sendMessage s { type := 0x10, dest := dest, src := 0, body := tokenBody epoch phase count sender reason })
      (unitCO n) 0x128 1

/-- Sends a token to the parent. -/
def tokenUp (s : State) (phase epoch count : Nat) (reason : Nat := 0) (sender : Nat := deviceId s) : State :=
  sendToken s (treeParent s) phase epoch count sender reason

/-- Sends a token to every child. -/
def tokenDown (s : State) (phase epoch : Nat) (reason : Nat := 0) (sender : Nat := deviceId s) : State :=
  foldOver (fun c t => sendToken t c phase epoch 0 sender reason) (children s) s

/-- Every child has sent its count, and the counts' sum with this device. -/
def allCounted (s : State) (got : List (Nat × Nat)) : Bool := (children s).all fun c => got.any fun g => g.1 = c
def countSum (s : State) (got : List (Nat × Nat)) : Nat :=
  1 + (((children s).map fun c => ((got.find? fun g => g.1 = c).map fun g => g.2).getD 0).foldl (· + ·) 0)

/-! ### Starting (R441) -/

/-- EX EPOCH_BASE. -/
def epochBase (s : State) : Nat := getF s unitEX 0x108 47 0

/-- The first epoch opens (R441 step 5). What a rollback would restore of the registry and the context table before any
commit is what they hold now. -/
def openFirst (s : State) : State :=
  let b := epochBase s
  let s1 := setF (setF s unitEX 0x120 47 0 (b - 1)) unitEX 0x118 47 0 b
  let s2 := setPhase s1 1
  { s2 with
    led := { s2.led with
      tasks := []
      names := []
      ctxsCommitted := s2.led.ctxs
      tablesCommitted := s2.led.tables }
    esc := { s2.esc with
      startWanted := false
      startSent := false
      starts := []
      openedAt := now s2
      cutDone := false
      drained := false
      requestSent := false
      votes := [] } }

/-- Steps 2 to 5 of R441: every admitted task has ended and every child has sent START; the root opens the first epoch when
its count reaches DOMAIN_SIZE, any other device sends START to its parent once. -/
def startCheck (s : State) : State :=
  if s.esc.startWanted && decide (phase s = 0) && s.led.tasks.all (fun t => t.ending.isSome && t.released) &&
      allCounted s s.esc.starts then
    if treeRoot s then
      if countSum s s.esc.starts = domainSize s then openFirst (tokenDown s 4 (epochBase s)) else s
    else if s.esc.startSent then s
    else
      let s1 := tokenUp s 4 (epochBase s) (countSum s s.esc.starts)
      { s1 with esc := { s1.esc with startSent := true } }
  else s

/-- RUN = 1 (R441 step 1): ignored while PHASE is not 0; without EX enabled it starts nothing; without a collective engine
for the role RUN reads back 0 and NO_ROLE sets. -/
def epochStart (s : State) : State :=
  if phase s ≠ 0 then s
  else
    let s1 := setF s unitEX 0x110 0 0 1
    if enabled s unitEX = false then s1
    else
      let s2 := assignRole s1
      if (roleHolder s2).isNone then setF (setF s2 unitEX 0x110 0 0 0) unitEX 0x18 17 17 1
      else startCheck { (setF s2 unitEX 0x18 17 17 0) with esc := { s2.esc with startWanted := true } }

/-- RUN = 0 (R442): no further epoch opens after the next commit. -/
def epochStop (s : State) : State := setF s unitEX 0x110 0 0 0

/-! ### Closing (R443, R444 step 1) -/

/-- Carried tasks (R330), found by growing the set of those that wait: on a delay of their own, on a predecessor that waits,
a RETRY on its scope; and what has ended but is held back by one of them in its flow or its scope. -/
def carryWaits (s : State) (w : List Nat) (t : Task) : Bool :=
  if t.ending.isNone then
    (match t.place with
      | .till _ _ => false
      | _ => true) &&
    (t.delay.isSome || t.edges.any (fun e => edgeState s t e = .pending && w.contains e.pred) ||
      (isLedgerTask t && dOp t.desc = 3 && s.led.tasks.any fun x => x.scope = some t.seq && w.contains x.seq))
  else
    !t.released && ((earlierInFlow s t).any (fun x => !x.released && w.contains x.seq) ||
      (match t.scope with
        | some r => w.contains r
        | none => false))

/-- The set, grown as often as there are tasks. -/
def carrySet (s : State) : List Nat :=
  iter (fun _ w => (s.led.tasks.filter fun t => carryWaits s w t).map fun t => t.seq) (s.led.tasks.length + 1) []

/-- The epoch closes (R444 step 1): PHASE reads 2, the carried set is fixed with its names moved to the next epoch, and what
is admitted from here on belongs to the next epoch (R330). A close while the epoch is closing is ignored (R443). -/
def closeEpoch (s : State) : State :=
  if phase s ≠ 1 then s
  else
    let w := carrySet s
    let carry (t : Task) : Bool := t.ending.isNone && w.contains t.seq
    let cs := s.led.tasks.filter carry
    let seqs := cs.map fun t => t.seq
    let s1 := foldOver (fun t r => bump64 r (unitLG (quarterOf t)) 0x150 1) cs (setPhase s 2)
    settle { s1 with
      led := { s1.led with
        tasks := s1.led.tasks.map fun t => { t with carried := carry t }
        names := s1.led.names.map fun n => if seqs.contains n.owner then { n with next := true } else n
        ctxsCut := s1.led.ctxs
        tablesCut := s1.led.tables }
      esc := { s1.esc with cutDone := true, drained := false } }

/-- The root's close order: down the tree, and its own epoch closes (R443). -/
def closeOrder (s : State) : State := if phase s = 1 then closeEpoch (tokenDown s 1 (openEpoch s)) else s

/-- A request for an early close that has been raised goes to the root, once an epoch; the root gives its close order
(R443). -/
def requestCheck (s : State) : State :=
  if getF s unitEX 0x18 16 16 = 1 ∧ phase s = 1 ∧ s.esc.requestSent = false then
    let s1 := { s with esc := { s.esc with requestSent := true } }
    if treeRoot s then closeOrder s1 else tokenUp s1 1 (openEpoch s) 0
  else s

/-- EX CMD CLOSE (R443, R467). -/
def closeCommand (s : State) : State := requestCheck (requestClose s)

/-- TARGET in nanoseconds, and the close instant of the open epoch (R443). -/
def epochTarget (s : State) : Nat := getF s unitEX 0x100 11 0 * 1000000
def closeAt (s : State) : Nat := roundUp (s.esc.openedAt + epochTarget s / 2) (epochTarget s)

/-- Device time reaches the close instant (R443). -/
def closeInstant (s : State) : State := if phase s = 1 then closeEpoch (timeUpTo s (closeAt s)) else s

/-! ### The commit (R444 steps 5 to 7) -/

/-- Working copies become committed copies and undo copies are freed (R434, R435, R465). -/
def commitPages (s : State) : State :=
  let w := s.esc.working
  let o := s.esc.swapped
  let s1 := { s with esc := { s.esc with
    swapped := w.filter (fun p => !o.contains p) ++ o.filter fun p => !w.contains p
    working := []
    undo := [] } }
  let one (q : Nat) (t : State) : State :=
    let u := unitES q
    let used := getF t u 0x2A0 31 0
    setF (setReg (setReg (setF t u 0x2A8 31 0 (max used (getF t u 0x2A8 31 0))) u 0x2A0 0) u 0x2B0 0) u 0x18 17 17 0
  foldOver one (List.range 4) s1

/-- Every copy of a remote line becomes invalid (R368). -/
def dropRemoteCopies (s : State) : State :=
  let s1 := foldOver (fun b t => setBank t b { bankOf t b with
    lines := (bankOf t b).lines.filter fun l => natField l.addr 63 60 ≠ 0 }) (List.range 16) s
  { s1 with rem := { s1.rem with pcache := [] } }

/-- The arrays' transient counts return to 0 (R177). -/
def clearTransients (s : State) : State :=
  foldOver (fun u t => setEng t u { engOf t u with transients := 0 }) (unitsOf 0x01) s

/-- The registry that a rollback of the next epoch would restore (R192): as it stood at the cut, with the references of the
carried tasks alone, and without the versions that have drained since. -/
def registryAtCommit (s : State) : Table TblEntry :=
  let refs (n v : Nat) : Nat := (s.led.tasks.filter fun t => t.carried && t.pin = some (n, v)).length
  let fix (n : Nat) (v : TblVersion) : TblVersion := { v with refs := refs n v.version }
  let live (n : Nat) (v : TblVersion) : Bool := refs n v.version ≠ 0 || (tblEntry s n).draining.any fun x => x.version = v.version
  let entry (x : Nat × TblEntry) : Nat × TblEntry :=
    (x.1, ⟨x.2.current.map (fix x.1), (x.2.draining.filter (live x.1)).map (fix x.1)⟩)
  (s.led.tablesCut.map entry).filter fun x => x.2 ≠ {}

/-- Carried tasks, then the descriptors admitted since the cut, are logged in the new epoch (R444 step 6). -/
def logNext (s : State) (epoch : Nat) : State :=
  let cs := s.led.tasks.filter fun t => t.carried
  let hs := s.led.tasks.filter fun t => t.cut && !t.carried
  foldOver (fun t r => appendLog r (entryOf t epoch)) (cs ++ hs) s

/-- The ring slots of the descriptors held since the cut are released (R444 step 6, R480). -/
def releaseHeld (s : State) : State :=
  let one (n : Nat) (t : State) : State :=
    if ringHeld s n then
      let r := ringOf t n
      setRing t n { r with sqHead := r.offer, held := if r.held = 5 then 0 else r.held, lineDue := true }
    else t
  foldOver one (s.hi.rings.map fun r => r.1) s

/-- What stays in the ledgers for the next epoch: what has not ended, what ended for the next epoch, and what waits for its
release (R305, R330). -/
def nextTasks (s : State) : List Task :=
  (s.led.tasks.filter fun t => t.cut || t.carried || t.ending.isNone || !t.released).map fun t =>
    { t with cut := false, logged := true }

/-- Steps 6 and 7 of R444. RUN = 0 leaves no epoch open (R442); a device that has detected a fault stays contained
(R452). -/
def commitEpoch (s : State) : State :=
  let e := openEpoch s
  let next := if running s then e + 1 else 0
  let s1 := tallyCommit (commitPages s) e
  let s2 := clearTransients (dropRemoteCopies (commitReplicas (commitDirectory s1)))
  let reg := registryAtCommit s2
  let s3 := emptyLogs { s2 with led := { s2.led with ctxsCommitted := s2.led.ctxsCut, tablesCommitted := reg } }
  let s4 := setF (setF (setF s3 unitEX 0x120 47 0 e) unitEX 0x118 47 0 next) unitEX 0x18 16 16 0
  let s5 := releaseHeld (if next = 0 then s4 else logNext s4 next)
  let s6 := { s5 with
    led := { s5.led with
      tasks := nextTasks s5
      names := (s5.led.names.filter fun n => n.next).map fun n => { n with next := false } }
    esc := { s5.esc with
      cutDone := false
      drained := false
      requestSent := false
      votes := []
      openedAt := now s5 } }
  let s7 := raiseInt (bump64 s6 unitEX 0x150 1) unitEX 21
  settle (if contained s then s7 else setPhase s7 (if next = 0 then 0 else 1))

/-- Step 5 of R444: COMMIT goes to every child at once, and the device commits. -/
def decideCommit (s : State) : State := commitEpoch (tokenDown s 2 (openEpoch s))

/-! ### Drain and vote (R444 steps 2 to 4) -/

/-- Step 4 of R444: the drain is complete and every child has voted. The root commits when its count reaches DOMAIN_SIZE. -/
def voteCheck (s : State) : State :=
  if decide (phase s = 2) && s.esc.drained && !s.esc.faulted && allCounted s s.esc.votes then
    let n := countSum s s.esc.votes
    let s1 := setPhase s 3
    if treeRoot s then if n = domainSize s then decideCommit s1 else s1
    else tokenUp s1 1 (openEpoch s) n
  else s

/-- Every task of the closing epoch that is not carried has ended (R444 step 2). -/
def epochEnded (s : State) : Bool := s.led.tasks.all fun t => t.cut || t.carried || t.ending.isSome

/-- Drains the merging buffers of every bank. -/
def drainBuffers (s : State) : State :=
  foldOver (fun b t => iter (fun _ r => drainOldest r b) (bankOf t b).buf.length t) (List.range 16) s

/-- Steps 2 and 3 of R444 end: the tasks have ended, the merging buffers are drained, and no write of this device waits for
its acceptance. -/
def drainComplete (s : State) : State :=
  if phase s = 2 ∧ epochEnded s = true then
    let s1 := flushInvals (orWait s drainBuffers)
    if (s1.vb.all fun v => v.2.buf.isEmpty) && s1.rem.writes.isEmpty && s1.rem.rounds.isEmpty then
      voteCheck { s1 with esc := { s1.esc with drained := true } }
    else s1
  else s

/-- What the tree is waiting for of this device is looked at again: a start, and a request for an early close. -/
def epochPoll (s : State) : State := requestCheck (startCheck s)

/-! ### Tokens that arrive (R440) -/

/-- A token as received: its fields, and the neighbour it came from. -/
structure Token where
  epoch : Nat
  phase : Nat
  count : Nat
  sender : Nat
  reason : Nat
  from_ : Nat
  deriving DecidableEq, Repr

/-- The token a message carries. -/
def tokenOf (m : Message) : Token :=
  let b := m.seg.body
  ⟨leAt b 0 6, leAt b 6 1, leAt b 8 2, leAt b 10 2, leAt b 12 2, m.seg.src⟩

/-- The first token that has arrived, when it has a phase, and the state without it (R440: in order of arrival). Tokens of
a phase that R419 does not list are dropped on the way. -/
def takeToken (s : State) (p : Nat) : Option (Token × State) :=
  let inbox := s.fab.inbox.filter fun m => !(m.seg.type = 0x10 && !([1, 2, 3, 4].contains (tokenOf m).phase))
  match takeFirst (fun m => m.seg.type = 0x10) inbox with
  | some (m, rest) => if (tokenOf m).phase = p then some (tokenOf m, { s with fab := { s.fab with inbox := rest } }) else none
  | none => none

/-- It came from the parent, or from a child. -/
def fromParent (s : State) (k : Token) : Bool := !treeRoot s && k.from_ = treeParent s
def fromChild (s : State) (k : Token) : Bool := (children s).contains k.from_

/-- Notes a child's count. -/
def noteCount (l : List (Nat × Nat)) (k : Token) : List (Nat × Nat) := (k.from_, k.count) :: l.filter fun g => g.1 ≠ k.from_

/-- A VOTE: a request to close, the close order, or a child's vote. One that names another epoch than the open one is
discarded (R440). -/
def voteToken (s : State) (k : Token) : State :=
  if k.epoch ≠ openEpoch s ∨ openEpoch s = 0 ∨ contained s = true then s
  else if k.count = 0 then
    if fromParent s k then closeEpoch (if phase s = 1 then tokenDown s 1 k.epoch else s)
    else if fromChild s k ∧ phase s = 1 then if treeRoot s then closeOrder s else tokenUp s 1 k.epoch 0
    else s
  else if fromChild s k then voteCheck { s with esc := { s.esc with votes := noteCount s.esc.votes k } }
  else s

/-- A START: a child is ready, or the start itself (R441 steps 3 to 5). -/
def startToken (s : State) (k : Token) : State :=
  if phase s ≠ 0 then s
  else if k.count = 0 then
    if fromParent s k ∧ s.esc.startSent = true then openFirst (tokenDown s 4 k.epoch) else s
  else if fromChild s k then startCheck { s with esc := { s.esc with starts := noteCount s.esc.starts k } }
  else s

/-! ### Meanings -/

/-- EPOCH_START (R441). -/
def execEpochStart (s : State) : Host.Outcome State Fault Refusal := .next (if commandable s unitEX then epochStart s else s)

/-- EPOCH_STOP (R442). -/
def execEpochStop (s : State) : Host.Outcome State Fault Refusal := .next (if commandable s unitEX then epochStop s else s)

/-- CLOSE (R443). -/
def execClose (s : State) : Host.Outcome State Fault Refusal := .next (if commandable s unitEX then closeCommand s else s)

/-- CLOSE_INSTANT (R443). -/
def execCloseInstant (s : State) : Host.Outcome State Fault Refusal := .next (closeInstant s)

/-- DRAIN_COMPLETE (R444). -/
def execDrainComplete (s : State) : Host.Outcome State Fault Refusal := .next (drainComplete s)

/-- COMMIT_VOTE (R440): the first token that has arrived, a VOTE. -/
def execCommitVote (s : State) : Host.Outcome State Fault Refusal :=
  .next (match takeToken s 1 with
    | some (k, t) => voteToken t k
    | none => s)

/-- COMMIT_START (R441): the first token that has arrived, a START. -/
def execCommitStart (s : State) : Host.Outcome State Fault Refusal :=
  .next (match takeToken s 4 with
    | some (k, t) => startToken t k
    | none => s)

end Sys2Proof.Machine
end

