-- ==== Sys2Proof/Machine/EngineCommon.lean ====
section
/-! DEFINITION. What the engines share: the task an engine runs, how it starts, waits and ends, and the checks of
addresses that every chapter's descriptor table repeats. -/

namespace Sys2Proof.Machine

open Sys2Proof

/-- An engine that may work on its front task: the device is not contained, the engine serves, and the task has not run
to its end. -/
def mayRun (s : State) (u : UnitId) : Bool :=
  !contained s && present s u && !retired s u && !resetting s u && (engOf s u).done.isNone

/-- The task in front of an engine's tills when it has OP `op` of the engine's class. -/
def frontTask (s : State) (u : UnitId) (op : Nat) : Option Task :=
  if mayRun s u then
    match runningTask s u with
    | some t => if dClass t.desc = u.ty ∧ dOp t.desc = op then some t else none
    | none => none
  else none

/-- An engine starts its front task (R308). -/
def startFront (s : State) (u : UnitId) : State := setEng s u { engOf s u with started := true }

/-- The front task has run to its end with every write issued: how it ends waits for TASK_COMPLETE (R34). -/
def finishFront (s : State) (u : UnitId) (e : Ending) : State :=
  setEng s u { engOf s u with started := true, done := some e }

/-- Ends the front task as DONE, with its flags. -/
def finishOk (s : State) (u : UnitId) (flags : Nat) : State := finishFront s u { verdict := .ok, flags := flags % 64 }

/-- Ends the front task with a status other than DONE. -/
def finishBad (s : State) (u : UnitId) (status detail flags : Nat) : State :=
  finishFront s u { verdict := .failed, status := status, detail := detail % 256, flags := flags % 64 }

/-- STATUS IN_WAIT or OUT_WAIT of an engine whose attempt must wait: for a read, or for a write to be accepted. -/
def noteWait (s : State) (u : UnitId) (attempt : State) : State :=
  setF (setF s u 0x18 18 18 (bit attempt.rem.full.isNone)) u 0x18 19 19 (bit attempt.rem.full.isSome)

/-- Runs work of an engine that may have to wait (R30): a wait leaves it as it was with STATUS IN_WAIT or OUT_WAIT set. -/
def engineWork (s : State) (u : UnitId) (f : State → State) : State :=
  let s0 := startFront s u
  let t := f { s0 with rem := { s0.rem with wait := false, full := none } }
  if t.rem.wait then noteWait (orWait s0 f) u t else setF t u 0x18 19 18 0

/-- Runs the front task of an engine when its descriptor passes its check, else ends it with the fault R562 chooses. -/
def runFront (s : State) (u : UnitId) (op : Nat) (check : Task → List DescFault) (f : Task → State → State) : State :=
  match frontTask s u op with
  | none => s
  | some t =>
    match chooseFault (check t) with
    | some x => finishBad s u x.status x.detail 0
    | none => engineWork s u (f t)

/-- An engine whose front task has an OP that its class does not define ends it with OPCODE (R562). -/
def undefinedOp (s : State) (u : UnitId) (ops : List Nat) : State :=
  if mayRun s u then
    match runningTask s u with
    | some t => if dClass t.desc = u.ty && !(ops.contains (dOp t.desc)) then finishBad s u 0x06 32 0 else s
    | none => s
  else s

/-- ALIGN faults of descriptor fields that must be multiples of 64: pairs of a byte offset and a width. -/
def alignFaults (d : List Byte) (fields : List (Nat × Nat)) : List DescFault :=
  fields.flatMap fun f => faultIf (leAt d f.1 f.2 % 64 ≠ 0) 0x04 f.1

/-- TARGET faults of address fields that name a tile's local memory. -/
def tileFaults (d : List Byte) (fields : List Nat) : List DescFault :=
  fields.flatMap fun f => faultIf (isTileForm (leAt d f 8)) 0x09 f

/-- The partition a task's accesses carry (R324). -/
def partOf (t : Task) : Nat := t.ctx.part

/-- A tally update an engine makes for its task; slot 0 names none (R85, R87). -/
def engineTally (s : State) (slot kind count : Nat) (a b : Dyadic) (ident : Nat) : State :=
  if slot = 0 then s else tallyUpdate s ⟨slot, kind, count, a, b, ident⟩

end Sys2Proof.Machine
end

