-- ==== Sys2Proof/Machine/Vectors.lean ====
section
/-! DEFINITION. Rows of elements as the engines read, combine and write them: packed rows, exact running sums, and the
accumulation of R36 at a scratchpad bank. -/

namespace Sys2Proof.Machine

open Sys2Proof

/-- Reads `n` rows of `len` bytes at a stride. -/
def readRows (s : State) (u : UnitId) (part base stride len : Nat) : Nat → State × List (List Byte)
  | 0 => (s, [])
  | n + 1 =>
    let r := readRows s u part base stride len n
    let x := engineLoad r.1 u part (base + n * stride) len
    (x.1, r.2 ++ [x.2])

/-- Writes rows at a stride. -/
def writeRows (s : State) (u : UnitId) (part base stride : Nat) : List (List Byte) → State
  | [] => s
  | r :: rs => writeRows (engineStore s u part base r) u part (base + stride) stride rs

/-- The codes of the first `c` elements of a packed row. -/
def rowCodes (code c : Nat) (row : List Byte) : List Nat := (List.range c).map (elemCode code row)

/-- An FP32 number read from memory bytes. -/
def fp32At (bs : List Byte) (off : Nat) : ExactNum := numOf32 (leAt bs off 4)

/-- The exact sum of two magnitudes. -/
def dyAdd (a b : Dyadic) : Dyadic :=
  let lo := min a.exp b.exp
  if a.num = 0 then b
  else if b.num = 0 then a
  else ⟨a.num * pow2 (a.exp - lo) + b.num * pow2 (b.exp - lo), lo⟩

/-- The exact square of a value. -/
def ExactNum.square (x : ExactNum) : Dyadic := (x.mul x).dyadic

/-- The larger of two magnitudes: `b` is larger than `a`. -/
def dyLt (a b : Dyadic) : Bool :=
  let lo := min a.exp b.exp
  decide (a.num * pow2 (a.exp - lo) < b.num * pow2 (b.exp - lo))

/-- The largest finite magnitude of a list with its position, the lowest position among equals. -/
def largest (xs : List (ExactNum × Nat)) : Option (Dyadic × Nat) :=
  xs.foldl (fun r x =>
    if x.1.isFin then
      match r with
      | none => some (x.1.dyadic, x.2)
      | some (d, p) => if dyLt d x.1.dyadic then some (x.1.dyadic, x.2) else some (d, p)
    else r) none

/-- A maximum update of a task, if it has a finite value to offer (R87). -/
def tallyMax (s : State) (slot : Nat) (m : Option (Dyadic × Nat)) : State :=
  match m with
  | some (d, p) => engineTally s slot 3 1 d ⟨0, 0⟩ p
  | none => s

/-- One contribution to an element of a dense tile (R36): the element's new 32 bits, the flags it gives the task, and how
many multiples of 2^32 its exact running total has passed. -/
def accumulateOne (float : Bool) (old wraps v : Int) : Nat × Nat × Int :=
  if float then
    let r := fadd32 (unsignedOf 32 old) (unsignedOf 32 v)
    (r.1, r.2, 0)
  else
    let t := old + wraps * 2 ^ 32 + v
    let low := signedOf 32 (unsignedOf 32 t)
    (unsignedOf 32 t, flagIf (decide (t < -(2 ^ 31) ∨ 2 ^ 31 ≤ t)) flagOverflow, (t - low) / 2 ^ 32)

/-- Applies contributions to consecutive 4-byte elements of a bank (R36); a bank that does not serve discards them and
records the access (R358). It answers the flags. -/
def accumulateAt (s : State) (who : UnitId) (bank off : Nat) (float : Bool) : List Nat → State × Nat
  | [] => (s, 0)
  | v :: vs =>
    if bankServes s bank then
      let a := vaultAddr bank off
      let old := signedOf 32 (ofLE ((List.range 4).map fun k => rawByte s (a + k)))
      let r := accumulateOne float old (tblGet (fun _ => 0) s.wraps a) (signedOf 32 v)
      let s1 := putBytes s a (leBytes 4 r.1)
      let s2 := { s1 with wraps := tblSet (fun _ => 0) s1.wraps a r.2.2 }
      let rest := accumulateAt s2 who bank (off + 4) float vs
      (rest.1, r.2.1 ||| rest.2)
    else (noteBadMode s who bank off true, 0)

/-- Accumulates a row into a vault-form address, counting the sectors it touches in VB ACCUMS. -/
def accumulateRow (s : State) (who : UnitId) (addr : Nat) (float : Bool) (vs : List Nat) : State × Nat :=
  let bank := natField addr 30 27
  let off := natField addr 26 0
  let r := accumulateAt s who bank off float vs
  if bankServes s bank then
    (bump64 r.1 (unitVB bank) 0x148 ((off + 4 * vs.length - 1) / 64 + 1 - off / 64), r.2)
  else r

end Sys2Proof.Machine
end

