-- ==== Sys2Proof/Machine/Stacks.lean ====
section
/-! DEFINITION. The stack controllers and the vault banks as they serve single accesses (R338 to R375): ECC outcomes, scrub,
row sparing and page retirement, accesses to a bank, its lines, its merging buffer and its invalidation. -/

namespace Sys2Proof.Machine

open Sys2Proof

/-! ### ECC outcomes (R341, R347 to R349) -/

/-- A row meets a trigger of R348 and waits its turn (R349). -/
def triggerRow (s : State) (st : Nat) (r : RowId) : State :=
  let h := stackOf s st
  if r ∈ h.triggers then s else setStack s st { h with triggers := h.triggers ++ [r] }

/-- Counts a corrected error of a row: the 1,024 rows counted most recently are kept, and ROW_CE_LIMIT triggers (R348). -/
def countRow (s : State) (st : Nat) (r : RowId) : State :=
  let h := stackOf s st
  let n := ((h.ceRows.find? fun e => e.1 = r).map fun e => e.2).getD 0 + 1
  let rest := h.ceRows.filter fun e => e.1 ≠ r
  let s1 := setStack s st { h with ceRows := (r, n) :: rest.take 1023 }
  if getF s (unitHS st) 0x198 7 0 ≤ n then triggerRow s1 st r else s1

/-- Notes the symbol of a corrected error: the same symbol in another row of the bank makes its lane suspect (R347). -/
def noteSymbol (s : State) (st : Nat) (r : RowId) (symbol : Nat) : State :=
  let h := stackOf s st
  let again := h.symbols.any fun e => e.1.bank = r.bank && e.1 ≠ r && e.2 = symbol
  let s1 := setStack s st { h with symbols := (r, symbol) :: h.symbols.filter fun e => e.1 ≠ r }
  if again then raiseErr s1 (unitHS st) 24 else s1

/-- What the code finds in a sector that is read (R341): a corrected error is counted against its row; an uncorrectable one
poisons the sector, is reported to escrow at once and triggers its row (R349). -/
def applyEcc (s : State) (st off : Nat) (e : Ecc) : State :=
  match e with
  | .clean => s
  | .corrected bank row symbol => noteSymbol (countRow (noteCE s st off symbol) st ⟨bank, row⟩) st ⟨bank, row⟩ symbol
  | .uncorrectable bank row =>
    let a := physAddr s (stackAddr st off / 64 * 64)
    let s1 := if a ∈ s.poison then s else { s with poison := a :: s.poison }
    triggerRow (reportFault (noteUE s1 st off) (unitHS st) (poisonKind s (stackAddr st off))) st ⟨bank, row⟩

/-! ### Accesses -/

/-- Performs a memory request as a command of its own: its answer goes to the reply (R335 to R342, R358 to R361). A poisoned
sector is a detected fault for an engine or a peer, and poison for the host (R341). -/
def memAccess (req : MemReq) (s : State) : State :=
  if req.write then store s req.who req.part req.addr req.data
  else
    let r := load s req.who req.part req.addr req.len
    let s1 := { r.1 with reply := ⟨r.2.1, r.2.2⟩ }
    if r.2.2 ∧ req.who.ty ≠ 0x21 then
      match spotOf s req.addr 0 with
      | .stack st off => reportFault s1 (unitHS st) (poisonKind s (stackAddr st off))
      | _ => s1
    else s1

/-- An access whose partition may not borrow and has no tokens waits (R355). -/
def capWaits (s : State) (req : MemReq) : Bool :=
  match spotOf s req.addr 0 with
  | .stack st _ =>
    getF s (unitHS st) (0x100 + 8 * regulatorOf s st req.part) 17 17 = 1 && !inBudget s st req.part 1
  | _ => false

/-- An access that makes its stack controller read the sector first: a read, and a write of part of it (R341, R342). -/
def readsSector (req : MemReq) : Bool := !req.write || !wholeSector req.addr req.data.length

/-- A sector access at a stack controller (R341): what its code finds, then the access. -/
def stackAccess (s : State) (req : MemReq) (e : Ecc) : State :=
  match spotOf s req.addr 0 with
  | .stack st off =>
    if capWaits s req then s
    else if stackNames s st off ∧ readsSector req = true then
      let s1 := applyEcc s st off e
      if req.write then orWait s1 (memAccess req)
      else
        match e with
        | .uncorrectable _ _ =>
          let r := load s1 req.who req.part req.addr req.len
          { r.1 with reply := ⟨r.2.1, r.2.2⟩ }
        | _ => orWait s1 (memAccess req)
    else orWait s (memAccess req)
  | .nowhere => memAccess req s
  | _ => s

/-- A scrub read of one sector, outside the regulators (R341, R343). -/
def scrubRead (s : State) (st sector : Nat) (e : Ecc) : State :=
  let off := sector / 64 * 64
  if stackNames s st off then
    match e with
    | .clean => if poisonedAt s st off then noteUE s st off else s
    | _ => applyEcc s st off e
  else s

/-! ### Row sparing and page retirement (R348 to R351) -/

/-- The number a spare row goes by: beyond every row of the bank. -/
def spareRow (k : Nat) : Nat := 2 ^ 20 + k

/-- Removes what a stack keeps of a row once its trigger is dealt with. -/
def clearRow (h : Stack) (r : RowId) : Stack :=
  { h with triggers := h.triggers.filter (fun x => x ≠ r), ceRows := h.ceRows.filter fun e => e.1 ≠ r }

/-- Queues a flash record (R515). -/
def queueFlash (s : State) (type : Nat) (body : List Byte) : State := { s with flashDue := s.flashDue ++ [⟨type, body⟩] }

/-- Remaps the row of the first trigger into a free spare row of its bank (R349). -/
def rowRemap (s : State) (st : Nat) : State :=
  let h := stackOf s st
  match h.triggers with
  | [] => s
  | r :: _ =>
    let used := tblGet (fun _ => 0) h.spareRows r.bank
    if used < 8 ∧ stackServes s st = true then
      let h1 := clearRow { h with
        spareRows := tblSet (fun _ => 0) h.spareRows r.bank (used + 1)
        retiredSpares := if 2 ^ 20 ≤ r.row then r :: h.retiredSpares else h.retiredSpares } r
      let s1 := bump (raiseErr (setStack s st h1) (unitHS st) 18) (unitHS st) 0x1B0 31 16 1
      queueFlash s1 0x0002 (leBytes 4 st ++ leBytes 4 r.bank ++ leBytes 4 r.row ++ leBytes 4 (spareRow used))
    else s

/-- One page of a failing row: moved to a hidden spare page, or taken offline when none is left (R350, R351). Its record
holds the stack, the page, the LOST bit and, where firmware would take it from the stack's own map, the bank. -/
def retirePage (st bank page : Nat) (s : State) : State :=
  let u := unitHS st
  let h := stackOf s st
  let p := page / 4096 * 4096
  if h.movedPages.length < 8192 then
    let s1 := setStack s st { h with movedPages := p :: h.movedPages }
    let s2 := setF (raiseErr (bump s1 u 0x1B0 63 32 1) u 19) u 0x18 19 19 (bit (decide (8192 ≤ h.movedPages.length + 1)))
    let s3 := countRetired (setReg s2 u 0x1C0 (BitVec.ofNat 64 p)) 63 32 1
    queueFlash (pushAer (pushErr s3 (errRec s3 0x01 u (stackAddr st p))) false) 0x0003 (leBytes 4 st ++ leBytes 8 p ++ leBytes 4 (2 * bank))
  else
    let s1 := setStack s st { h with offline := p :: h.offline }
    let s2 := setReg (raiseErr s1 u 20) u 0x1C0 (putField (BitVec.ofNat 64 p) 63 63 1)
    let s3 := reportFault (pushAer (pushErr s2 (errRec s2 0x02 u (stackAddr st p))) true) u 0x81
    queueFlash s3 0x0003 (leBytes 4 st ++ leBytes 8 p ++ leBytes 4 (2 * bank + 1))

/-- Retires the pages of the first trigger's row, whose bank has no free spare row (R350). Which pages those are is the
stack's own map (R340): they are an operand. -/
def pageRetire (s : State) (st : Nat) (pages : List Nat) : State :=
  let h := stackOf s st
  match h.triggers with
  | [] => s
  | r :: _ =>
    if tblGet (fun _ => 0) h.spareRows r.bank < 8 ∨ stackServes s st = false then s
    else
      let s1 := if r.bank ∈ h.banksOut then s
        else bump (setStack s st { h with banksOut := r.bank :: h.banksOut }) (unitHS st) 0x1B0 15 0 1
      let s2 := foldOver (retirePage st r.bank) pages s1
      setStack s2 st (clearRow (stackOf s2 st) r)

/-! ### Vault banks -/

/-- An uncorrectable error in a bank's SRAM outside its lines (R366): recorded, and a detected fault. -/
def bankUE (s : State) (b : Nat) (inBuffer : Bool) : State :=
  let u := unitVB b
  if inBuffer then reportFault (raiseErr s u 17) u 0x02
  else reportFault (bump (raiseErr s u 1) u 0x40 63 32 1) u 0x02

/-- An access to a bank in scratchpad mode (R358, R366). -/
def vaultAccess (s : State) (req : MemReq) (ue : Bool) : State :=
  match spotOf s req.addr 0 with
  | .vault b _ =>
    let s1 := if ue ∧ bankServes s b = true then bankUE s b false else s
    memAccess req s1
  | .nowhere => if natField req.addr 63 60 = 2 then memAccess req s else s
  | _ => s

/-- An uncorrectable error in a cached line invalidates the line (R366). -/
def dropLine (s : State) (b addr : Nat) : State :=
  let v := bankOf s b
  if v.lines.any fun l => l.addr = addr then
    bump64 (setBank s b { v with lines := v.lines.filter fun l => l.addr ≠ addr }) (unitVB b) 0x140 1
  else s

/-- An access that passes a bank in cache mode (R359 to R361, R366, R367). -/
def cacheAccess (s : State) (req : MemReq) (ue : Bool) : State :=
  match spotOf s req.addr 0 with
  | .stack st off =>
    match bankFor s st (stackAddr st off / 64 * 64) with
    | some b => orWait (if ue then dropLine s b (stackAddr st off / 64 * 64) else s) (memAccess req)
    | none => s
  | .remote _ pool =>
    match remoteBank s pool with
    | some b => orWait (if ue then dropLine s b (pool / 64 * 64) else s) (memAccess req)
    | none => s
  | _ => s

/-- The enabled pool-cache region of a quarter (R369): the stack that holds it. -/
def pcacheStack (s : State) (q : Nat) : Option Nat :=
  ((List.range 3).map fun i => 3 * q + i).find? fun st => stackServes s st && getF s (unitHS st) 0x188 63 63 = 1

/-- Lines a pool-cache region holds (R369). -/
def pcacheLines (s : State) (st : Nat) : Nat := getF s (unitHS st) 0x190 36 0 / 4096 * 63

/-- An evicted remote line is offered to the pool-cache region of its quarter, and written or declined (R362, R370). -/
def offerLine (s : State) (b : Nat) (l : CacheLine) (pathBusy : Bool) : State :=
  match pcacheStack s (b / 4) with
  | some st =>
    if pathBusy ∨ l.epoch ≠ openEpoch s ∨ pcacheLines s st = 0 then bump s (unitVB b) 0x138 63 32 1
    else
      let kept := s.rem.pcache.filter fun x => x.addr ≠ l.addr
      let kept := kept.drop (kept.length + 1 - pcacheLines s st)
      bump { s with rem := { s.rem with pcache := kept ++ [l] } } (unitVB b) 0x138 31 0 1
  | none => bump s (unitVB b) 0x138 63 32 1

/-- Lines of a bank (R359). -/
def bankLines : Nat := 2097152

/-- Evicts the line a bank has chosen, if it holds it: a line of this device's HBM is dropped, a remote one is offered
(R362). -/
def evict (s : State) (b victim : Nat) (pathBusy : Bool) : State :=
  let v := bankOf s b
  match v.lines.find? fun l => l.addr = victim with
  | none => s
  | some l =>
    let s1 := setBank s b { v with lines := v.lines.filter fun x => x.addr ≠ victim }
    if natField victim 63 60 = 0 then offerLine s1 b l pathBusy else s1

/-- A fill allocates a line (R360): TAGS_VALID sets. -/
def allocLine (s : State) (b : Nat) (l : CacheLine) (victim : Nat) (pathBusy : Bool) : State :=
  let s1 := evict s b victim pathBusy
  let v := bankOf s1 b
  if (v.lines.any fun x => x.addr = l.addr) || decide (bankLines ≤ v.lines.length) then s1
  else setF (setBank s1 b { v with lines := v.lines ++ [l] }) (unitVB b) 0x18 25 25 1

/-- The sector of a fill as its stack returns it. -/
def sectorBytes (s : State) (a : Nat) : List Byte := (List.range 64).map fun k => rawByte s (physAddr s (a + k))

/-- A read miss's fill returns (R360, R367): from the stack, or for a cacheable remote line from its owner's answer. -/
def cacheFill (s : State) (addr victim : Nat) (pathBusy : Bool) : State :=
  let line := addr / 64 * 64
  match spotOf s line 0 with
  | .stack st off =>
    let a := stackAddr st off
    if stackNames s st off then
      match bankFor s st a with
      | some b => if (bankOf s b).lines.any fun l => l.addr = a then s else allocLine s b ⟨a, sectorBytes s a, 0⟩ victim pathBusy
      | none => s
    else s
  | .remote _ pool =>
    match remoteBank s pool, s.rem.got.find? fun g => g.2.1 = pool && !([0x02, 0x07, 0x08, 0x24].contains g.1.ty) with
    | some b, some g =>
      if (dirFind s pool).any (fun e => bitOf e.2.w0 62) then
        if (bankOf s b).lines.any fun l => l.addr = pool && l.epoch = openEpoch s then s
        else
          let s1 := setBank s b { bankOf s b with lines := (bankOf s b).lines.filter fun l => l.addr ≠ pool }
          allocLine s1 b ⟨pool, g.2.2, openEpoch s⟩ victim pathBusy
      else s
    | _, _ => s
  | _ => s

/-- CMD INVALIDATE (R364): only while the bank is disabled. -/
def invalidateStart (s : State) (b : Nat) : State :=
  let u := unitVB b
  if enabled s u then raiseErr s u 2 else setF s u 0x18 24 24 1

/-- The invalidation ends: no tag is valid (R364). -/
def invalidateDone (s : State) (b : Nat) : State :=
  let u := unitVB b
  if getF s u 0x18 24 24 = 1 then
    raiseInt (setF (setBank s b { bankOf s b with lines := [] }) u 0x18 25 24 0) u 18
  else s

/-- ORs flags into what an engine's front task has gathered, or into how it has ended. -/
def addFlags (s : State) (u : UnitId) (f : Nat) : State :=
  let e := engOf s u
  match e.done with
  | some x => setEng s u { e with done := some { x with flags := (x.flags ||| f) % 64 } }
  | none =>
    match e.work with
    | .ma r => setEng s u { e with work := .ma { r with flags := r.flags ||| f } }
    | .ge r => setEng s u { e with work := .ge { r with flags := r.flags ||| f } }
    | _ => s

/-- A contribution of a running task arrives at a bank (R36): consecutive elements from an offset on. -/
def accumulate (s : State) (bank off seq : Nat) (float : Bool) (values : List Nat) : State :=
  match taskOf s seq with
  | some t =>
    match t.place with
    | .till u _ =>
      if (engOf s u).tills.head? = some seq ∧ bank < 16 ∧ off + 4 * values.length ≤ bankBytes then
        let r := accumulateRow s u (vaultAddr bank (off / 4 * 4)) float values
        addFlags r.1 u r.2
      else s
    | _ => s
  | none => s

/-! ### Meanings -/

/-- STACK_ACCESS (R341). -/
def execStackAccess (req : MemReq) (ecc : Ecc) (s : State) : Host.Outcome State Fault Refusal := .next (stackAccess s req ecc)

/-- SCRUB_READ (R343). -/
def execScrubRead (stack sector : Nat) (ecc : Ecc) (s : State) : Host.Outcome State Fault Refusal := .next (scrubRead s stack sector ecc)

/-- ROW_REMAP (R349). -/
def execRowRemap (stack : Nat) (s : State) : Host.Outcome State Fault Refusal := .next (rowRemap s stack)

/-- PAGE_RETIRE (R350, R351). -/
def execPageRetire (stack : Nat) (pages : List Nat) (s : State) : Host.Outcome State Fault Refusal := .next (pageRetire s stack pages)

/-- VAULT_ACCESS (R358). -/
def execVaultAccess (req : MemReq) (ue : Bool) (s : State) : Host.Outcome State Fault Refusal := .next (vaultAccess s req ue)

/-- ACCUMULATE (R36). -/
def execAccumulate (bank offset seq : Nat) (float : Bool) (values : List Nat) (s : State) : Host.Outcome State Fault Refusal :=
  .next (accumulate s bank offset seq float values)

/-- CACHE_ACCESS (R359, R360). -/
def execCacheAccess (req : MemReq) (ue : Bool) (s : State) : Host.Outcome State Fault Refusal := .next (cacheAccess s req ue)

/-- CACHE_FILL (R360, R362). -/
def execCacheFill (addr victim : Nat) (pathBusy : Bool) (s : State) : Host.Outcome State Fault Refusal :=
  .next (cacheFill s addr victim pathBusy)

/-- MERGE_DRAIN (R361). -/
def execMergeDrain (bank : Nat) (ue : Bool) (s : State) : Host.Outcome State Fault Refusal :=
  .next (orWait s fun t =>
    if (bankOf t bank).buf.isEmpty then t else drainOldest (if ue then bankUE t bank true else t) bank)

/-- INVALIDATE (R364). -/
def execInvalidate (bank : Nat) (s : State) : Host.Outcome State Fault Refusal :=
  .next (if bank < 16 ∧ commandable s (unitVB bank) = true then invalidateStart s bank else s)

/-- INV_DONE (R364). -/
def execInvDone (bank : Nat) (s : State) : Host.Outcome State Fault Refusal :=
  .next (if bank < 16 then invalidateDone s bank else s)

end Sys2Proof.Machine
end

