-- ==== Sys2Proof/Machine/HostIf.lean ====
section
/-! DEFINITION. The host interface (R468 to R496): ring commands, doorbells, descriptor fetch, completion records, status lines
and their messages, MSI-X, the error ring, the HDM decoders and the CXL.mem window, IDE failures, and the function level
reset. -/

namespace Sys2Proof.Machine

open Sys2Proof

/-! ### Ring configuration (R476, R496) -/

def ringVector (r : Ring) : Nat := field r.cfg 26 16
def coalUs (r : Ring) : Nat := field r.cfg 63 48
def coalCount (r : Ring) : Nat := field r.cfg 47 32
def cqLog2 (r : Ring) : Nat := field r.cfg 12 8
def sqLog2 (r : Ring) : Nat := field r.cfg 4 0

/-- The distance from one free-running count to another. -/
def ahead (a b : Nat) : Nat := (a + 2 ^ 32 - b % 2 ^ 32) % 2 ^ 32

/-- The pair RING_IDX names. -/
def ringIdx (s : State) : Nat := getF s unitHI 0x100 7 0

/-! ### Ring commands (R483, R495) -/

/-- The causes that refuse an ENABLE of a pair. -/
def enableCauses (s : State) (r : Ring) : List Nat :=
  let on (c : Bool) (x : Nat) : List Nat := if c then [x] else []
  on (decide (16 < sqLog2 r ∨ 16 < cqLog2 r)) 0x0201 ++ on (decide (sqLog2 r < 6 ∨ cqLog2 r < 6)) 0x0202 ++
    on (coalCount r = 0) 0x0203 ++ on (r.stat.toNat % 64 ≠ 0) 0x0301 ++
    on (r.sq.toNat % 4096 ≠ 0 || r.cq.toNat % 4096 ≠ 0) 0x0302 ++ on (r.state ≠ 0) 0x0402 ++
    on (decide (getF s unitHI 0x1C0 11 0 ≤ ringVector r)) 0x0607 ++ on (!enabled s unitHI) 0x0801

/-- The RESULT of a command: strongbox mode first, then the lowest code that applies. -/
def ringResult (s : State) (causes : List Nat) : Nat := if strongbox s then 0x0701 else causes.headD 0

/-- ENABLE: the pointers take RING_START (R495). -/
def ringEnable (r : Ring) : Ring :=
  let c := r.start.toNat % 2 ^ 32
  { sq := r.sq, cq := r.cq, stat := r.stat, cfg := r.cfg, start := r.start, state := 1
    sqHead := c, sqTail := c, cqTail := c, cqHead := c, offer := c, lineDue := true }

/-- A draining pair reads disabled once every task admitted from it has been released and its records and its status line
are written (R483). -/
def ringDrained (s : State) (n : Nat) : Bool :=
  !(s.led.records.any fun x => x.ring % 256 = n) && (s.led.tasks.all fun t => t.ring % 256 ≠ n || t.released) &&
    !(ringOf s n).lineDue

/-- Looks whether a draining pair has drained. -/
def drainCheck (n : Nat) (s : State) : State :=
  let r := ringOf s n
  if r.state = 2 ∧ ringDrained s n = true then setRing s n { r with state := 0, held := 0 } else s

/-- DISABLE: fetching stops at once and the pair drains; a disabled pair stays so (R483). -/
def ringDisable (r : Ring) : Ring := if r.state = 0 then r else { r with state := 2, fetched := [], held := 7, lineDue := true }

/-- DONE and RESULT of RING_CMD. -/
def ringDone (s : State) (result : Nat) : State := setReg s unitHI 0x108 (putField (putField 0 63 63 1) 31 16 result)

/-- A write of HI RING_CMD (R495, R496). An OP of 0 or 3 is not defined: it changes no pair, and its RESULT is open. -/
def ringCommand (s : State) (op : Nat) : State :=
  let n := ringIdx s
  let r := ringOf s n
  match op with
  | 1 =>
    let x := ringResult s (enableCauses s r)
    ringDone (if x = 0 then setRing s n (ringEnable r) else s) x
  | 2 =>
    let x := ringResult s (if enabled s unitHI then [] else [0x0801])
    ringDone (if x = 0 then drainCheck n (setRing s n (ringDisable r)) else s) x
  | _ =>
    let a := drawFree s
    let b := drawFree a.1
    ringDone b.1 ((Config.freeByte a.2).toNat * 256 + (Config.freeByte b.2).toNat)

/-- A write to one of the addressed pair's registers, taken while the pair reads disabled (R495). -/
def ringWrite (s : State) (off : Nat) (mask v : Word) : State :=
  let n := ringIdx s
  let r := ringOf s n
  if r.state ≠ 0 then s
  else
    match off with
    | 0x110 => setRing s n { r with sq := mergeMask mask r.sq v }
    | 0x118 => setRing s n { r with cq := mergeMask mask r.cq v }
    | 0x120 => setRing s n { r with stat := mergeMask mask r.stat v }
    | 0x128 => setRing s n { r with cfg := mergeMask (mask &&& 0xFFFFFFFF07FF1F1F) r.cfg v }
    | 0x130 => setRing s n { r with start := mergeMask (mask &&& 0xFFFFFFFF) r.start v }
    | _ => s

/-! ### Doorbells (R478) -/

/-- A doorbell value that is not taken: DB_RANGE in the line and on the page. -/
def dbRange (s : State) (n : Nat) : State := raiseErr (setRing s n { ringOf s n with dbRange := true, lineDue := true }) unitHI 17

/-- A write of SQ_TAIL (R478). BAR2 writes are ignored until the device is ready and in strongbox mode (R493, R499). -/
def sqTailWrite (s : State) (n v : Nat) : State :=
  let r := ringOf s n
  let d := v % 2 ^ 32
  if linkUp s = false ∨ deviceReady s = false ∨ 256 ≤ n ∨ r.state = 0 then s
  else if ahead d r.sqHead ≤ 2 ^ sqLog2 r ∧ ahead r.sqTail r.sqHead ≤ ahead d r.sqHead then
    setRing s n { r with sqTail := d, dbRange := false, lineDue := true }
  else dbRange s n

/-- A write of CQ_HEAD (R478). -/
def cqHeadWrite (s : State) (n v : Nat) : State :=
  let r := ringOf s n
  let h := v % 2 ^ 32
  if linkUp s = false ∨ deviceReady s = false ∨ 256 ≤ n ∨ r.state = 0 then s
  else if ahead h r.cqHead ≤ ahead r.cqTail r.cqHead then
    setRing s n { r with cqHead := h, dbRange := false, lineDue := true }
  else dbRange s n

/-! ### Descriptor fetch (R475, R479, R484) -/

/-- The address of a submission slot. -/
def slotAddr (r : Ring) (c : Nat) : Nat := r.sq.toNat + c % 2 ^ sqLog2 r * 128

/-- The device cache holds a line shared; it keeps 4 MiB (R475). -/
def cacheLine (s : State) (a : Nat) : State :=
  let l := a / 64 * 64
  { s with hi := { s.hi with devCache := (l :: s.hi.devCache.filter fun x => x ≠ l).take 65536 } }

/-- A ring stops on a poisoned line or a link error (R484). -/
def ringFault (s : State) (n c : Nat) : State :=
  let r := ringOf s n
  let s1 := raiseErr (setRing s n { r with state := 3, faulted := true, lineDue := true }) unitHI 18
  pushErr s1 (errRec s1 0x0A ⟨0x21, 15, n⟩ (slotAddr r c))

/-- The next descriptor of a ring is fetched (R479). -/
def fetchNext (s : State) (n : Nat) (linkError : Bool) : State :=
  let r := ringOf s n
  let c := (r.offer + r.fetched.length) % 2 ^ 32
  if decide (n < 256) && r.state = 1 && deviceReady s && usable s unitHI && c ≠ r.sqTail && !contained s then
    if linkError then ringFault s n c
    else
      let a := slotAddr r c
      let s1 := cacheLine (cacheLine s a) (a + 64)
      bump64 (setRing s1 n { r with fetched := r.fetched ++ [hostBytes s a 128] }) unitHI 0x200 1
  else s

/-- The host writes a line of host memory, which snoops it out of the device cache (R475). -/
def snoopLine (s : State) (addr : Nat) (line : List Byte) : State :=
  let a := addr / 64 * 64
  let s1 := hostWrite s a (slice line 0 64)
  { s1 with hi := { s1.hi with devCache := s1.hi.devCache.filter fun x => x ≠ a } }

/-! ### Records, status lines and messages (R481, R482, R486) -/

/-- A write to host memory that fails on the link (R484). -/
def linkFault (s : State) : State := raiseErr (bump64 s unitHI 0x210 1) unitHI 18

/-- The oldest record of a ring goes to host memory, waits for room, or is discarded (R481). A contained device writes none
(R453). -/
def writeRecord (s : State) (n : Nat) (ok : Bool) : State :=
  let r := ringOf s n
  if contained s then s
  else
    match takeFirst (fun x => x.ring % 256 = n) s.led.records with
    | none => s
    | some (x, rest) =>
      let s1 := { s with led := { s.led with records := rest } }
      if r.state = 0 then bump64 s1 unitHI 0x210 1
      else if 2 ^ cqLog2 r ≤ ahead r.cqTail r.cqHead then s
      else if ok = false then drainCheck n (linkFault s1)
      else
        let s2 := bump64 (hostWrite s1 (r.cq.toNat + r.cqTail % 2 ^ cqLog2 r * 32) x.bytes) unitHI 0x208 1
        let k := r.unsignalled + 1
        setRing s2 n { r with
          cqTail := (r.cqTail + 1) % 2 ^ 32
          unsignalled := k
          firstAt := if r.unsignalled = 0 then now s else r.firstAt
          msgDue := r.msgDue || coalUs r = 0 || decide (coalCount r ≤ k)
          lineDue := true }

/-- The 64 bytes of a status line (R482). -/
def statusLine (s : State) (r : Ring) : List Byte :=
  leBytes 4 r.sqHead ++ leBytes 4 r.sqTail ++ leBytes 4 r.cqTail ++ leBytes 1 r.held ++
    leBytes 1 (bit r.dbRange + 2 * bit r.faulted) ++ zeros 2 ++ leBytes 6 (committed s) ++ zeros 2 ++ leBytes 8 (now s) ++ zeros 32

/-- A status line that is due is written, and then the message it announces is sent (R482, R486). -/
def writeLine (s : State) (n : Nat) (ok : Bool) : State :=
  let r := ringOf s n
  if decide (n < 256) && r.lineDue then
    let s1 := if ok then hostWrite s r.stat.toNat (statusLine s r) else linkFault s
    let s2 := setRing s1 n { r with lineDue := false, msgDue := false, unsignalled := if r.msgDue then 0 else r.unsignalled }
    drainCheck n (if r.msgDue then sendMsix s2 (ringVector r) else s2)
  else s

/-- COAL_US has passed since the first record of those not yet signalled (R486). -/
def coalesce (s : State) (n : Nat) : State :=
  let r := ringOf s n
  if n < 256 ∧ r.unsignalled ≠ 0 ∧ r.msgDue = false ∧ coalUs r ≠ 0 then
    setRing (timeUpTo s (r.firstAt + 1000 * coalUs r)) n { r with msgDue := true, lineDue := true }
  else s

/-- The host unmasks a vector: a message it held is sent (R485). -/
def msixUnmask (s : State) (v : Nat) : State :=
  let s1 := { s with hi := { s.hi with unmasked := if v ∈ s.hi.unmasked then s.hi.unmasked else v :: s.hi.unmasked } }
  if v ∈ s.hi.msixPending then
    sendMsix { s1 with hi := { s1.hi with msixPending := s1.hi.msixPending.filter fun x => x ≠ v } } v
  else s1

/-! ### The error ring (R489, R490) -/

/-- The error ring is in use. -/
def errOn (s : State) : Bool := enabled s unitHI && getF s unitHI 0x188 63 63 = 1

/-- Entries of the error ring, and its counts. -/
def errSize (s : State) : Nat := 2 ^ getF s unitHI 0x188 4 0
def errTail (s : State) : Nat := getF s unitHI 0x198 31 0
def errHead (s : State) : Nat := getF s unitHI 0x190 31 0

/-- The ring has room for a record. -/
def errRoom (s : State) : Bool := errOn s && decide (ahead (errTail s) (errHead s) < errSize s)

/-- STATUS ERR_FULL. -/
def errFull (s : State) : State := setF s unitHI 0x18 18 18 (bit (errOn s && !errRoom s))

/-- The 64 bytes of an error record (R490). -/
def errBytes (r : ErrRec) : List Byte :=
  leBytes 1 r.kind ++ zeros 1 ++ leBytes 2 (if r.kind = 6 ∨ r.kind = 7 ∨ r.kind = 9 then r.reason else 0) ++ leBytes 4 r.seq ++
    leBytes 8 r.time ++ leBytes 6 r.epoch ++ leBytes 2 r.device ++ leBytes 1 r.unit.q ++ leBytes 1 r.unit.ty ++
    leBytes 1 r.unit.i ++ zeros 1 ++ leBytes 4 r.count ++ leBytes 8 r.addr ++ zeros 24

/-- Records were dropped and room has returned: one LOST record goes before any other (R489). -/
def lostCheck (s : State) : State :=
  if s.hi.errDropped ≠ 0 ∧ errRoom s = true then
    let n := (s.hi.errSeq + 1) % 2 ^ 32
    let r := { errRec s 0x0B unitHI 0 with count := s.hi.errDropped, seq := n, time := now s }
    { s with hi := { s.hi with errSeq := n, errDropped := 0, errQueue := r :: s.hi.errQueue } }
  else s

/-- The next error record is written, with its message, or dropped (R485, R489). -/
def writeError (s0 : State) : State :=
  let s := lostCheck s0
  match s.hi.errQueue with
  | [] => s
  | r :: rest =>
    let s1 := { s with hi := { s.hi with errQueue := rest } }
    if errRoom s then
      let a := (getReg s unitHI 0x180).toNat + errTail s % errSize s * 64
      let s2 := setReg (hostWrite s1 a (errBytes r)) unitHI 0x198 (BitVec.ofNat 64 ((errTail s + 1) % 2 ^ 32))
      sendMsix (errFull s2) (getF s unitHI 0x188 26 16)
    else
      let s2 := { s1 with hi := { s1.hi with errDropped := s1.hi.errDropped + 1 } }
      errFull (raiseErr (bump64 s2 unitHI 0x1A0 1) unitHI 19)

/-- A write of HI ERR_HEAD (R489). -/
def errHeadWrite (s : State) (mask v : Word) : State :=
  errFull (lostCheck (setReg s unitHI 0x190 (mergeMask (mask &&& 0xFFFFFFFF) (getReg s unitHI 0x190) v)))

/-! ### HDM decoders (R471, R472) -/

/-- A decoder of the capability. -/
def decoderOf (s : State) (n : Nat) : Decoder := tblGet (fun _ => {}) s.hi.decoders n
def setDecoder (s : State) (n : Nat) (d : Decoder) : State :=
  { s with hi := { s.hi with decoders := tblSet (fun _ => {}) s.hi.decoders n d } }

/-- The DPA range a decoder would map overlaps that of another committed one. -/
def dpaTaken (s : State) (n dpa size : Nat) : Bool :=
  s.hi.decoders.any fun e => e.1 ≠ n && e.2.committed && decide (dpa < e.2.dpa + e.2.size ∧ e.2.dpa < dpa + size)

/-- A decoder commit (R472, R493). -/
def decoderCommit (s : State) (n ways base size : Nat) : State :=
  if linkUp s = false ∨ getF s unitHI 0x1C8 2 0 ≤ n then s
  else
    let dpa := getF s unitHI (0x1D0 + 8 * n) 40 28 * 2 ^ 28
    if ways ≠ 1 ∨ size % 2 ^ 28 ≠ 0 ∨ 12 * 2 ^ 37 < dpa + size ∨ dpaTaken s n dpa size = true ∨ enabled s unitHI = false ∨
        strongbox s = true then
      setDecoder s n { decoderOf s n with error := true }
    else setDecoder s n ⟨true, false, base, size, dpa⟩

/-- The DPA a host address maps to, when a committed decoder holds it. -/
def dpaOf (s : State) (hpa : Nat) : Option Nat :=
  (s.hi.decoders.find? fun e => e.2.committed && within e.2.base e.2.size hpa).map fun e => e.2.dpa + (hpa - e.2.base)

/-! ### The CXL.mem window (R446, R473) -/

/-- An access that names no memory: recorded and reported (R338, R473). -/
def windowMiss (s : State) (a : Nat) : State :=
  let s1 := noteUnmapped s unitHI a
  pushErr s1 (errRec s1 0x05 (unitHS (natField a 40 37)) a)

/-- A line of the window that names memory. -/
def windowMapped (s : State) (dpa : Nat) : Bool :=
  memActive s && decide (dpa / 2 ^ 37 < 12) && stackServes s (dpa / 2 ^ 37) && decide (dpa % 2 ^ 37 + 64 ≤ stackBytes)

/-- The read a host access makes of a line, in HOST_PART's partition. -/
def hostReq (s : State) (a : Nat) : MemReq := ⟨unitHI, getF s (unitHS (natField a 40 37)) 0x180 3 0, a, 64, false, []⟩

/-- A bank holds the line that a host reads (R359). -/
def hostHit (s : State) (a : Nat) : Bool := ((bankFor s (natField a 40 37) a).map fun b => bankHolds s b a).getD false

/-- What a host read of a line finds: a bank's copy, or the stack through its code (R341, R359). -/
def hostLineRead (s : State) (a : Nat) (ecc : Ecc) : State :=
  if hostHit s a then memAccess (hostReq s a) s else stackAccess s (hostReq s a) ecc

/-- A host CXL.mem read of a 64-byte line (R473): its bytes and its poison go to the reply. It waits while its partition may
not borrow and has no tokens (R355). -/
def windowRead (s : State) (hpa : Nat) (ecc : Ecc) : State :=
  match dpaOf s (hpa / 64 * 64) with
  | none => s
  | some dpa =>
    let a := 2 ^ 60 + dpa
    let s1 := bump64 s unitHI 0x218 1
    if windowMapped s dpa then
      if !hostHit s a && capWaits s (hostReq s a) then s
      else
        let s2 := hostLineRead s1 a ecc
        if s2.reply.poison then
          let s3 := raiseErr s2 unitHI 16
          pushErr s3 (errRec s3 0x04 (unitHS (natField a 40 37)) a)
        else s2
    else { (windowMiss s1 a) with reply := ⟨zeros 64, false⟩ }

/-- A host write to an escrowed region or an escrow area while an epoch is open or a recovery runs (R446). -/
def hostRefused (s : State) (a : Nat) : Bool :=
  (openEpoch s ≠ 0 || phase s = 4) && ((regionAt s a).isSome || escrowOwn s a)

/-- A host CXL.mem write within a 64-byte line (R446, R473). It waits for its point of coherence. -/
def windowWrite (s : State) (hpa : Nat) (data : List Byte) : State :=
  match dpaOf s hpa with
  | none => s
  | some dpa =>
    let a := 2 ^ 60 + dpa
    let bs := data.take (64 - hpa % 64)
    let s1 := bump64 s unitHI 0x220 1
    if windowMapped s (dpa / 64 * 64) = false then windowMiss s1 a
    else if hostRefused s a then
      let s2 := raiseErr (setReg (bump64 s1 unitEX 0x168 1) unitEX 0x170 (BitVec.ofNat 64 a)) unitEX 19
      pushErr s2 (errRec s2 0x03 (unitHS (natField a 40 37)) a)
    else
      let part := getF s (unitHS (natField a 40 37)) 0x180 3 0
      flushInvals (orWait s fun t => store (bump64 t unitHI 0x220 1) unitHI part a bs)

/-! ### IDE and the function level reset (R470, R492) -/

/-- STATUS IDE_ACTIVE follows the streams. -/
def ideStatus (s : State) : State := setF s unitHI 0x18 19 19 (bit (s.hi.ideIo = .secure && s.hi.ideMem = .secure))

/-- An integrity failure of a secure stream (R488, R492). -/
def ideFail (s : State) (mem : Bool) : State :=
  if (if mem then s.hi.ideMem else s.hi.ideIo) = .secure then
    let s1 := ideStatus { s with hi := if mem then { s.hi with ideMem := .insecure } else { s.hi with ideIo := .insecure } }
    let s2 := raiseErr s1 unitHI 20
    pushAer (pushErr s2 (errRec s2 0x0C unitHI 0)) true
  else s

/-- The registers of a page return to their reset values, but for those a test keeps. -/
def clearPage (s : State) (u : UnitId) (keep : Nat → Bool) : State :=
  { s with regs := s.regs.filter fun e => !within (pageOf u) 0x1000 e.1 || keep (e.1 - pageOf u) }

/-- What a reset of HI does to its rings, its error ring and its device cache (R470); with `msix`, to the MSI-X table too.
The link and the committed decoders stay. -/
def resetHostIf (s : State) (msix : Bool) : State :=
  let s1 := clearPage s unitHI fun off => off = 0x1F0 || (!msix && off = 0x38)
  { s1 with hi := { s1.hi with
      rings := []
      errQueue := []
      errDropped := 0
      devCache := []
      unmasked := if msix then [] else s1.hi.unmasked
      msixPending := if msix then [] else s1.hi.msixPending } }

/-! ### Meanings -/

/-- ENABLE (R495): of the pair RING_IDX names. -/
def execEnable (s : State) : Host.Outcome State Fault Refusal := .next (if commandable s unitHI then ringCommand s 1 else s)

/-- DISABLE (R483, R495). -/
def execDisable (s : State) : Host.Outcome State Fault Refusal := .next (if commandable s unitHI then ringCommand s 2 else s)

/-- SQ_TAIL (R478). -/
def execSqTail (ring tail : Nat) (s : State) : Host.Outcome State Fault Refusal := .next (sqTailWrite s ring tail)

/-- CQ_HEAD (R478). -/
def execCqHead (ring head : Nat) (s : State) : Host.Outcome State Fault Refusal := .next (cqHeadWrite s ring head)

/-- ERR_HEAD (R489). -/
def execErrHead (head : Nat) (s : State) : Host.Outcome State Fault Refusal :=
  .next (if commandable s unitHI then errHeadWrite s (BitVec.allOnes 64) (BitVec.ofNat 64 head) else s)

/-- MSIX_UNMASK (R485). -/
def execMsixUnmask (vector : Nat) (s : State) : Host.Outcome State Fault Refusal :=
  .next (if linkUp s then msixUnmask s vector else s)

/-- DECODER_COMMIT (R472). -/
def execDecoderCommit (n ways base size : Nat) (s : State) : Host.Outcome State Fault Refusal := .next (decoderCommit s n ways base size)

/-- IDE_FAIL (R492): of the CXL.cachemem stream or of the CXL.io stream. -/
def execIdeFail (mem : Bool) (s : State) : Host.Outcome State Fault Refusal := .next (ideFail s mem)

/-- CXL_MEM_READ (R473). -/
def execCxlMemRead (hpa : Nat) (ecc : Ecc) (s : State) : Host.Outcome State Fault Refusal := .next (windowRead s hpa ecc)

/-- CXL_MEM_WRITE (R446, R473). -/
def execCxlMemWrite (hpa : Nat) (data : List Byte) (s : State) : Host.Outcome State Fault Refusal := .next (windowWrite s hpa data)

/-- SUBMISSION_LINE_SNOOP (R475). -/
def execSubmissionLineSnoop (addr : Nat) (line : List Byte) (s : State) : Host.Outcome State Fault Refusal :=
  .next (snoopLine s addr line)

/-- DESCRIPTOR_FETCH (R479, R484). -/
def execDescriptorFetch (ring : Nat) (linkError : Bool) (s : State) : Host.Outcome State Fault Refusal :=
  .next (fetchNext s ring linkError)

/-- COMPLETION_RECORD (R481). -/
def execCompletionRecord (ring : Nat) (linkOk : Bool) (s : State) : Host.Outcome State Fault Refusal :=
  .next (if ring < 256 then writeRecord s ring linkOk else s)

/-- STATUS_LINE_WRITE (R482). -/
def execStatusLineWrite (ring : Nat) (linkOk : Bool) (s : State) : Host.Outcome State Fault Refusal := .next (writeLine s ring linkOk)

/-- RING_COALESCE (R486). -/
def execRingCoalesce (ring : Nat) (s : State) : Host.Outcome State Fault Refusal := .next (coalesce s ring)

/-- ERROR_RECORD (R489, R490). -/
def execErrorRecord (s : State) : Host.Outcome State Fault Refusal := .next (writeError s)

/-- FUNCTION_LEVEL_RESET (R470). -/
def execFunctionLevelReset (s : State) : Host.Outcome State Fault Refusal := .next (if linkUp s then resetHostIf s true else s)

end Sys2Proof.Machine
end

