-- ==== Sys2Proof/Machine/SyncMessages.lean ====
section
/-! DEFINITION. Time synchronisation over the links (R82, R394, R421): SYNC messages, the link-delay measurement, and the
election among grandmasters. How far a correction goes within R82's bounds, and the error bound that follows, are
operands. -/

namespace Sys2Proof.Machine

open Sys2Proof

/-! ### Messages -/

/-- A port of SYNC_PORTS that is up. -/
def syncPorts (s : State) : List Nat := (List.range 48).filter fun p => bitOf (getReg s unitTB 0x128) p && portUp s p

/-- The body of a SYNC message: DEVICE_ID, HOPS and the time of transmission. -/
def syncBody (device hops time : Nat) : List Byte := leBytes 2 device ++ leBytes 2 hops ++ leBytes 8 time

/-- The first arrived message that satisfies a test, and the state without it. -/
def takeMessage (s : State) (p : Message → Bool) : Option (Message × State) :=
  (takeFirst p s.fab.inbox).map fun r => (r.1, { s with fab := { s.fab with inbox := r.2 } })

/-- Sends SYNC on ports. -/
def sendSync (s : State) (device hops : Nat) (ports : List Nat) : State :=
  foldOver (fun p t => sendMessage t { type := 0x12, dest := getF t (unitKP p) 0x110 41 32, src := 0, body := syncBody device hops (now t) }
    (some p)) ports s

/-- The device acts as a follower: ROLE 2, or a grandmaster that has yielded to another. -/
def follows (s : State) : Bool := syncRole s = 2 || (syncRole s = 1 && s.tb.following)

/-- SYNC_STATUS SOURCE and HOPS. -/
def syncSource (s : State) : Nat := getF s unitTB 0x130 13 8
def syncHops (s : State) : Nat := getF s unitTB 0x130 23 16

/-- One INTERVAL (R421): a grandmaster sends SYNC on its ports, and resumes its role four intervals after it last heard the
one it yielded to; a follower measures the delay of the port that supplies its sync. -/
def syncTick (s : State) : State :=
  if enabled s unitTB then
    let s1 := if s.tb.following = true ∧ s.tb.lastSync + 4 * syncInterval s ≤ now s then
        { s with tb := { s.tb with following := false } } else s
    if syncRole s1 = 1 ∧ s1.tb.following = false then sendSync s1 (deviceId s1) 0 (syncPorts s1)
    else if follows s1 then
      let p := syncSource s1
      if portUp s1 p ∧ bitOf (getReg s1 unitTB 0x128) p = true then
        let s2 := sendMessage s1 { type := 0x13, dest := getF s1 (unitKP p) 0x110 41 32, src := 0, body := leBytes 8 (now s1) } (some p)
        { s2 with tb := { s2.tb with reqPort := p, reqAt := now s2 } }
      else s1
    else s1
  else s

/-- A follower takes a SYNC (R82, R421): its offset; on the first lock TIME is stepped to the grandmaster's, else only the
rate changes; it passes SYNC on. -/
def applySync (s : State) (m : Message) (errEst rate : Nat) : State :=
  let b := m.seg.body
  let hops := leAt b 2 2 + 1
  let off : Int := (m.at_ : Int) - (leAt b 4 8 : Int) - s.tb.linkDelay
  let s1 := setReg s unitTB 0x138 (BitVec.ofNat 64 (unsignedOf 32 off))
  let s2 := setF (setF (setF s1 unitTB 0x130 23 16 hops) unitTB 0x130 13 8 m.port) unitTB 0x130 1 1 0
  let s3 := { s2 with tb := { s2.tb with lastSync := now s2 } }
  let firstLock := !s.tb.lockedOnce && decide (errEst ≤ getF s unitTB 0x120 15 8)
  let s4 := if firstLock then
      raiseInt (setF (setTime s3 (unsignedOf 64 ((now s3 : Int) - off))) unitTB 0x130 2 2 1) unitTB 19
    else setReg s3 unitTB 0x148 (BitVec.ofNat 64 (unsignedOf 16 (max (-20000) (min 20000 (signedOf 16 rate)))))
  let s5 := setErrEst s4 errEst
  let s6 := sendSync s5 (leAt b 0 2) hops ((syncPorts s5).filter fun p => p ≠ m.port)
  if firstLock then timeStepped { s6 with tb := { s6.tb with lastSync := now s6 } } else s6

/-- A follower takes sync from the port with the lowest HOPS, then the lowest number; the present source may change its own
count, and any source does once the present one has been silent for four intervals (R421). -/
def takesFrom (s : State) (m : Message) : Bool :=
  let hops := leAt m.seg.body 2 2 + 1
  getF s unitTB 0x130 1 1 = 1 || getF s unitTB 0x140 15 0 = 0xFFFF || m.port = syncSource s ||
    decide (hops < syncHops s ∨ (hops = syncHops s ∧ m.port < syncSource s))

/-- A SYNC message arrives (R421). -/
def syncMessage (s : State) (errEst rate : Nat) : State :=
  match takeMessage s fun m => m.seg.type = 0x12 with
  | none => s
  | some (m, s1) =>
    if enabled s unitTB = false ∨ bitOf (getReg s unitTB 0x128) m.port = false then s1
    else if syncRole s1 = 2 then if takesFrom s1 m then applySync s1 m errEst rate else s1
    else if syncRole s1 = 1 then
      if leAt m.seg.body 0 2 = deviceId s1 then s1
      else
        let s2 := raiseErr s1 unitTB 16
        if leAt m.seg.body 0 2 < deviceId s2 then
          let s3 := { s2 with tb := { s2.tb with following := true } }
          if s1.tb.following = false ∨ takesFrom s3 m = true then applySync s3 m errEst rate else s3
        else s2
    else s1

/-- DELAY_REQ arrives: the answer carries its arrival and its own sending time (R421). -/
def delayReq (s : State) : State :=
  match takeMessage s fun m => m.seg.type = 0x13 with
  | none => s
  | some (m, s1) =>
    sendMessage s1
      { type := 0x14, dest := m.seg.src, src := 0, body := slice m.seg.body 0 8 ++ leBytes 8 m.at_ ++ leBytes 8 (now s1) } (some m.port)

/-- DELAY_RSP arrives: the link delay d = ((t4 - t1) - (t3 - t2)) / 2 (R421). -/
def delayRsp (s : State) : State :=
  match takeMessage s fun m => m.seg.type = 0x14 with
  | none => s
  | some (m, s1) =>
    let t1 := leAt m.seg.body 0 8
    if t1 = s1.tb.reqAt ∧ m.port = s1.tb.reqPort then
      let d : Int := (((m.at_ : Int) - t1) - ((leAt m.seg.body 16 8 : Int) - leAt m.seg.body 8 8)) / 2
      { s1 with tb := { s1.tb with linkDelay := d } }
    else s1

/-! ### Meanings -/

/-- SYNC_INTERVAL (R421). -/
def execSyncInterval (s : State) : Host.Outcome State Fault Refusal := .next (syncTick s)

/-- SYNC (R82, R421). -/
def execSync (errEst rate : Nat) (s : State) : Host.Outcome State Fault Refusal := .next (syncMessage s errEst rate)

/-- DELAY_REQ (R421). -/
def execDelayReq (s : State) : Host.Outcome State Fault Refusal := .next (delayReq s)

/-- DELAY_RSP (R421). -/
def execDelayRsp (s : State) : Host.Outcome State Fault Refusal := .next (delayRsp s)

end Sys2Proof.Machine
end

