-- ==== Sys2Proof/Machine/Clearing.lean ====
section
/-! DEFINITION. The clearing engines (R396 to R415): batches of remote reads and writes and their answers, invalidation
rounds, exchanges and migration. -/

namespace Sys2Proof.Machine

open Sys2Proof

/-! ### Batches (R410) -/

/-- The clearing engine that carries a quarter's remote accesses (R409, R451). -/
def servingCl (s : State) (q : Nat) : Option Nat :=
  if retired s (unitCL q) then (List.range 4).find? fun n => n ≠ q && usable s (unitCL n)
  else if usable s (unitCL q) then some q else none

/-- The ordering key of a clearing engine's messages (R395). -/
def clOrder (q : Nat) : Nat := 0x0700 + q

/-- The owner of a pool address as this device's directory has it. -/
def ownerOf (s : State) (pool : Nat) : Option Nat := (dirFind s pool).map fun e => field e.2.w0 25 16

/-- Stores the list of batches, with CL OPEN of each page. -/
def setBatches (s : State) (l : List Batch) : State :=
  let s1 := { s with fab := { s.fab with batches := l } }
  foldOver (fun q t => setReg t (unitCL q) 0x150 (BitVec.ofNat 64 (l.filter fun b => b.q = q && !b.sent).length)) (List.range 4) s1

/-- Counts a message that a clearing engine sends: rows' raw bytes and bytes with headers (R427). -/
def countSent (s : State) (q raw : Nat) (m : Seg) : State :=
  bump64 (bump64 s (unitCL q) 0x130 raw) (unitCL q) 0x138 (messageBytes m)

/-- Sends an open batch as one message (R410). -/
def sendBatch (s : State) (b : Batch) : State :=
  let m : Seg :=
    { type := if b.write then 0x03 else 0x01, dest := b.dest, src := 0, order := clOrder b.q
      tag := (b.entries.headD (unitPD, 0, 0)).2.1, body := b.body }
  let raw := if b.write then (b.entries.map fun e => e.2.2).foldl (· + ·) 0 else 0
  let s1 := countSent (sendMessage s m) b.q raw m
  let s2 := bump64 s1 (unitCL b.q) 0x140 1
  let s3 := if b.write then s2 else bump64 s2 (unitCL b.q) 0x120 b.entries.length
  setBatches s3 (s3.fab.batches.map fun x => if x.id = b.id then { x with sent := true } else x)

/-- A batch is due at once: its size, its entries, or a BATCH_NS of 0 (R410). -/
def batchDue (s : State) (b : Batch) : Bool :=
  decide (getF s (unitCL b.q) 0x100 31 16 ≤ b.body.length) || decide (256 ≤ b.entries.length) || getF s (unitCL b.q) 0x100 47 32 = 0

/-- The open batch of a destination and type; a new one sends the oldest early when 1,024 are open (R410). -/
def openBatch (s : State) (q dest : Nat) (write : Bool) : State × Batch :=
  match s.fab.batches.find? fun b => b.q = q && b.dest = dest && b.write = write && !b.sent with
  | some b => (s, b)
  | none =>
    let mine := s.fab.batches.filter fun b => b.q = q && !b.sent
    let s1 := if 1024 ≤ mine.length then (match mine.head? with | some o => sendBatch s o | none => s) else s
    let b : Batch := { id := s1.fab.nextId, q := q, dest := dest, write := write, firstAt := now s1 }
    (setBatches { s1 with fab := { s1.fab with nextId := s1.fab.nextId + 1 } } (s1.fab.batches ++ [b]), b)

/-- Adds an entry to its batch and sends the batch when it is due. -/
def addEntry (s : State) (q dest : Nat) (write : Bool) (e : UnitId × Nat × Nat) (data : List Byte) : State × Nat :=
  let r := openBatch s q dest write
  let entry := leBytes 8 e.2.1 ++ leBytes 4 e.2.2 ++ leBytes 4 (pageOf e.1 / 0x1000)
  let b : Batch := { r.2 with entries := r.2.entries ++ [e], body := r.2.body ++ entry ++ data }
  let s1 := setBatches r.1 (r.1.fab.batches.map fun x => if x.id = b.id then b else x)
  (if batchDue s1 b then sendBatch s1 b else s1, b.id)

/-- The quarter whose clearing engine a requester uses; blocks of the whole device use quarter 0. -/
def quarterFor (u : UnitId) : Nat := if u.q < 4 then u.q else 0

/-- Lines of the same requester that follow one another from the front of a list. -/
def lineRun (who : UnitId) : Nat → List (UnitId × Nat) → Nat
  | _, [] => 0
  | a, (w, b) :: t => if w = who ∧ b = a then 1 + lineRun who (a + 64) t else 0

/-- Takes wanted sectors into batches, one entry for each row: sectors of one requester that follow one another and share
their owner (R409, R410). -/
def collectReads : Nat → State → State
  | 0, s => s
  | n + 1, s =>
    match s.rem.wanted with
    | [] => s
    | (who, a) :: _ =>
      match servingCl s (quarterFor who), ownerOf s a with
      | none, _ => s
      | some _, none =>
        collectReads n { s with rem := { s.rem with wanted := s.rem.wanted.drop 1, missing := s.rem.missing ++ [(who, a)] } }
      | some q, some dest =>
        let run := lineRun who a s.rem.wanted
        let k := max 1 (((List.range run).takeWhile fun j => ownerOf s (a + 64 * j) = some dest).length)
        let lines := s.rem.wanted.take k
        let s1 := { s with rem := { s.rem with wanted := s.rem.wanted.drop k, asked := s.rem.asked ++ lines } }
        collectReads n (addEntry s1 q dest false (who, a, 64 * k) []).1

/-- Takes remote writes into batches (R396, R409). -/
def collectWrites : List RemoteWrite → State → State
  | [], s => s
  | w :: t, s =>
    if w.batch ≠ 0 then collectWrites t s
    else
      match servingCl s (quarterFor w.who), ownerOf s w.addr with
      | some q, some dest =>
        let r := addEntry s q dest true (w.who, w.addr, w.data.length) (rowRecord (getF s (unitCL q) 0x100 4 1) 0xFF w.data)
        collectWrites t { r.1 with rem := { r.1.rem with
          writes := r.1.rem.writes.map fun x => if x = w then { x with batch := r.2 } else x } }
      | some _, none => collectWrites t { s with rem := { s.rem with writes := s.rem.writes.filter fun x => x ≠ w } }
      | none, _ => collectWrites t s

/-- What waits for a clearing engine goes into batches, and invalidation rounds are sent; a contained device sends nothing
more (R453). -/
def collect (s : State) : State :=
  if contained s then s
  else
    let s1 := collectReads s.rem.wanted.length s
    flushInvals (collectWrites s1.rem.writes s1)

/-- BATCH_NS has passed since a batch's first entry (R410). -/
def batchTimeout (s0 : State) (id : Nat) : State :=
  let s := collect s0
  match s.fab.batches.find? fun b => b.id = id && !b.sent with
  | some b => if contained s then s else sendBatch (timeUpTo s (b.firstAt + getF s (unitCL b.q) 0x100 47 32)) b
  | none => s

/-! ### The owner's side (R396, R403) -/

/-- The requester that a peer's access is recorded as: a port of the quarter it came through (R372). -/
def peerUnit (p : Nat) : UnitId := unitKP p

/-- The partition a peer's access carries at the stack it falls in (R353). -/
def peerPart (s : State) (pool : Nat) : Nat :=
  match spotOf s pool 0 with
  | .stack st _ => getF s (unitHS st) 0x180 7 4
  | _ => 0

/-- The directory maps the whole of a row to this device (R403). -/
def ownsRow (s : State) (pool n : Nat) : Bool :=
  pool < 2 ^ 50 && ownerOf s pool = some (deviceId s) && ownerOf s (pool + (max 1 n - 1)) = some (deviceId s)

/-- Records a request for a row that is not this device's (R403). -/
def foreign (s : State) : State := raiseErr (bump64 s unitPD 0x198 1) unitPD 17

/-- Free bytes, where the spec says nothing of what they are. -/
def drawBytes (s : State) : Nat → State × List Byte
  | 0 => (s, [])
  | n + 1 =>
    let r := drawFree s
    let t := drawBytes r.1 n
    (t.1, Config.freeByte r.2 :: t.2)

/-- The record of a row as a clearing engine sends it: compressed under R398 when allowed, or for an MX format RAW with its
scale bytes and tags, whose place in the owner's memory the spec does not give (R399). -/
def rowOut (s : State) (mask fmt : Nat) (row : List Byte) : State × List Byte :=
  if isMx fmt then
    let r := drawBytes s (3 * (8 * row.length / wireBits fmt / 32))
    (r.1, recordOf 0 (row ++ r.2))
  else (s, rowRecord mask fmt row)

/-- Answers the entries of a READ_REQ (R392, R403): the state, the records so far, rows served and their bytes. -/
def serveRows (who : UnitId) (q fmt : Nat) : Nat → List Byte → State → List Byte → Nat → Nat → State × List Byte × Nat × Nat
  | 0, _, s, out, rows, raw => (s, out, rows, raw)
  | n + 1, bs, s, out, rows, raw =>
    if bs.length < 16 then (s, out, rows, raw)
    else
      let a := leAt bs 0 8
      let len := leAt bs 8 4
      if ownsRow s a len then
        let r := loadFor s who (peerPart s a) a len
        let o := rowOut r.1 (getF s (unitCL q) 0x100 4 1) fmt r.2
        serveRows who q fmt n (bs.drop 16) o.1 (out ++ o.2) (rows + 1) (raw + len)
      else serveRows who q fmt n (bs.drop 16) (foreign s) (out ++ missingRecord) rows raw

/-- A message that an engine of the port's quarter serves. -/
def servedHere (s : State) (type : Nat) (m : Message) : Bool := m.seg.type = type && usable s (unitCL (m.port / 12))

/-- READ_REQ (R403, R409, R410): one READ_RSP answers it. -/
def readReq (s : State) : State :=
  if contained s then s
  else
    match takeMessage s (servedHere s 0x01) with
    | none => s
    | some (m, s1) =>
      let q := m.port / 12
      let r := serveRows (peerUnit m.port) q m.seg.fmt (m.seg.body.length / 16) m.seg.body s1 [] 0 0
      let rsp : Seg := { type := 0x02, dest := m.seg.src, src := 0, order := m.seg.order, fmt := m.seg.fmt, tag := m.seg.tag, body := r.2.1 }
      countSent (bump64 (sendMessage r.1 rsp) (unitCL q) 0x128 r.2.2.1) q r.2.2.2 rsp

/-- Performs the rows of a WRITE_REQ: the state, rows accepted and rows discarded (R403). -/
def acceptRows (who : UnitId) (fmt : Nat) : Nat → List Byte → State → Nat → Nat → State × Nat × Nat
  | 0, _, s, ok, no => (s, ok, no)
  | n + 1, bs, s, ok, no =>
    if bs.length < 20 then (s, ok, no)
    else
      let a := leAt bs 0 8
      let len := leAt bs 8 4
      let rec_ := takeRecord (bs.drop 16)
      if ownsRow s a len then
        acceptRows who fmt n rec_.2.2 (store s who (peerPart s a) a (rowOfRecord rec_.1 fmt len rec_.2.1)) (ok + 1) no
      else acceptRows who fmt n rec_.2.2 (foreign s) ok (no + 1)

/-- The WRITE_ACK of a request (R392). -/
def writeAckSeg (dest order ok no : Nat) : Seg :=
  { type := 0x04, dest := dest, src := 0, order := order, body := leBytes 4 ok ++ leBytes 4 no }

/-- WRITE_REQ (R396, R403, R408): acknowledged once every row is accepted, which for a HOT extent is after its
invalidation round. -/
def writeReq (s : State) : State :=
  if contained s then s
  else
    match takeMessage s (servedHere s 0x03) with
    | none => s
    | some (m, s0) =>
      let who := peerUnit m.port
      let s1 := flushInvals s0
      let r := acceptRows who m.seg.fmt m.seg.body.length m.seg.body s1 0 0
      let mine (x : InvalRound) : Bool := x.who = who && !x.sent
      if r.1.rem.rounds.any mine then
        let tag := r.1.fab.nextId
        let ack : HeldAck := ⟨tag, m.seg.src, m.seg.order, m.seg.id, r.2.1, r.2.2⟩
        flushInvals { r.1 with
          rem := { r.1.rem with rounds := r.1.rem.rounds.map fun x => if mine x then { x with tag := tag } else x }
          fab := { r.1.fab with nextId := tag + 1, acks := r.1.fab.acks ++ [ack] } }
      else sendMessage r.1 (writeAckSeg m.seg.src m.seg.order r.2.1 r.2.2)

/-! ### Exchanges (R411 to R413) -/

/-- The exchange an engine runs: its task and its work. -/
def exchangeOf (s : State) (u : UnitId) : Option (Task × ClRun) :=
  if (engOf s u).done.isSome then none
  else
    match runningTask s u, (engOf s u).work with
    | some t, .cl r => if dClass t.desc = 7 ∧ dOp t.desc = 1 then some (t, r) else none
    | _, _ => none

/-- The clearing engine that runs the exchange of an EXCH_ID. -/
def exchangeBy (s : State) (exch : Nat) : Option (Nat × Task × ClRun) :=
  (List.range 4).findSome? fun q =>
    match exchangeOf s (unitCL q) with
    | some (t, r) => if leAt t.desc 40 4 = exch then some (q, t, r) else none
    | none => none

/-- A task of an EXCH_ID is still to run here. -/
def exchangeExpected (s : State) (exch : Nat) : Bool :=
  s.led.tasks.any fun t => t.ending.isNone && dClass t.desc = 7 && dOp t.desc = 1 && leAt t.desc 40 4 = exch

/-- A task of an EXCH_ID has ended here. -/
def exchangeEnded (s : State) (exch : Nat) : Bool :=
  s.led.tasks.any fun t => t.ending.isSome && dClass t.desc = 7 && dOp t.desc = 1 && leAt t.desc 40 4 = exch

/-- Stores the work of a clearing engine. -/
def setCl (s : State) (q : Nat) (r : ClRun) : State := setEng s (unitCL q) { engOf s (unitCL q) with work := .cl r }

/-- Every write of an engine has been accepted (R34, R396, R408). -/
def writesAccepted (s : State) (u : UnitId) : Bool := !(s.rem.writes.any fun w => w.who = u) && !roundPending s u

/-- An RTS or a CTS of an exchange (R412): rows offered; offset granted, or 1 for a refusal, 2 for BUSY. -/
def rtsSeg (dest q exch rows : Nat) : Seg :=
  { type := 0x07, dest := dest, src := 0, order := clOrder q, tag := exch, body := leBytes 4 rows }
def ctsSeg (dest q exch off code : Nat) : Seg :=
  { type := 0x08, dest := dest, src := 0, order := clOrder q, tag := exch, body := leBytes 8 off ++ leBytes 1 code }

/-- Grants or refuses the offer of a listed SRC that has not been answered (R412, R413): the new work, with the offset or
none for a refusal; none at all where the SRC is not listed. -/
def answerOffer (d : List Byte) (r : ClRun) (src rows : Nat) : Option (ClRun × Option Nat) :=
  match r.recvs.findIdx? fun x => x.src = src && x.grant.isNone && !x.done with
  | none => none
  | some k =>
    let need := r.granted + rows * leAt d 44 4
    if need ≤ leAt d 72 8 then
      some ({ r with granted := need, recvs := r.recvs.mapIdx fun j x =>
        if j = k then { x with grant := some (rows, r.granted) } else x }, some r.granted)
    else
      some ({ r with
        ending := if r.ending.isNone then some (0x0B, k % 256) else r.ending
        recvs := r.recvs.mapIdx fun j x => if j = k then { x with done := true } else x }, none)

/-- Takes an offer at the engine that runs its exchange: CTS with the grant, or the refusal with LAST_NEED (R412, R413). -/
def takeOffer (s : State) (q : Nat) (t : Task) (r : ClRun) (src rows : Nat) : State :=
  match answerOffer t.desc r src rows with
  | none => stray s q
  | some (r1, some off) => sendMessage (setCl s q r1) (ctsSeg src q (leAt t.desc 40 4) off 0)
  | some (r1, none) =>
    let s1 := setReg (setCl s q r1) (unitCL q) 0x118 (BitVec.ofNat 64 (r.granted + rows * leAt t.desc 44 4))
    sendMessage s1 (ctsSeg src q (leAt t.desc 40 4) 0 1)

/-- Ends an exchange whose sends and receives are all over, with its tally (R411, R412). -/
def finishExchange (s : State) (q : Nat) : State :=
  match exchangeOf s (unitCL q) with
  | none => s
  | some (t, r) =>
    if r.sends.all (fun x => x.stage = .done || x.stage = .refused) && r.recvs.all fun x => x.done then
      let s1 := engineTally s (leAt t.desc 80 2) 2 r.rows ⟨r.raw, 0⟩ ⟨r.wire, 0⟩ 0
      match r.ending with
      | some e => finishBad s1 (unitCL q) e.1 e.2 0
      | none => finishOk s1 (unitCL q) 0
    else s

/-- Acknowledges what has been written once its writes have been accepted, then ends the exchange if that was the last
(R412). -/
def clSettle (s : State) (q : Nat) : State :=
  match exchangeOf s (unitCL q) with
  | none => s
  | some (t, r) =>
    if writesAccepted s (unitCL q) then
      let due := r.recvs.filter fun x => x.ackDue
      let s1 := setCl s q { r with recvs := r.recvs.map fun x => if x.ackDue then { x with ackDue := false, done := true } else x }
      let ack (x : RecvLeg) (y : State) : State :=
        if x.src = deviceId y then y
        else sendMessage y { type := 0x06, dest := x.src, src := 0, order := clOrder q, tag := leAt t.desc 40 4
                             body := leBytes 4 ((x.grant.getD (0, 0)).1) }
      finishExchange (foldOver ack due s1) q
    else s

/-- Settles all four clearing engines. -/
def clSettleAll (s : State) : State := foldOver (fun q t => clSettle t q) (List.range 4) s

/-- Writes the rows of a delivery at the granted offset and fills the RECV_DIR entry (R412). -/
def deliverRows (s : State) (q : Nat) (t : Task) (k rows off : Nat) (data : List Byte) : State :=
  let d := t.desc
  let s1 := engineStore s (unitCL q) (partOf t) (leAt d 64 8 + off) data
  engineStore s1 (unitCL q) (partOf t) (leAt d 56 8 + 16 * k + 4) (leBytes 4 rows ++ leBytes 8 off)

/-- The entries of SEND_TABLE. -/
def readSends (s : State) (u : UnitId) (t : Task) : State × List SendLeg :=
  let n := leAt t.desc 36 2
  let r := engineLoad s u (partOf t) (leAt t.desc 48 8) (16 * n)
  (r.1, (List.range n).map fun k => ⟨leAt r.2 (16 * k) 2, leAt r.2 (16 * k + 4) 4, leAt r.2 (16 * k + 8) 8, .offered⟩)

/-- The SRCs of RECV_DIR. -/
def readRecvs (s : State) (u : UnitId) (t : Task) : State × List RecvLeg :=
  let n := leAt t.desc 38 2
  let r := engineLoad s u (partOf t) (leAt t.desc 56 8) (16 * n)
  (r.1, (List.range n).map fun k => { src := leAt r.2 (16 * k) 2 })

/-- The number of the first entry of a table that a test holds of. -/
def firstAt {α : Type} (p : α → Bool) (l : List α) : Option Nat := l.findIdx? p

/-- An element that stands earlier in its list. -/
def repeats (l : List Nat) : Bool := (List.range l.length).any fun k => (l.take k).contains (l.getD k 0)

/-- A device that a CL or CO task may name: this one, or one with a valid route entry (R415). -/
def reachable (s : State) (dev : Nat) : Bool := dev = deviceId s || hasRoute s dev

/-- Faults of an EXCHANGE (R411, R415). -/
def exchangeFaults (s : State) (u : UnitId) (t : Task) : List DescFault :=
  let d := t.desc
  let plain :=
    faultIf (leAt d 33 1 ≠ 0xFF && (elemOf (leAt d 33 1)).isNone) 0x02 33 ++
    alignFaults d [(44, 4), (48, 8), (56, 8), (64, 8)] ++
    faultIf (decide (1024 < leAt d 36 2)) 0x07 36 ++ faultIf (decide (1024 < leAt d 38 2)) 0x07 38 ++
    faultIf (decide (leAt d 44 4 < 64 ∨ 16384 < leAt d 44 4)) 0x07 44 ++ tileFaults d [48, 56, 64]
  let sends := if decide (leAt d 36 2 ≤ 1024) && !isTileForm (leAt d 48 8) then (readSends s u t).2 else []
  let recvs := if decide (leAt d 38 2 ≤ 1024) && !isTileForm (leAt d 56 8) then (readRecvs s u t).2 else []
  let noRoute (o : Option Nat) : List DescFault :=
    match o with
    | some k => [⟨0x0E, k % 256⟩]
    | none => []
  plain ++ faultIf (sends.any fun x => x.addr % 64 ≠ 0) 0x04 48 ++ faultIf (sends.any fun x => isTileForm x.addr) 0x09 48 ++
    faultIf (repeats (sends.map fun x => x.dest)) 0x07 48 ++ faultIf (repeats (recvs.map fun x => x.src)) 0x07 56 ++
    noRoute (firstAt (fun (x : SendLeg) => !reachable s x.dest) sends) ++
    noRoute (firstAt (fun (x : RecvLeg) => !reachable s x.src) recvs)

/-- A send to this device itself: granted, copied and done at once, or refused (R412, R413). -/
def localSend (q : Nat) (t : Task) (k : Nat) (x : SendLeg) (s : State) : State :=
  match exchangeOf s (unitCL q) with
  | none => s
  | some (_, r) =>
    let n := x.rows * leAt t.desc 44 4
    let leg (st : LegStage) (y : ClRun) : ClRun :=
      { y with sends := y.sends.mapIdx fun j z => if j = k then { z with stage := st } else z }
    match answerOffer t.desc r x.dest x.rows with
    | none => setCl (stray s q) q (leg .done r)
    | some (r1, none) =>
      let s1 := setReg s (unitCL q) 0x118 (BitVec.ofNat 64 (r.granted + n))
      setCl s1 q (leg .refused r1)
    | some (r1, some off) =>
      let i := (r1.recvs.findIdx? fun y => y.src = x.dest).getD 0
      let rd := engineLoad s (unitCL q) (partOf t) x.addr n
      let s1 := deliverRows rd.1 q t i x.rows off rd.2
      setCl s1 q (leg .done { r1 with recvs := r1.recvs.mapIdx fun j y => if j = i then { y with ackDue := true } else y })

/-- Starts an exchange (R412 step 1): the offers held for it are answered first, in arrival order, then an RTS goes to each
DEST. -/
def exchangeStart (u : UnitId) (t : Task) (s : State) : State :=
  if (engOf s u).work ≠ .none then s
  else
    let q := u.q
    let exch := leAt t.desc 40 4
    let sd := readSends s u t
    let rv := readRecvs sd.1 u t
    let s1 := setCl rv.1 q { sends := sd.2, recvs := rv.2 }
    let held := s1.fab.rts.filter fun x => x.exch = exch
    let rest := s1.fab.rts.filter fun x => x.exch ≠ exch
    let s2 := { s1 with fab := { s1.fab with rts := rest } }
    let s3 := foldOver (fun n y => setF y (unitCL n) 0x18 21 21 (bit (rest.any fun x => x.q = n))) (List.range 4) s2
    let answer (x : HeldRts) (y : State) : State :=
      match exchangeOf y u with
      | some (_, r) => takeOffer y q t r x.src x.rows
      | none => y
    let s4 := foldOver answer held s3
    let offer (kx : Nat × SendLeg) (y : State) : State :=
      if kx.2.dest = deviceId y then localSend q t kx.1 kx.2 y else sendMessage y (rtsSeg kx.2.dest q exch kx.2.rows)
    clSettle (foldOver offer (sd.2.mapIdx fun k x => (k, x)) s4) q

/-- RTS (R412): answered by the engine that runs the exchange, held for a task that has not started, answered BUSY when
the hold is full, or stray. -/
def rtsMessage (s : State) : State :=
  if contained s then s
  else
    match takeMessage s fun m => m.seg.type = 0x07 with
    | none => s
    | some (m, s1) =>
      let exch := m.seg.tag % 2 ^ 32
      let rows := leAt m.seg.body 0 4
      match exchangeBy s1 exch with
      | some (q, t, r) => clSettle (takeOffer s1 q t r m.seg.src rows) q
      | none =>
        let q := m.port / 12
        if exchangeEnded s1 exch ∧ exchangeExpected s1 exch = false then stray s1 q
        else if (s1.fab.rts.filter fun x => x.q = q).length < 4096 then
          setF { s1 with fab := { s1.fab with rts := s1.fab.rts ++ [⟨q, m.seg.src, exch, rows, m.seg.id⟩] } } (unitCL q) 0x18 21 21 1
        else sendMessage s1 (ctsSeg m.seg.src q exch 0 2)

/-- The rows of a send as records, with what they cost. -/
def packRows (mask fmt rowLen : Nat) : Nat → List Byte → State → State × List Byte
  | 0, _, s => (s, [])
  | n + 1, bs, s =>
    let r := rowOut s mask fmt (bs.take rowLen)
    let t := packRows mask fmt rowLen n (bs.drop rowLen) r.1
    (t.1, r.2 ++ t.2)

/-- A granted send (R412 step 3): one EXCH_DATA message. -/
def sendRows (s : State) (q : Nat) (t : Task) (r : ClRun) (k : Nat) (x : SendLeg) : State :=
  let d := t.desc
  let n := x.rows * leAt d 44 4
  let rd := engineLoad s (unitCL q) (partOf t) x.addr n
  let mask := if (leAt d 34 1).testBit 0 then getF s (unitCL q) 0x100 4 1 else 0
  let b := packRows mask (leAt d 33 1) (leAt d 44 4) x.rows rd.2 rd.1
  let m : Seg := { type := 0x05, dest := x.dest, src := 0, order := clOrder q, fmt := leAt d 33 1, tag := leAt d 40 4, body := b.2 }
  let s1 := countSent (sendMessage b.1 m) q n m
  setCl s1 q { r with
    rows := r.rows + x.rows
    raw := r.raw + n
    wire := r.wire + messageBytes m
    sends := r.sends.mapIdx fun j z => if j = k then { z with stage := .sent } else z }

/-- CTS (R412, R413): the rows go out, the DEST is skipped, or the offer waits to be made again. -/
def ctsMessage (s : State) : State :=
  if contained s then s
  else
    match takeMessage s fun m => m.seg.type = 0x08 with
    | none => s
    | some (m, s1) =>
      match exchangeBy s1 (m.seg.tag % 2 ^ 32) with
      | none => stray s1 (m.port / 12)
      | some (q, t, r) =>
        match r.sends.findIdx? fun x => x.dest = m.seg.src && x.stage = .offered with
        | none => stray s1 q
        | some k =>
          let leg (st : LegStage) : List SendLeg := r.sends.mapIdx fun j z => if j = k then { z with stage := st } else z
          match leAt m.seg.body 8 1 with
          | 0 =>
            match r.sends[k]? with
            | some x => sendRows s1 q t r k x
            | none => s1
          | 1 => clSettle (setCl s1 q { r with sends := leg .refused, ending := if r.ending.isNone then some (0x0B, k % 256) else r.ending }) q
          | _ => setCl s1 q { r with sends := leg (.busy (now s1)) }

/-- An offer refused as BUSY is made again 20 microseconds later (R412). -/
def rtsRetry (s : State) (q : Nat) : State :=
  if contained s then s
  else
    match exchangeOf s (unitCL q) with
    | none => s
    | some (t, r) =>
      let since (x : SendLeg) : Option Nat := match x.stage with | .busy a => some a | _ => none
      match r.sends.findIdx? fun x => (since x).isSome with
      | none => s
      | some k =>
        match r.sends[k]? with
        | none => s
        | some x =>
          let s1 := timeUpTo s ((since x).getD 0 + 20000)
          let s2 := setCl s1 q { r with sends := r.sends.mapIdx fun j z => if j = k then { z with stage := .offered } else z }
          sendMessage s2 (rtsSeg x.dest q (leAt t.desc 40 4) x.rows)

/-- The first block of an MX row whose tags differ (R399): block, data tag, scale tag. -/
def tagSlip (fmt rowLen : Nat) (body : List Byte) : Option (Nat × Nat × Nat) :=
  let blocks := 8 * rowLen / wireBits fmt / 32
  (List.range blocks).findSome? fun b =>
    let a := leAt body (rowLen + blocks + 2 * b) 1
    let c := leAt body (rowLen + blocks + 2 * b + 1) 1
    if a = c then none else some (b, a, c)

/-- Unpacks row records: the rows' bytes up to the first slip, and the slip with its block counted over the message (R399). -/
def unpackRows (fmt rowLen : Nat) : Nat → Nat → List Byte → List Byte × Option (Nat × Nat × Nat)
  | 0, _, _ => ([], none)
  | n + 1, done, bs =>
    let x := takeRecord bs
    let blocks := 8 * rowLen / wireBits fmt / 32
    match if isMx fmt then tagSlip fmt rowLen x.2.1 else none with
    | some (b, a, c) => ([], some (done * blocks + b, a, c))
    | none =>
      let r := unpackRows fmt rowLen n (done + 1) x.2.2
      (rowOfRecord x.1 fmt rowLen x.2.1 ++ r.1, r.2)

/-- Records a slip found in fabric traffic (R399). -/
def recordSlip (s : State) (q : Nat) (x : Nat × Nat × Nat) : State :=
  setReg s (unitCL q) 0x110 (putField (putField (putField 0 63 32 x.1) 31 24 x.2.1) 23 16 x.2.2)

/-- EXCH_DATA (R399, R412 step 4). -/
def exchData (s : State) : State :=
  if contained s then s
  else
    match takeMessage s fun m => m.seg.type = 0x05 with
    | none => s
    | some (m, s1) =>
      match exchangeBy s1 (m.seg.tag % 2 ^ 32) with
      | none => stray s1 (m.port / 12)
      | some (q, t, r) =>
        match r.recvs.findIdx? fun x => x.src = m.seg.src && x.grant.isSome && !x.done && !x.ackDue with
        | none => stray s1 q
        | some k =>
          let g := ((r.recvs[k]?).bind fun x => x.grant).getD (0, 0)
          let rows := unpackRows m.seg.fmt (leAt t.desc 44 4) g.1 0 m.seg.body
          match rows.2 with
          | some x =>
            let s2 := engineStore (recordSlip s1 q x) (unitCL q) (partOf t) (leAt t.desc 64 8 + g.2) rows.1
            finishBad s2 (unitCL q) 0x01 x.1 0
          | none =>
            let s2 := deliverRows s1 q t k g.1 g.2 rows.1
            clSettle (setCl s2 q { r with recvs := r.recvs.mapIdx fun j y => if j = k then { y with ackDue := true } else y }) q

/-- EXCH_ACK (R412 step 5). -/
def exchAck (s : State) : State :=
  match takeMessage s fun m => m.seg.type = 0x06 with
  | none => s
  | some (m, s1) =>
    match exchangeBy s1 (m.seg.tag % 2 ^ 32) with
    | none => stray s1 (m.port / 12)
    | some (q, _, r) =>
      match r.sends.findIdx? fun x => x.dest = m.seg.src && x.stage = .sent with
      | none => stray s1 q
      | some k => clSettle (setCl s1 q { r with sends := r.sends.mapIdx fun j z => if j = k then { z with stage := .done } else z }) q

/-! ### Answers to this device's requests (R396, R397) -/

/-- The batch that an answer belongs to: the oldest of its kind sent to that owner by the engine whose key it carries. -/
def answeredBatch (s : State) (m : Message) (write : Bool) : Option Batch :=
  s.fab.batches.find? fun b => b.sent && b.write = write && b.dest = m.seg.src && clOrder b.q = m.seg.order

/-- Gives an entry's row to its requester: each sector still asked for arrives, or is missing (R195, R397). -/
def giveRow (s : State) (who : UnitId) (addr len : Nat) (row : Option (List Byte)) : State :=
  foldOver (fun k t =>
    let a := addr + 64 * k
    if (who, a) ∈ t.rem.asked then
      match row with
      | some bs =>
        { t with rem := { t.rem with
            asked := t.rem.asked.filter fun x => x ≠ (who, a)
            got := t.rem.got ++ [(who, a, slice bs (64 * k) 64)] } }
      | none =>
        { t with rem := { t.rem with
            asked := t.rem.asked.filter fun x => x ≠ (who, a)
            missing := t.rem.missing ++ [(who, a)] } }
    else t) (List.range (ceilDiv len 64)) s

/-- Gives the records of an answer to the entries of its batch, in entry order; an MX row whose tags differ ends the answer
there, and the requester's task (R399). -/
def giveRows (q fmt : Nat) : List (UnitId × Nat × Nat) → List Byte → State → State
  | [], _, s => s
  | e :: t, bs, s =>
    let x := takeRecord bs
    if x.1 = 0xF then giveRows q fmt t x.2.2 (giveRow s e.1 e.2.1 e.2.2 none)
    else
      match if isMx fmt then tagSlip fmt e.2.2 x.2.1 else none with
      | some y =>
        let s1 := recordSlip s q y
        if (runningTask s1 e.1).isSome then finishBad s1 e.1 0x01 y.1 0 else s1
      | none => giveRows q fmt t x.2.2 (giveRow s e.1 e.2.1 e.2.2 (some (rowOfRecord x.1 fmt e.2.2 x.2.1)))

/-- READ_RSP (R388, R397): rows for requesters that still wait; an answer nobody waits for is stray. -/
def readRsp (s : State) : State :=
  match takeMessage s fun m => m.seg.type = 0x02 with
  | none => s
  | some (m, s1) =>
    match answeredBatch s1 m false with
    | none => stray s1 (m.port / 12)
    | some b =>
      let s2 := setBatches s1 (s1.fab.batches.filter fun x => x.id ≠ b.id)
      let awaited := b.entries.any fun e => s2.rem.asked.any fun x => x.1 = e.1 && within e.2.1 e.2.2 x.2
      if awaited then giveRows b.q m.seg.fmt b.entries m.seg.body s2 else stray s2 b.q

/-- WRITE_ACK (R396): the writes of its batch are complete. -/
def writeAck (s : State) : State :=
  match takeMessage s fun m => m.seg.type = 0x04 with
  | none => s
  | some (m, s1) =>
    match answeredBatch s1 m true with
    | none => stray s1 (m.port / 12)
    | some b =>
      let s2 := setBatches s1 (s1.fab.batches.filter fun x => x.id ≠ b.id)
      clSettleAll { s2 with rem := { s2.rem with writes := s2.rem.writes.filter fun w => w.batch ≠ b.id } }

/-! ### Invalidation (R408) -/

/-- INVAL: the replicas of the granules are freed, and the answer sent. -/
def invalMessage (s : State) : State :=
  match takeMessage s fun m => m.seg.type = 0x15 with
  | none => s
  | some (m, s1) =>
    let gs := (List.range (min 128 (m.seg.body.length / 8))).map fun k => leAt m.seg.body (8 * k) 8
    let s2 := foldOver (fun g t => freeGranule t g) gs s1
    sendMessage s2 { type := 0x16, dest := m.seg.src, src := 0, order := m.seg.order, tag := m.seg.tag, body := m.seg.body }

/-- Held WRITE_ACKs whose rounds are over go out. -/
def releaseAcks (s : State) : State :=
  let ready (a : HeldAck) : Bool := !s.rem.rounds.any fun r => r.tag = a.tag
  let s1 := { s with fab := { s.fab with acks := s.fab.acks.filter fun a => !ready a } }
  foldOver (fun a t => sendMessage t (writeAckSeg a.dest a.order a.taken a.dropped)) (s.fab.acks.filter ready) s1

/-- Takes one answer off the first round that waits for it. -/
def ackRound (src tag : Nat) : List InvalRound → List InvalRound
  | [] => []
  | r :: t =>
    if r.sent ∧ src ∈ r.waiting ∧ tag ∈ r.granules then
      let w := r.waiting.erase src
      if w.isEmpty then t else { r with waiting := w } :: t
    else r :: ackRound src tag t

/-- INVAL_ACK (R408). -/
def invalAck (s : State) : State :=
  match takeMessage s fun m => m.seg.type = 0x16 with
  | none => s
  | some (m, s1) =>
    clSettleAll (releaseAcks { s1 with rem := { s1.rem with rounds := ackRound m.seg.src m.seg.tag s1.rem.rounds } })

/-! ### Migration (R405) -/

/-- Faults of a MIGRATE (R411, R415). -/
def migrateFaults (d : List Byte) : List DescFault :=
  alignFaults d [(48, 8), (56, 8), (64, 8)] ++ tileFaults d [48] ++ faultIf (natField (leAt d 56 8) 63 60 ≠ 1) 0x09 56

/-- A piece of an extent goes to its new place: `k` bytes, `copied` bytes from its start (R405). -/
def migratePiece (u : UnitId) (t : Task) (copied k : Nat) (x : State) : State :=
  let src := leAt t.desc 48 8 + copied
  let rd := loadFor x u (partOf t) src k
  let y := store rd.1 u (partOf t) (leAt t.desc 56 8 + copied) rd.2
  { y with rem := { y.rem with
      got := y.rem.got.filter (fun g => !(g.1 = u && within src k g.2.1))
      missing := y.rem.missing.filter fun g => !(g.1 = u && within src k g.2) } }

/-- Copies the next piece of an extent, unless the copy has stopped to wait for a read (R405 step 1); forgets the sectors
used. -/
def migrateOne (u : UnitId) (t : Task) (x : State × ClRun × Bool) : State × ClRun × Bool :=
  let r := x.2.1
  let total := leAt t.desc 64 8
  if x.2.2 ∨ total ≤ r.copied then x
  else
    let k := min 4096 (total - r.copied)
    let y := migratePiece u t r.copied k { x.1 with rem := { x.1.rem with wait := false, full := none } }
    if y.rem.wait then
      let w := orWait x.1 (migratePiece u t r.copied k)
      ({ w with rem := { w.rem with wait := false, full := none } }, r, true)
    else (y, { r with copied := r.copied + k }, false)

/-- MIGRATE: copies, and ends when the whole extent has been copied (R405 step 2). -/
def migrate (u : UnitId) (t : Task) (s : State) : State :=
  let r0 := match (engOf s u).work with
    | .cl r => r
    | _ => {}
  let x := iter (fun _ y => migrateOne u t y) (leAt t.desc 64 8 / 4096 + 1) (s, r0, false)
  let r := x.2.1
  let s1 := setF (setCl x.1 u.q r) u 0x18 18 18 (bit (decide (r.copied < leAt t.desc 64 8)))
  if leAt t.desc 64 8 ≤ r.copied then finishOk s1 u 0 else s1

/-- Runs a front task that keeps what it has done when a part of it must wait. -/
def runParts (s : State) (u : UnitId) (op : Nat) (check : Task → List DescFault) (f : Task → State → State) : State :=
  match frontTask s u op with
  | none => s
  | some t =>
    match chooseFault (check t) with
    | some x => finishBad s u x.status x.detail 0
    | none => f t (startFront s u)

/-! ### Meanings -/

/-- BATCH_NS (R410). -/
def execBatchNs (batch : Nat) (s : State) : Host.Outcome State Fault Refusal := .next (batchTimeout s batch)

/-- EXCHANGE (R411, R412). -/
def execExchange (cl : Nat) (s : State) : Host.Outcome State Fault Refusal :=
  let u := unitCL cl
  .next (runFront (undefinedOp s u [1, 2]) u 1 (exchangeFaults s u) (exchangeStart u))

/-- MIGRATE (R405). -/
def execMigrate (cl : Nat) (s : State) : Host.Outcome State Fault Refusal :=
  .next (runParts s (unitCL cl) 2 (fun t => migrateFaults t.desc) (migrate (unitCL cl)))

/-- RTS_RETRY (R412). -/
def execRtsRetry (cl : Nat) (s : State) : Host.Outcome State Fault Refusal := .next (rtsRetry s cl)

/-- READ_REQ (R403, R409). -/
def execReadReq (s : State) : Host.Outcome State Fault Refusal := .next (orWait s readReq)

/-- READ_RSP (R397). -/
def execReadRsp (s : State) : Host.Outcome State Fault Refusal := .next (readRsp s)

/-- WRITE_REQ (R396, R403). -/
def execWriteReq (s : State) : Host.Outcome State Fault Refusal := .next (orWait s writeReq)

/-- WRITE_ACK (R396). -/
def execWriteAck (s : State) : Host.Outcome State Fault Refusal := .next (writeAck s)

/-- EXCH_DATA (R412). -/
def execExchData (s : State) : Host.Outcome State Fault Refusal := .next (orWait s exchData)

/-- EXCH_ACK (R412). -/
def execExchAck (s : State) : Host.Outcome State Fault Refusal := .next (exchAck s)

/-- RTS (R412). -/
def execRts (s : State) : Host.Outcome State Fault Refusal := .next (orWait s rtsMessage)

/-- CTS (R412, R413). -/
def execCts (s : State) : Host.Outcome State Fault Refusal := .next (orWait s ctsMessage)

/-- INVAL (R408). -/
def execInval (s : State) : Host.Outcome State Fault Refusal := .next (invalMessage s)

/-- INVAL_ACK (R408). -/
def execInvalAck (s : State) : Host.Outcome State Fault Refusal := .next (invalAck s)

end Sys2Proof.Machine
end

