-- ==== Sys2Proof/Machine/Approx.lean ====
section
/-! DEFINITION. The approximated functions of the vector engine (R119). The device's own value, `Config.approxValue`, is
taken wherever it lies within the bound of the exact result; the exact result is bracketed here in fixed point of 128
fraction bits, far finer than the bound. -/

namespace Sys2Proof.Machine

open Sys2Proof

/-! ### Fixed point -/

/-- One in fixed point of 128 fraction bits. -/
def fxOne : Int := 2 ^ 128

/-- The product of two fixed-point values. -/
def fxMul (a b : Int) : Int := a * b / fxOne

/-- The quotient of two fixed-point values. -/
def fxDiv (a b : Int) : Int := a * fxOne / b

/-- ln 2 and 2/√π, to forty decimals. -/
def fxLn2 : Int := 6931471805599453094172321214581765680755 * fxOne / 10 ^ 40
def fxTwoOverRootPi : Int := 11283791670955125738961589031215451716881 * fxOne / 10 ^ 40

/-- A finite value in fixed point. -/
def fxOf (neg : Bool) (m : Nat) (e : Int) : Int := floorShift (if neg then -(m : Int) else m) (e + 128)

/-- The nearest integer of a fixed-point value. -/
def fxRound (x : Int) : Int := (x + fxOne / 2) / fxOne

/-- The Taylor sum of e^r for a small r: term k and the sum so far. -/
def expTerms (r : Int) : Nat → Int × Int
  | 0 => (fxOne, fxOne)
  | k + 1 =>
    let p := expTerms r k
    let t := fxMul p.1 r / (k + 1 : Nat)
    (t, p.2 + t)

/-- e^(n·ln 2 + r) as an exact value. -/
def expParts (n r : Int) : ExactNum := .ofInt (expTerms r 45).2 (n - 128)

/-- e^x for x in fixed point. -/
def expOf (x : Int) : ExactNum :=
  let n := fxRound (fxDiv x fxLn2)
  expParts n (x - n * fxLn2)

/-- 2^x for x in fixed point. -/
def exp2Of (x : Int) : ExactNum :=
  let n := fxRound x
  expParts n (fxMul (x - n * fxOne) fxLn2)

/-- A value that is not negative in fixed point. -/
def fxNum (x : ExactNum) : Int :=
  match x with
  | .fin neg m e => fxOf neg m e
  | _ => 0

/-- The odd series of `t + t^3/3 + t^5/5 + …`: the power t^(2k+1), and the sum up to it. -/
def atanhTerms (t : Int) : Nat → Int × Int
  | 0 => (t, t)
  | k + 1 =>
    let p := atanhTerms t k
    let q := fxMul (fxMul p.1 t) t
    (q, p.2 + q / (2 * k + 3 : Nat))

/-- ln (m · 2^e) in fixed point, for a positive value. -/
def logOf (m : Nat) (e : Int) : Int :=
  let f := floorShift (m : Int) (128 - (m.log2 : Int))
  let k : Int := (m.log2 : Int) + e
  let big := decide (3 * fxOne ≤ 2 * f)
  let g := if big then f / 2 else f
  let k' := if big then k + 1 else k
  k' * fxLn2 + 2 * (atanhTerms (fxDiv (g - fxOne) (g + fxOne)) 60).2

/-- The alternating series of the error function: (−1)^k x^(2k+1)/k!, and the sum of the terms over 2k + 1. -/
def erfTerms (x : Int) : Nat → Int × Int
  | 0 => (x, x)
  | k + 1 =>
    let p := erfTerms x k
    let q := -(fxMul (fxMul p.1 x) x) / (k + 1 : Nat)
    (q, p.2 + q / (2 * k + 3 : Nat))

/-! ### The exact results, bracketed -/

/-- A magnitude with a sign. -/
def signedNum (neg : Bool) (x : ExactNum) : ExactNum := if neg then x.neg else x

/-- The function of an opcode at a finite value that is not 0. Beyond 200 in magnitude the exponentials have left FP32,
below 2^−20 the odd functions are their first term. -/
def approxRef (op : Nat) (neg : Bool) (m : Nat) (e : Int) : ExactNum :=
  let x := fxOf neg m e
  let a := fxOf false m e
  let huge := decide (7 < topExp m e)
  let tiny := decide (topExp m e < -20)
  match op with
  | 0x30 => if huge then (if neg then ExactNum.zero else .fin false 1 1000) else expOf x
  | 0x31 => if huge then (if neg then ExactNum.zero else .fin false 1 1000) else exp2Of x
  | 0x32 => .ofInt (logOf m e) (-128)
  | 0x33 => .ofInt (fxDiv (logOf m e) fxLn2) (-128)
  | 0x34 =>
    let k : Int := (m.log2 : Int) + 128
    .fin neg (pow2 k / m) (-k - e)
  | 0x35 =>
    let m' := if e % 2 = 0 then m else 2 * m
    let e' := if e % 2 = 0 then e else e - 1
    let k : Int := (m'.log2 : Int) + 128
    .fin false (isqrt (pow2 (2 * k) / m')) (-k - e' / 2)
  | 0x36 =>
    if tiny then .fin neg m e
    else if huge then .fin neg 1 0
    else
      let q := fxNum (expOf (-2 * a))
      signedNum neg (.ofInt (fxDiv (fxOne - q) (fxOne + q)) (-128))
  | 0x37 =>
    if huge then (if neg then ExactNum.zero else .fin false 1 0)
    else
      let y := expOf (-a)
      let q := fxOne + fxNum y
      if neg then
        match y with
        | .fin _ ym ye => .ofInt (fxDiv (ym : Int) q) ye
        | _ => ExactNum.zero
      else .ofInt (fxDiv fxOne q) (-128)
  | _ =>
    if tiny then .ofInt ((m : Int) * fxTwoOverRootPi * (if neg then -1 else 1)) (e - 128)
    else if 5 * fxOne ≤ a then .fin neg 1 0
    else signedNum neg (.ofInt (fxMul fxTwoOverRootPi (erfTerms a 160).2) (-128))

/-- The result of a function where it is a binary fraction; none where it is not (R117's INEXACT). -/
def approxExact (op m : Nat) (e : Int) (neg : Bool) : Option ExactNum :=
  let pow := isPow2 m
  let top := topExp m e
  match op with
  | 0x30 => if m = 0 then some (.fin false 1 0) else none
  | 0x31 =>
    if m = 0 then some (.fin false 1 0)
    else if 0 ≤ e ∨ m % pow2 (-e) = 0 then
      let n : Int := (m : Int) * pow2 e / pow2 (-e)
      if n < 1000 then some (.fin false 1 (if neg then -n else n)) else none
    else none
  | 0x33 => if pow then some (.ofInt top 0) else none
  | 0x34 => if pow then some (.fin neg 1 (-top)) else none
  | 0x35 => if pow && top % 2 = 0 then some (.fin false 1 (-top / 2)) else none
  | _ => none

/-- The bound of R119, widened by 2^−20 of itself to cover the bracket. -/
def approxBound (ref : ExactNum) : ExactNum :=
  match ref with
  | .fin _ m e => .fin false (2 ^ 20 + 1) ((if m = 0 ∨ topExp m e < -126 then -132 else topExp m e - 6) - 20)
  | _ => ExactNum.zero

/-- A code within the bound of the exact result. -/
def approxClose (ref : ExactNum) (c : Nat) : Bool :=
  let v := numOf32 c
  decide (c < 2 ^ 32) && v.isFin && ((v.add ref.neg).abs).le (approxBound ref)

/-- A function where R119 lists no special result. -/
def approxPlain (op code : Nat) (neg : Bool) (m : Nat) (e : Int) : Nat × Nat :=
  let ref := if m = 0 then .fin false 1 0 else approxRef op neg m e
  let r := to32 ref
  if (numOf32 r.1).isInf then r
  else
    let c := if approxClose ref (Config.approxValue op code) then Config.approxValue op code else r.1
    let v := numOf32 c
    let exact := match approxExact op m e neg with
      | some x => v.le x && x.le v
      | none => false
    (c, roundFlags false (!exact) (decide (c % 2 ^ 31 < 2 ^ 23)))

/-- An approximated function of an FP32 code: its result and its flags (R119). The reciprocal square root of −0, which
R119 does not list, follows the exact limit from R118's square root and division. -/
def approx (op code : Nat) : Nat × Nat :=
  match numOf32 code with
  | .nan => nanCode fp32
  | .inf neg =>
    match op with
    | 0x30 => if neg then (0, 0) else infCode fp32 false
    | 0x31 => if neg then (0, 0) else infCode fp32 false
    | 0x32 => if neg then nanCode fp32 else infCode fp32 false
    | 0x33 => if neg then nanCode fp32 else infCode fp32 false
    | 0x34 => (withSign fp32 neg 0, 0)
    | 0x35 => if neg then nanCode fp32 else (0, 0)
    | 0x37 => if neg then (0, 0) else (0x3F800000, 0)
    | _ => (withSign fp32 neg 0x3F800000, 0)
  | .fin neg m e =>
    match op with
    | 0x30 => approxPlain op code neg m e
    | 0x31 => approxPlain op code neg m e
    | 0x34 => if m = 0 then infCode fp32 neg else approxPlain op code neg m e
    | 0x35 =>
      if m = 0 then infCode fp32 neg
      else if neg then nanCode fp32
      else approxPlain op code neg m e
    | 0x36 => if m = 0 then (code, 0) else approxPlain op code neg m e
    | 0x37 => if m = 0 then (0x3F000000, 0) else approxPlain op code neg m e
    | 0x38 => if m = 0 then (code, 0) else approxPlain op code neg m e
    | _ =>
      if m = 0 then infCode fp32 true
      else if neg then nanCode fp32
      else if code = 0x3F800000 then (0, 0)
      else approxPlain op code neg m e

end Sys2Proof.Machine
end

