-- ==== Sys2Proof/Machine/Matrix.lean ====
section
/-! DEFINITION. The matrix arrays (R154 to R184): the descriptor's check, the operands as an array reads them, the cells of
a row tile, the residue check with its second run, partner and spares, and the drain to memory, to a dense tile or to the
coupled vector engine. -/

namespace Sys2Proof.Machine

open Sys2Proof

/-! ### Descriptor fields (R164) -/

def maSparse (d : List Byte) : Bool := (leAt d 35 1).testBit 0
def maSat (d : List Byte) : Bool := (leAt d 35 1).testBit 1
def maSums (d : List Byte) : Bool := (leAt d 35 1).testBit 2
def maOutFmt (d : List Byte) : Nat := natField (leAt d 36 1) 1 0
def maDest (d : List Byte) : Nat := natField (leAt d 36 1) 3 2
def maN (d : List Byte) : Nat := leAt d 37 1
def maM (d : List Byte) : Nat := leAt d 40 4
def maK (d : List Byte) : Nat := leAt d 44 4
def maTiles (d : List Byte) : Nat := ceilDiv (maM d) 128
def maFmt (b : Bool) (d : List Byte) : Nat := leAt d (if b then 34 else 33) 1
def maZp (b : Bool) (d : List Byte) : Nat := leAt d (if b then 39 else 38) 1
def maStride (b : Bool) (d : List Byte) : Nat := leAt d (if b then 52 else 48) 4
def maData (b : Bool) (d : List Byte) : Nat := leAt d (if b then 80 else 64) 8
def maAux (b : Bool) (d : List Byte) : Nat := leAt d (if b then 88 else 72) 8

/-- Both operands are on the integer path (R105). -/
def maInt (d : List Byte) : Bool := isIntFmt (maFmt false d) && isIntFmt (maFmt true d)

/-- Bytes of an output element (R168). -/
def maOutBytes (d : List Byte) : Nat := if maOutFmt d = 1 then 2 else 4

/-- Blocks of 32 K-steps in a row. -/
def maBlocks (d : List Byte) : Nat := ceilDiv (maK d) 32

/-- Bytes of one stored row of an operand; B in 2:4 form stores half its elements (R158). -/
def maRowBytes (b : Bool) (d : List Byte) : Nat :=
  let f := maFmt b d
  if b && maSparse d then
    if isMx f then maBlocks d * (2 * elemBits f) else rowBytes f (maK d / 2)
  else rowBytes f (maK d)

/-- An operand that uses its side record: MX, or integer with SUMS set (R160). -/
def maUsesAux (b : Bool) (d : List Byte) : Bool := isMx (maFmt b d) || (maSums d && maInt d && maAux b d ≠ 0)

/-- Bytes of the B panel (R162). -/
def maPanelBytes (d : List Byte) : Nat :=
  maN d *
    (maRowBytes true d + (if maSparse d then ceilDiv (maK d) 8 else 0) +
      (if isMx (maFmt true d) then 3 * maBlocks d
       else if maUsesAux true d then 2 * ceilDiv (maK d) 128 else 0))

/-! ### The check (R163 to R165, R181) -/

/-- An address a matrix or PIN task may not read: a tile's local memory other than its own pinned area (R163). -/
def maForbidden (u : UnitId) (a : Nat) : Bool :=
  isTileForm a && !(ownTile u a && decide (0x280000 ≤ natField a 21 0))

/-- A format code that FORMAT_MASK does not enable (R165). -/
def maFmtBad (s : State) (u : UnitId) (f : Nat) : Bool := !(matrixFmt f) || !(getReg s u 0x100).getLsbD f

/-- Faults of a matrix descriptor but for what its side records hold. -/
def maFaults (s : State) (u : UnitId) (d : List Byte) : List DescFault :=
  let fa := maFmt false d
  let fb := maFmt true d
  let toMem := decide (maDest d < 2)
  faultIf (maFmtBad s u fa) 0x02 33 ++ faultIf (maFmtBad s u fb) 0x02 34 ++ faultIf (maOutFmt d = 3) 0x02 36 ++
  faultIf ((isUint fa || isUint fb) && !maInt d) 0x03 34 ++
  faultIf (maOutFmt d = 2 && !maInt d) 0x03 36 ++
  faultIf (maDest d = 1 && maOutFmt d = 1) 0x03 36 ++
  faultIf (maSums d && !maInt d) 0x03 35 ++
  faultIf (!maSums d && (isUint fa || isUint fb)) 0x03 35 ++
  alignFaults d ([(48, 4), (52, 4), (64, 8), (72, 8), (80, 8), (88, 8)] ++
    (if maSparse d then [(56, 4), (96, 8)] else []) ++ (if toMem then [(60, 4), (104, 8)] else [])) ++
  faultIf (decide (maStride false d < maRowBytes false d)) 0x05 48 ++
  faultIf (decide (maStride true d < maRowBytes true d)) 0x05 52 ++
  faultIf (maSparse d && decide (leAt d 56 4 < ceilDiv (maK d) 8)) 0x05 56 ++
  faultIf (toMem && decide (leAt d 60 4 < maN d * maOutBytes d)) 0x05 60 ++
  faultIf (decide (maN d < 1 ∨ 128 < maN d)) 0x07 37 ++
  faultIf (decide (maM d < 1 ∨ 16777216 < maM d)) 0x07 40 ++
  faultIf (decide (maK d < 1 ∨ 16777216 < maK d) || (maSparse d && maK d % 4 ≠ 0)) 0x07 44 ++
  faultIf (maDest d = 3) 0x09 36 ++
  (([64, 72, 80, 88] ++ (if maSparse d then [96] else [])).flatMap fun f => faultIf (maForbidden u (leAt d f 8)) 0x09 f) ++
  faultIf (toMem && isTileForm (leAt d 104 8)) 0x09 104 ++
  faultIf (maDest d = 1 && !isTileForm (leAt d 104 8) &&
    !inScratchpad s (leAt d 104 8) ((maM d - 1) * leAt d 60 4 + maN d * 4)) 0x09 104

/-- Faults of a PIN descriptor (R163). -/
def pinFaults (u : UnitId) (d : List Byte) : List DescFault :=
  let len := leAt d 40 4
  alignFaults d [(40, 4), (80, 8), (104, 8)] ++
  faultIf (len = 0 || decide (0x180000 < len)) 0x07 40 ++
  faultIf (decide (len ≤ 0x180000 ∧ 0x180000 < leAt d 104 8 + len)) 0x07 104 ++
  faultIf (maForbidden u (leAt d 80 8)) 0x09 80

/-- Reads operand bytes for an array: `home` is the array whose pinned area the task's tile-local addresses name. -/
def maLoad (s : State) (u home : UnitId) (part a n : Nat) : State × List Byte :=
  if ownTile home a then (s, tileRead s home (natField a 21 0) n) else loadFor s u part a n

/-- Addresses inside the side record of an operand that name a forbidden local memory (R163). -/
def auxFaults (s : State) (u home : UnitId) (t : Task) (b : Bool) : State × List DescFault :=
  let d := t.desc
  let at_ := if b then 88 else 72
  if maUsesAux b d && maAux b d % 64 = 0 && !maForbidden home (maAux b d) then
    let r := maLoad s u home (partOf t) (maAux b d) 32
    let n := if isMx (maFmt b d) then 3 else 1
    (r.1, (List.range n).flatMap fun k => faultIf (maForbidden home (leAt r.2 (8 * k) 8)) 0x09 at_)
  else (s, [])

/-! ### Reading operands (R157 to R162) -/

/-- Reads `n` rows of an operand from row `r0`: its data, metadata, scales, tag planes and sums. -/
def readOperand (s : State) (u home : UnitId) (t : Task) (b : Bool) (r0 n : Nat) : State × Panel :=
  let d := t.desc
  let p := partOf t
  let rows (s0 : State) (base pitch len : Nat) : State × List (List Byte) :=
    (List.range n).foldl (fun r k =>
      let x := maLoad r.1 u home p (base + (r0 + k) * pitch) len
      (x.1, r.2 ++ [x.2])) (s0, [])
  let r1 := rows s (maData b d) (maStride b d) (maRowBytes b d)
  let r2 := if b && maSparse d then rows r1.1 (leAt d 96 8) (leAt d 56 4) (ceilDiv (maK d) 8) else (r1.1, [])
  if maUsesAux b d then
    let rec_ := maLoad r2.1 u home p (maAux b d) 32
    if isMx (maFmt b d) then
      let pitch := leAt rec_.2 24 4
      let x := rows rec_.1 (leAt rec_.2 0 8) pitch (maBlocks d)
      let y := rows x.1 (leAt rec_.2 8 8) pitch (maBlocks d)
      let z := rows y.1 (leAt rec_.2 16 8) pitch (maBlocks d)
      (z.1, ⟨r1.2, r2.2, x.2, y.2, z.2, []⟩)
    else
      let pitch := leAt rec_.2 8 8
      let segs := List.range (ceilDiv (maK d) 128)
      let sums := (List.range n).foldl (fun (r : State × List Int) k =>
        let x := segs.foldl (fun (q : State × Int) g =>
          let y := maLoad q.1 u home p (leAt rec_.2 0 8 + 2 * (g * pitch + r0 + k)) 2
          (y.1, q.2 + signedOf 16 (ofLE y.2))) (r.1, 0)
        (x.1, r.2 ++ [x.2])) (rec_.1, [])
      (sums.1, ⟨r1.2, r2.2, [], [], [], sums.2⟩)
  else (r2.1, ⟨r1.2, r2.2, [], [], [], []⟩)

/-- The first block of an operand whose tags differ: its number within the task and both tags (R180). -/
def panelSlip (d : List Byte) (r0 : Nat) (p : Panel) : Option (Nat × Nat × Nat) :=
  ((List.range p.dtags.length).flatMap fun k =>
    (List.range (maBlocks d)).filterMap fun j =>
      let x := (p.dtags.getD k []).getD j 0
      let y := (p.stags.getD k []).getD j 0
      if x = y then none else some ((r0 + k) * maBlocks d + j, x.toNat, y.toNat)).head?

/-! ### The cells (R102 to R107, R155 to R158) -/

/-- A group's part of a stored row: its elements as the cells take them, and its scale exponent. -/
structure Segment where
  xs : List ExactNum
  scale : Int
  deriving DecidableEq, Repr

/-- The groups of 32 K-steps of one row of an operand; a 2:4 row holds 16 elements per group. -/
def rowSegments (b : Bool) (d : List Byte) (p : Panel) (k : Nat) : List Segment :=
  let f := maFmt b d
  let half := b && maSparse d
  let per := if half then 16 else 32
  let total := if half then maK d / 2 else maK d
  let row := p.data.getD k []
  (List.range (maBlocks d)).map fun g =>
    let xs := (List.range (min per (total - per * g))).map fun j => offsetCode f (elemCode f row (per * g + j))
    let sc := ((p.scales.getD k []).getD g 0).toNat
    if isMx f then ⟨if sc = 0xFF then xs.map fun _ => .nan else xs, (sc : Int) - 127⟩
    else ⟨expand f xs, 0⟩

/-- The pairs of elements a group multiplies: position by position, or the positions a metadata row selects (R156, R158). -/
def groupPairs (sparse : Bool) (metaBytes : List Byte) (g : Nat) (a b : Segment) : List (ExactNum × ExactNum) :=
  if sparse then
    b.xs.mapIdx fun j x =>
      let grp := 8 * g + j / 2
      let nib := natField (metaBytes.getD (grp / 2) 0).toNat (4 * (grp % 2) + 3) (4 * (grp % 2))
      let pos := if j % 2 = 0 then nib % 4 else nib / 4
      (a.xs.getD (4 * (j / 2) + pos) ExactNum.zero, x)
  else a.xs.zip b.xs

/-- The offset zero point of an operand, 0 for a signed format (R103, R135). -/
def offsetZp (b : Bool) (d : List Byte) : Int :=
  match elemOf (maFmt b d) with
  | some (.uint n) => (maZp b d % 2 ^ n : Nat) - (2 ^ (n - 1) : Nat)
  | _ => 0

/-- The exact value of one cell at the end of a row tile, its zero-point correction added (R105, R106, R135). -/
def cellValue (d : List Byte) (pa pb : Panel) (i j : Nat) (as bs : List Segment) : ExactNum :=
  let groups := (as.zip bs).mapIdx fun g x => (x, groupPairs (maSparse d) (pb.metas.getD j []) g x.1 x.2)
  if maInt d then
    let acc := (groups.foldl (fun c x => addPairsInt c x.2) ({} : Accum)).acc
    let za := offsetZp false d
    let zb := offsetZp true d
    let fix := if maSums d then -zb * pa.sums.getD i 0 - za * pb.sums.getD j 0 + maK d * za * zb else 0
    .ofInt (acc + fix) 0
  else
    (groups.foldl (fun c x => addPairs c x.1.1.xs x.1.2.xs x.2 (x.1.1.scale + x.1.2.scale)) ({} : Accum)).value

/-- The cells of a row tile, row by row (R154). -/
def tileCells (d : List Byte) (pa pb : Panel) : List (List ExactNum) :=
  let bs := (List.range (maN d)).map fun j => rowSegments true d pb j
  (List.range pa.data.length).map fun i =>
    let as := rowSegments false d pa i
    bs.mapIdx fun j b => cellValue d pa pb i j as b

/-! ### The drain (R168, R169) -/

/-- One output value: its code, its flags and its exact value. -/
def drainValue (d : List Byte) (v : ExactNum) : Nat × Nat × ExactNum :=
  let f := roundTo fp32 (maSat d) v
  if maDest d = 2 ∨ maOutFmt d = 0 then (f.1, f.2, numOf32 f.1)
  else if maOutFmt d = 1 then
    let h := roundTo bf16 (maSat d) (numOf32 f.1)
    (h.1, f.2 ||| h.2, decodeFloat bf16 h.1)
  else
    let r := toIntRange (-(2 ^ 31)) (2 ^ 31 - 1) v
    (unsignedOf 32 r.1, r.2 &&& flagOverflow, .ofInt r.1 0)

/-- Where the row tile in progress starts, and its rows. -/
def tileRow (t : Nat) : Nat := 128 * t
def tileRows (d : List Byte) (t : Nat) : Nat := min 128 (maM d - 128 * t)

/-- The work of a matrix task on its array. -/
def maRunOf (s : State) (n : Nat) : MaRun :=
  match (engOf s (unitMA n)).work with
  | .ma r => r
  | _ => {}

/-- Writes it. -/
def setMaRun (s : State) (n : Nat) (r : MaRun) : State :=
  let u := unitMA n
  setEng s u { engOf s u with started := true, work := .ma r }

/-- The end of a matrix task: a task that hands tiles to a vector engine and ends with SCALE_SLIP or RESIDUE owes an end
marker (R284). -/
def maEndBad (s : State) (n : Nat) (t : Task) (status detail : Nat) : State :=
  let u := unitMA n
  let s1 := finishBad s u status detail (maRunOf s n).flags
  if maDest t.desc = 2 then setEng s1 u { engOf s1 u with markerDue := true } else s1

/-- Every value of the row tile has left the cells: the next tile is due, or the task is done, its maximum handed to its
tally slot before it reports (R167, R169). -/
def advanceTile (s : State) (n : Nat) (t : Task) : State :=
  let r := maRunOf s n
  if r.tile + 1 < maTiles t.desc then
    setMaRun s n { r with tile := r.tile + 1, phase := .fresh, cells := [], bad := [], limited := false, partner := none,
                          byArray := none }
  else
    finishOk (tallyMax (setMaRun s n { r with phase := .fresh, cells := [], partner := none, byArray := none })
      (leAt t.desc 112 2) r.best) (unitMA n) r.flags

/-- The larger of two maxima, the earlier among equals. -/
def betterMax (a b : Option (Dyadic × Nat)) : Option (Dyadic × Nat) :=
  match a, b with
  | none, y => y
  | x, none => x
  | some x, some y => if dyLt x.1 y.1 then some y else some x

/-- A row tile passes on array `by_` (R168): its flags and its largest value join the task's, and it drains to memory, into
the dense tile, or waits to be handed to the vector engine. -/
def drainTile (s : State) (n by_ : Nat) (t : Task) (cells : List (List ExactNum)) : State :=
  let d := t.desc
  let r := maRunOf s n
  let r0 := tileRow r.tile
  let outs := cells.map fun row => row.map (drainValue d)
  let flags := outs.flatten.foldl (fun f x => f ||| x.2.1) r.flags
  let vals := (outs.mapIdx fun i row => row.mapIdx fun j x => (x.2.2, (r0 + i) * maN d + j)).flatten
  let r1 := { r with flags := flags, best := betterMax r.best (largest vals), cells := cells, byArray := some by_ }
  let s1 := bump64 s (unitMA by_) 0x138 1
  let c := leAt d 104 8 + r0 * leAt d 60 4
  match maDest d with
  | 0 =>
    let s2 := writeRows (setMaRun s1 n r1) (unitMA by_) (partOf t) c (leAt d 60 4)
      (outs.map fun row => (row.map fun x => leBytes (maOutBytes d) x.1).flatten)
    advanceTile s2 n t
  | 1 =>
    let x := (outs.zipIdx).foldl (fun (q : State × Nat) row =>
      let y := accumulateRow q.1 (unitMA by_) (c + row.2 * leAt d 60 4) (maOutFmt d = 0) (row.1.map (·.1))
      (y.1, q.2 ||| y.2)) (s1, 0)
    advanceTile (setMaRun x.1 n { r1 with flags := flags ||| x.2 }) n t
  | _ => setMaRun s1 n { r1 with phase := .passed }

/-! ### Runs of a row tile -/

/-- The array whose pinned area the task's addresses name. -/
def maHome (n : Nat) (r : MaRun) : UnitId := unitMA (r.home.getD n)

/-- What one run of a row tile gives: a block whose tags differ, with its operand, or the cells. -/
inductive TileRun where
  | slip (operand block dtag stag : Nat)
  | cells (c : List (List ExactNum))
  deriving DecidableEq, Repr

/-- Runs the row tile in progress of array `n`'s task on array `by_` (R162, R167, R180): B from the held panel or afresh, A
through the staging buffer. -/
def runTile (s : State) (n by_ : Nat) (t : Task) : State × TileRun :=
  let r := maRunOf s n
  let d := t.desc
  let home := maHome n r
  let b := match r.panel with
    | some p => (s, p)
    | none => readOperand s (unitMA by_) home t true 0 (maN d)
  let s1 := if maPanelBytes d ≤ 1048576 then setMaRun b.1 n { r with panel := some b.2 } else b.1
  match panelSlip d 0 b.2 with
  | some x => (s1, .slip 1 x.1 x.2.1 x.2.2)
  | none =>
    let a := readOperand s1 (unitMA by_) home t false (tileRow r.tile) (tileRows d r.tile)
    match panelSlip d (tileRow r.tile) a.2 with
    | some x => (a.1, .slip 0 x.1 x.2.1 x.2.2)
    | none => (a.1, .cells (tileCells d a.2 b.2))

/-- A slip ends the task (R180). -/
def slipEnd (s : State) (n : Nat) (t : Task) (operand block dtag stag : Nat) : State :=
  let w : Word := putField (putField (putField (putField 0 63 32 block) 31 24 dtag) 23 16 stag) 0 0 operand
  maEndBad (setReg s (unitMA n) 0x128 w) n t 0x01 (block % 256)

/-! ### Residue checking, partners and spares (R173 to R177) -/

/-- Arrays of the quarter other than `n`, lowest first. -/
def quarterArrays (n : Nat) : List Nat := ((List.range 12).map fun i => n / 12 * 12 + i).filter fun x => x ≠ n

/-- An array that may run a tile for another (R175). -/
def partnerUsable (s : State) (p : Nat) : Bool := usable s (unitMA p) && !assayBusy s (unitMA p)

/-- The array that runs a tile at step 4, if any (R174, R175). -/
def choosePartner (s : State) (n : Nat) (t : Task) (r : MaRun) : Option Nat :=
  let own := if n % 2 = 0 then n + 1 else n - 1
  if r.home.isNone && partnerUsable s own then some own
  else if maDest t.desc = 2 then none
  else (quarterArrays n).find? (partnerUsable s)

/-- Writes a field of LAST_RESIDUE. -/
def lastResidue (s : State) (n hi lo v : Nat) : State := setF s (unitMA n) 0x120 hi lo v

/-- Records a mismatching run in LAST_RESIDUE (R174 step 1). -/
def noteMismatch (s : State) (n tile : Nat) (bad : List Nat) : State :=
  let first := bad.foldl min 127
  lastResidue (lastResidue (lastResidue (lastResidue (lastResidue s n 63 48 tile) n 23 16 first) n 15 8 (min 255 bad.length))
    n 39 32 0) n 7 0 0xFF

/-- An array counts a failed cross-check (R174 step 6). -/
def countCross (s : State) (n : Nat) : State :=
  lastResidue (raiseErr (bump s (unitMA n) 0x118 63 48 1) (unitMA n) 20) n 39 32 4

/-- Step 6: the task ends RESIDUE, and a detected fault goes to escrow. -/
def crossFail (s : State) (n : Nat) (partner : Option Nat) (t : Task) : State :=
  let r := maRunOf s n
  let s1 := countCross s n
  let s2 := match partner with
    | some p => { (countCross s1 p) with esc := { s1.esc with suspects := s1.esc.suspects ++ [unitMA p] } }
    | none => s1
  let s3 := reportFault (maEndBad s2 n t 0x08 (r.tile % 256)) (unitMA n) 0x01
  setF s3 (unitMA n) 0x18 20 20 0

/-- Step 4: the task pauses and a partner is chosen; without one, step 6 (R175). -/
def pauseTile (s : State) (n : Nat) (t : Task) (bad : List Nat) (limited : Bool) : State :=
  let r := maRunOf s n
  let s1 := raiseErr (bump s (unitMA n) 0x118 47 32 1) (unitMA n) 19
  match choosePartner s n t r with
  | none => crossFail s1 n none t
  | some p =>
    let s2 := setF (setF s1 (unitMA n) 0x18 20 20 1) (unitMA p) 0x18 21 21 1
    setMaRun (lastResidue s2 n 7 0 p) n { r with phase := .paused, bad := bad, limited := limited, partner := some p, cells := [] }

/-- The logical columns an array's spares serve (R183). -/
def sparedColumns (s : State) (n : Nat) : List Nat :=
  [getF s (unitMA n) 0x108 7 0, getF s (unitMA n) 0x108 15 8].filter fun c => c ≠ 0xFF

/-- Retires a column into the lower free spare (R176). -/
def spareColumn (n c : Nat) (s : State) : State :=
  let u := unitMA n
  let k := if getF s u 0x108 7 0 = 0xFF then 0 else 1
  let s1 := raiseInt (raiseErr (setF s u 0x108 (8 * k + 7) (8 * k) c) u 3) u 21
  let s2 := countRetired s1 15 8 1
  { s2 with flashDue := s2.flashDue ++ [⟨0x0001, leBytes 2 n ++ leBytes 1 k ++ leBytes 1 c⟩] }

/-- The task of a retired array goes on on the array that passed its tile (R174 step 5, R175). -/
def takeOver (s : State) (n p : Nat) (t : Task) : State :=
  let u := unitMA p
  let run := { maRunOf s n with home := some ((maRunOf s n).home.getD n) }
  let since := match t.place with
    | .till _ c => c
    | _ => 0
  let s1 := retireUnit (setTask (dropFromTill s (unitMA n) t.seq) { t with place := .till u since }) (unitMA n)
  let e := engOf s1 u
  let tills := if e.started then e.tills.take 1 ++ [t.seq] ++ e.tills.drop 1 else t.seq :: e.tills
  setEng s1 u { e with tills := tills, takeovers := e.takeovers ++ [(t.seq, run)] }

/-- What becomes of the columns of the last mismatching run once the partner's run has passed (R174 step 5, R183). -/
def handleColumns (s : State) (n p : Nat) (t : Task) (bad : List Nat) (limited : Bool) : State :=
  let spared := sparedColumns s n
  let need := if limited then bad.filter fun c => !spared.contains c else bad
  if need.isEmpty then lastResidue s n 39 32 5
  else if need.length + spared.length ≤ 2 then lastResidue (foldOver (spareColumn n) need s) n 39 32 2
  else
    let s1 := lastResidue s n 39 32 3
    if (engOf s1 (unitMA n)).done.isSome then retireUnit s1 (unitMA n) else takeOver s1 n p t

/-! ### Steps -/

/-- A tile accepted from another array, or held in this array's cells for another task, comes before this array's next row
tile (R174, R175). -/
def cellsTaken (s : State) (n : Nat) : Bool :=
  (quarterArrays n).any fun m =>
    let r := maRunOf s m
    (r.phase = .paused && r.partner = some n) || ((r.phase = .passed || r.phase = .held) && r.byArray = some n)

/-- The work that a takeover left for the task in front is taken up when it starts (R175). -/
def maBegin (s : State) (n : Nat) (t : Task) : State :=
  let u := unitMA n
  let e := engOf s u
  match e.takeovers.find? fun x => x.1 = t.seq with
  | some x => setEng s u { e with work := .ma x.2, takeovers := e.takeovers.filter fun y => y.1 ≠ t.seq }
  | none => s

/-- Computes the row tile in progress; the first run of a task checks its descriptor and side records first (R181). -/
def matmulStep (s : State) (n : Nat) : State :=
  let u := unitMA n
  match frontTask s u 1 with
  | none => s
  | some t =>
    if cellsTaken s n then s
    else
      engineWork s u fun s0 =>
        let s1 := maBegin s0 n t
        let go (x : State) : State :=
          if (maRunOf x n).phase = .fresh then
            let r := runTile x n n t
            match r.2 with
            | .slip o b dt st => slipEnd r.1 n t o b dt st
            | .cells c => setMaRun r.1 n { maRunOf r.1 n with phase := .ran, cells := c }
          else x
        match (engOf s1 u).work with
        | .ma _ => go s1
        | _ =>
          let a := auxFaults s1 u u t false
          let b := auxFaults a.1 u u t true
          match chooseFault (maFaults s1 u t.desc ++ a.2 ++ b.2) with
          | some x => finishBad b.1 u x.status x.detail 0
          | none => go (setMaRun b.1 n {})

/-- Runs drain work that may have to wait: OUT_WAIT sets (R179). -/
def drainWork (s : State) (u : UnitId) (f : State → State) : State :=
  let t := f { s with rem := { s.rem with wait := false, full := none } }
  if t.rem.wait then setF (orWait s f) u 0x18 19 19 1 else setF t u 0x18 19 19 0

/-- The check at the end of a row tile (R168, R173): it drains when no column mismatches. -/
def rowTileCheck (s : State) (n : Nat) (bad : List Nat) : State :=
  match frontTask s (unitMA n) 1 with
  | none => s
  | some t =>
    let r := maRunOf s n
    if r.phase ≠ .ran then s
    else if bad.isEmpty then drainWork s (unitMA n) fun x => drainTile x n n t r.cells
    else setMaRun (noteMismatch s n r.tile bad) n { r with phase := .again, bad := bad, cells := [] }

/-- The second run of a row tile (R174 steps 2 to 4). -/
def residueRecompute (s : State) (n : Nat) (bad : List Nat) : State :=
  let u := unitMA n
  match frontTask s u 1 with
  | none => s
  | some t =>
    if (maRunOf s n).phase ≠ .again then s
    else
      engineWork s u fun s0 =>
        let x := runTile s0 n n t
        match x.2 with
        | .slip o b dt st => slipEnd x.1 n t o b dt st
        | .cells c =>
          let r := maRunOf x.1 n
          if bad.isEmpty then
            let e := engOf x.1 u
            let s1 := setEng (raiseErr (bump x.1 u 0x118 31 0 1) u 18) u { e with transients := e.transients + 1 }
            if e.transients + 1 < getF s1 u 0x110 7 0 then drainTile (lastResidue s1 n 39 32 1) n n t c
            else pauseTile s1 n t r.bad true
          else pauseTile (noteMismatch x.1 n r.tile bad) n t bad false

/-- The partner's run (R174 steps 5 and 6), once its own row tile has drained. -/
def partnerRun (s : State) (n : Nat) (bad : List Nat) : State :=
  match frontTask s (unitMA n) 1, (maRunOf s n).partner with
  | some t, some p =>
    let r := maRunOf s n
    let q := maRunOf s p
    let free := (q.phase = .fresh || q.phase = .paused) &&
      !((quarterArrays p).any fun m => (maRunOf s m).byArray = some p &&
        ((maRunOf s m).phase = .passed || (maRunOf s m).phase = .held))
    if r.phase ≠ .paused ∨ free = false then s
    else
      drainWork s (unitMA n) fun s0 =>
        let x := runTile s0 n p t
        let s1 := setF (setF x.1 (unitMA n) 0x18 20 20 0) (unitMA p) 0x18 21 21 0
        match x.2 with
        | .slip o b dt st => slipEnd s1 n t o b dt st
        | .cells c =>
          if bad.isEmpty then handleColumns (drainTile s1 n p t c) n p t r.bad r.limited
          else crossFail s1 n (some p) t
  | _, _ => s

/-- A PIN task copies its bytes into the array's pinned area (R163). -/
def pinRun (u : UnitId) (t : Task) (s : State) : State :=
  let d := t.desc
  let r := maLoad s u u (partOf t) (leAt d 80 8) (leAt d 40 4)
  finishOk (tileWrite r.1 u (0x280000 + leAt d 104 8) r.2) u 0

/-! ### Handing tiles to the vector engine (R281, R283) -/

/-- Tiles an array has handed over. -/
def tilesOf (s : State) (n : Nat) : List Tile := tblGet (fun _ => []) s.vq n

/-- Writes them, with Q0 or Q1 of the vector engine's STATUS (R296). -/
def setTiles (s : State) (n : Nat) (l : List Tile) : State :=
  let v := unitVE (n / 2)
  let lo := if n % 2 = 0 then 22 else 24
  setF { s with vq := tblSet (fun _ => []) s.vq n l } v 0x18 (lo + 1) lo
    (l.filter fun t => !t.held && t.marker.isNone).length

/-- DEV BEHAVIOUR LEVEL (R75). -/
def behaviourLevel (s : State) : Nat := getF s unitDEV 0x118 7 0

/-- An array hands over a tile that has passed (R168, R283): into its queue while that has room, or, where the engine reads
the accumulators directly, held in the cells. While the queue is full, or the cells are held, its drain waits (R167, R179). -/
def tileHandoff (s : State) (n : Nat) : State :=
  match frontTask s (unitMA n) 1 with
  | none => s
  | some t =>
    let r := maRunOf s n
    if r.phase ≠ .passed then s
    else
      let held := behaviourLevel s = 2
      let tile : Tile :=
        { task := dTaskId t.desc, number := r.tile, count := maTiles t.desc, held := held
          vals := r.cells.map fun row => row.map fun v => (drainValue t.desc v).1 }
      let q := tilesOf s n
      if held then setF (setMaRun (setTiles s n (q ++ [tile])) n { r with phase := .held }) (unitMA n) 0x18 19 19 1
      else if (q.filter fun x => x.marker.isNone).length < 2 then advanceTile (setTiles s n (q ++ [tile])) n t
      else setF s (unitMA n) 0x18 19 19 1

/-- The head tile of an array is released (R283): a queue entry frees, or the array that held it in its cells goes on. -/
def releaseTile (s : State) (n : Nat) : State :=
  match tilesOf s n with
  | [] => s
  | x :: rest =>
    let s1 := setF (setTiles s n rest) (unitMA n) 0x18 19 19 0
    if x.held then
      match runningTask s1 (unitMA n) with
      | some t => if (maRunOf s1 n).phase = .held then advanceTile s1 n t else s1
      | none => s1
    else s1

/-- Hands the end marker of a task that ended with SCALE_SLIP or RESIDUE (R284). -/
def handMarker (s : State) (n : Nat) : State :=
  let u := unitMA n
  let e := engOf s u
  match e.markerDue, e.done, runningTask s u with
  | true, some x, some t =>
    let m : Tile := { task := dTaskId t.desc, number := 0, count := maTiles t.desc, vals := [], marker := some x.status }
    setTiles (setEng s u { e with markerDue := false }) n (tilesOf s n ++ [m])
  | _, _, _ => s

/-! ### Meanings -/

/-- MATMUL (R154 to R167, R180, R181). -/
def execMatmul (ma : Nat) (s : State) : Host.Outcome State Fault Refusal :=
  .next (matmulStep (undefinedOp s (unitMA ma) [1, 2]) ma)

/-- PIN (R163). -/
def execPin (ma : Nat) (s : State) : Host.Outcome State Fault Refusal :=
  .next (runFront s (unitMA ma) 2 (fun t => pinFaults (unitMA ma) t.desc) (pinRun (unitMA ma)))

/-- ROW_TILE_CHECK (R168, R173): `bad` lists the logical columns whose check finds a difference. -/
def execRowTileCheck (ma : Nat) (bad : List Nat) (s : State) : Host.Outcome State Fault Refusal :=
  .next (rowTileCheck s ma bad)

/-- RESIDUE_RECOMPUTE (R174): `bad` lists the columns that differ in the second run. -/
def execResidueRecompute (ma : Nat) (bad : List Nat) (s : State) : Host.Outcome State Fault Refusal :=
  .next (residueRecompute s ma bad)

/-- PARTNER_RUN (R174 to R176): `bad` lists the columns that differ in the partner's run. -/
def execPartnerRun (ma : Nat) (bad : List Nat) (s : State) : Host.Outcome State Fault Refusal :=
  .next (partnerRun s ma bad)

/-- TILE_HANDOFF (R281, R283). -/
def execTileHandoff (ma : Nat) (s : State) : Host.Outcome State Fault Refusal := .next (tileHandoff s ma)

end Sys2Proof.Machine
end

