-- ==== Sys2Proof/Machine/Lanes.lean ====
section
/-! DEFINITION. The lanes of a vector engine (R253 to R280): instruction fields, which fields each instruction uses, reading
and writing registers under masks, and scans, reductions and the soft maximum over segments. -/

namespace Sys2Proof.Machine

open Sys2Proof

/-! ### Instruction fields (R263 to R265) -/

def vOpc (w : Nat) : Nat := natField w 63 56
def vVD (w : Nat) : Nat := natField w 55 51
def vVA (w : Nat) : Nat := natField w 50 46
def vVB (w : Nat) : Nat := natField w 45 41
def vVC (w : Nat) : Nat := natField w 40 36
def vSel (w : Nat) : Nat := natField w 25 18
def vFmt (w : Nat) : Nat := natField w 15 8
def vFunc (w : Nat) : Nat := natField w 7 0
def vSeg (w : Nat) : Bool := w.testBit 29
def vImm (w : Nat) : Nat := natField w 31 0

/-- Format M (R264). -/
def vIsM (w : Nat) : Bool := decide (0x10 ≤ vOpc w ∧ vOpc w ≤ 0x15)
def vSlot (w : Nat) : Nat := natField w 45 43
def vSat (w : Nat) : Bool := w.testBit 36
def vMfmt (w : Nat) : Nat := natField w 35 32
def vEstride (w : Nat) : Int := signedOf 12 (natField w 31 20)
def vOffset (w : Nat) : Nat := natField w 19 0

/-- The mask bit and the mask register of either format. -/
def vMasked (w : Nat) : Bool := if vIsM w then w.testBit 37 else vOpc w ≠ 0x02 && w.testBit 30
def vVM (w : Nat) : Nat := if vIsM w then natField w 42 38 else natField w 35 31

/-! ### Which fields an instruction uses (R263 to R266) -/

/-- The sources of a format V instruction: 1 for A, 2 for A and B, 3 for A, B and C; none for an opcode of no format V. -/
def vSources (op : Nat) : Option Nat :=
  if op = 0x03 ∨ op = 0x04 ∨ op = 0x05 then some 0
  else if op = 0x23 ∨ op = 0x2B then some 3
  else if op = 0x26 ∨ op = 0x27 ∨ op = 0x29 ∨ (0x30 ≤ op ∧ op ≤ 0x38) ∨ (0x50 ≤ op ∧ op ≤ 0x52) ∨ op = 0x61 ∨ op = 0x62 ∨
      op = 0x70 ∨ op = 0x80 ∨ op = 0x90 then some 1
  else if (0x20 ≤ op ∧ op ≤ 0x2A) ∨ (0x40 ≤ op ∧ op ≤ 0x4B) ∨ op = 0x60 then some 2
  else none

/-- The FUNC values an opcode lists; the 64 of SUMM are word and mode (R289). -/
def vFuncs (op : Nat) : Option (List Nat) :=
  match op with
  | 0x05 => some (List.range 64)
  | 0x2A => some [0, 1, 2, 3, 4]
  | 0x4B => some [0, 1, 2, 3, 5, 6]
  | 0x52 => some [0, 1]
  | 0x70 => some [0, 1, 2, 3, 4, 5, 8, 9, 10, 11, 12, 13]
  | 0x80 => some (List.range 10)
  | _ => none

/-- The FMT values an opcode lists. -/
def vFmts (op : Nat) : Option (List Nat) :=
  match op with
  | 0x50 => some [0x0C, 0x08, 0x09]
  | 0x52 => some [0x01, 0x02, 0x03, 0x04, 0x05, 0x06, 0x07]
  | _ => none

/-- An opcode over segments. -/
def vSegmented (op : Nat) : Bool := op = 0x70 || op = 0x80 || op = 0x90

/-- Bits `[hi:lo]` of an instruction word. -/
def vBits (hi lo : Nat) : Nat := (2 ^ (hi + 1 - lo) - 1) * 2 ^ lo

/-- The bits an instruction may use; a stride-0 lane, the segment flags and a mask register are used only where the
instruction's own bits ask for them, but a mask register left over is not read (R255, R256, R263 to R265). -/
def vAllowed (w : Nat) : Nat :=
  let op := vOpc w
  match op with
  | 0x00 => 0
  | 0x01 => vBits 31 0
  | 0x02 => vBits 55 51 ||| vBits 31 0
  | 0x05 => vBits 50 46 ||| vBits 25 18 ||| vBits 7 0
  | 0x10 => vBits 55 51 ||| vBits 45 37 ||| vBits 35 0
  | 0x11 => vBits 55 51 ||| vBits 45 0
  | 0x12 => vBits 55 37 ||| vBits 35 32
  | 0x13 => vBits 55 32
  | 0x14 => vBits 55 37 ||| vBits 35 32
  | 0x15 => vBits 55 51 ||| vBits 42 37 ||| vBits 5 0
  | _ =>
    let n := (vSources op).getD 0
    let strides := (if 1 ≤ n then vBits 28 28 else 0) ||| (if 2 ≤ n then vBits 27 27 else 0) |||
      (if 3 ≤ n then vBits 26 26 else 0)
    vBits 55 51 ||| vBits 35 30 ||| strides ||| (if 1 ≤ n then vBits 50 46 else 0) ||| (if 2 ≤ n then vBits 45 41 else 0) |||
      (if 3 ≤ n then vBits 40 36 else 0) ||| (if w &&& strides ≠ 0 then vBits 25 18 else 0) |||
      (if vSegmented op then vBits 29 29 ||| (if vSeg w then vBits 40 36 else 0) else 0) |||
      (if (vFuncs op).isSome then vBits 7 0 else 0) ||| (if (vFmts op).isSome then vBits 15 8 else 0)

/-- An opcode of R266. -/
def vDefined (op : Nat) : Bool := decide (op ≤ 0x02) || decide (0x10 ≤ op ∧ op ≤ 0x15) || (vSources op).isSome

/-- Faults of one instruction, by its index (R261, R266, R270, R282, R292): an undefined opcode alone, since its other fields
have no meaning. -/
def instrFaults (acc : Bool) (k w : Nat) : List DescFault :=
  let op := vOpc w
  if !vDefined op then [⟨0x06, k % 256⟩]
  else
    faultIf (match vFmts op with | some l => !l.contains (vFmt w) | none => false) 0x02 (k % 256) ++
    faultIf (decide (0x10 ≤ op ∧ op ≤ 0x14) &&
      (if op = 0x14 then vMfmt w ≠ 0 && vMfmt w ≠ 6 else decide (7 < vMfmt w))) 0x02 (k % 256) ++
    faultIf (natField w 55 0 &&& (2 ^ 56 - 1 - vAllowed w) ≠ 0) 0x06 (k % 256) ++
    faultIf (match vFuncs op with | some l => !l.contains (vFunc w) | none => false) 0x06 (k % 256) ++
    faultIf (op = 0x01 && decide (vImm w < 1 ∨ 256 < vImm w)) 0x07 (k % 256) ++
    faultIf (op = 0x15 && !acc) 0x0C (k % 256)

/-! ### Registers and lanes (R253 to R257) -/

/-- 256 zero lanes. -/
def zeroLanes : List Nat := List.replicate 256 0

/-- A vector register. -/
def vReg (r : VeRun) (n : Nat) : List Nat := tblGet (fun _ => zeroLanes) r.regs n

/-- Lane l of it. -/
def vLane (r : VeRun) (n l : Nat) : Nat := (vReg r n).getD l 0

/-- Writes lanes: lane, value and the flags that set there (R255, R279). -/
def writeLanes (r : VeRun) (vd : Nat) (lanes : List (Nat × Nat × Nat)) : VeRun :=
  let put (xs : List Nat) (f : Nat → Nat × Nat → Nat) : List Nat :=
    xs.mapIdx fun l x =>
      match lanes.find? fun y => y.1 = l with
      | some y => f x y.2
      | none => x
  { r with
    regs := tblSet (fun _ => zeroLanes) r.regs vd (put (vReg r vd) fun _ y => y.1 % 2 ^ 32)
    flags := put r.flags fun x y => x ||| y.2 }

/-- Sets flags of lanes without writing them. -/
def flagLanes (r : VeRun) (lanes : List (Nat × Nat)) : VeRun :=
  { r with flags := r.flags.mapIdx fun l x =>
      match lanes.find? fun y => y.1 = l with
      | some y => x ||| y.2
      | none => x }

/-- The active lanes of an instruction (R255). -/
def activeLanes (r : VeRun) (w : Nat) : List Nat :=
  (List.range r.vl).filter fun l => !vMasked w || vLane r (vVM w) l ≠ 0

/-- A stride-0 operand names a lane at or beyond VL (R256). -/
def badLane (r : VeRun) (w : Nat) : Nat :=
  flagIf ((w.testBit 28 || w.testBit 27 || w.testBit 26) && decide (r.vl ≤ vSel w)) flagRange

/-- A source operand as a function of the lane (R256). -/
def source (r : VeRun) (w reg strideBit : Nat) : Nat → Nat :=
  if w.testBit strideBit then
    let v := if r.vl ≤ vSel w then 0 else vLane r reg (vSel w)
    fun _ => v
  else
    let xs := vReg r reg
    fun l => xs.getD l 0

def srcA (r : VeRun) (w : Nat) : Nat → Nat := source r w (vVA w) 28
def srcB (r : VeRun) (w : Nat) : Nat → Nat := source r w (vVB w) 27
def srcC (r : VeRun) (w : Nat) : Nat → Nat := source r w (vVC w) 26

/-- An element-wise instruction: the value and the flags of each active lane. -/
def elementwise (r : VeRun) (w : Nat) (f : Nat → Nat × Nat) : VeRun :=
  writeLanes r (vVD w) ((activeLanes r w).map fun l =>
    let x := f l
    (l, x.1, x.2 ||| badLane r w))

/-- One, two and three operands. -/
def lane1 (f : Nat → Nat × Nat) (r : VeRun) (w : Nat) : VeRun :=
  let a := srcA r w
  elementwise r w fun l => f (a l)
def lane2 (f : Nat → Nat → Nat × Nat) (r : VeRun) (w : Nat) : VeRun :=
  let a := srcA r w
  let b := srcB r w
  elementwise r w fun l => f (a l) (b l)
def lane3 (f : Nat → Nat → Nat → Nat × Nat) (r : VeRun) (w : Nat) : VeRun :=
  let a := srcA r w
  let b := srcB r w
  let c := srcC r w
  elementwise r w fun l => f (a l) (b l) (c l)

/-! ### Operations of one lane (R267) -/

/-- The lesser or the greater of two FP32 values, −0 below +0; NaN with INVALID when either is NaN. -/
def fminmax (greater : Bool) (a b : Nat) : Nat × Nat :=
  let x := numOf32 a
  let y := numOf32 b
  if x.isNan || y.isNan then nanCode fp32
  else
    let aLess := if x.isZero && y.isZero then decide (2 ^ 31 ≤ a) else x.le y
    (if aLess != greater then a else b, 0)

/-- The sign operations; a NaN gives the canonical NaN (R98). -/
def fsign (f : ExactNum → ExactNum) (a : Nat) : Nat × Nat := to32 (f (numOf32 a))

/-- A signed 32-bit lane. -/
def int32 (a : Nat) : Int := signedOf 32 a

/-- An integer result that wraps, with OVERFLOW where the exact one lies outside the INT32 range. -/
def wrap32 (v : Int) : Nat × Nat := (unsignedOf 32 v, flagIf (decide (v < -(2 ^ 31) ∨ 2 ^ 31 ≤ v)) flagOverflow)

/-- An integer clamped to the INT32 range, with OVERFLOW. -/
def clamp32 (v : Int) : Nat × Nat :=
  (unsignedOf 32 (max (-(2 ^ 31)) (min (2 ^ 31 - 1) v)), flagIf (decide (v < -(2 ^ 31) ∨ 2 ^ 31 ≤ v)) flagOverflow)

/-- FCMP: EQ, NE, LT, LE and unordered; no flag. -/
def fcmpLane (func a b : Nat) : Nat × Nat :=
  let x := numOf32 a
  let y := numOf32 b
  let un := x.isNan || y.isNan
  let eq := x.le y && y.le x
  (bit (match func with
    | 0 => eq
    | 1 => !eq
    | 2 => x.lt y
    | 3 => x.le y
    | _ => un), 0)

/-- ICMP: EQ, NE, LT, LE, and unsigned LT and LE. -/
def icmpLane (func a b : Nat) : Nat × Nat :=
  (bit (match func with
    | 0 => decide (a = b)
    | 1 => decide (a ≠ b)
    | 2 => decide (int32 a < int32 b)
    | 3 => decide (int32 a ≤ int32 b)
    | 5 => decide (a < b)
    | _ => decide (a ≤ b)), 0)

/-- CVTFI to INT32, INT8 or INT4. -/
def cvtfiLane (fmt a : Nat) : Nat × Nat :=
  let n := elemBits fmt
  let r := toIntRange (-(2 ^ (n - 1) : Nat)) ((2 ^ (n - 1) : Nat) - 1) (numOf32 a)
  (unsignedOf 32 r.1, r.2)

/-- QNT: the nearest value of a format, kept as FP32. -/
def qntLane (fmt : Nat) (sat : Bool) (a : Nat) : Nat × Nat :=
  let r := encodeElem fmt 0 sat (numOf32 a)
  ((to32 (decodeElem fmt 0 r.1)).1, r.2)

/-! ### Segments (R272 to R278) -/

/-- The start of the segment that holds a lane. -/
def segStart (r : VeRun) (w : Nat) : Nat → Nat
  | 0 => 0
  | l + 1 => if vSeg w && (vLane r (vVC w) (l + 1)).testBit 0 then l + 1 else segStart r w l

/-- The segments of an instruction, each as its lanes. -/
def segments (r : VeRun) (w : Nat) : List (List Nat) :=
  (List.range r.vl).foldl (fun acc l =>
    match acc.reverse with
    | [] => [[l]]
    | last :: before => if segStart r w l = l then acc ++ [[l]] else before.reverse ++ [last ++ [l]]) []

/-- A scan or reduction function: its identity, what an empty segment reads, and its combination. -/
structure Combine where
  float : Bool
  ident : Nat
  empty : Nat
  op : Nat → Nat → Nat × Nat

/-- The functions of R273 in the order FADD, FMAX, FMIN, IADD, IMAX, IMIN. -/
def combineOf (k : Nat) : Combine :=
  match k with
  | 0 => ⟨true, 0x80000000, 0, fadd32⟩
  | 1 => ⟨true, 0xFF800000, 0xFF800000, fminmax true⟩
  | 2 => ⟨true, 0x7F800000, 0x7F800000, fminmax false⟩
  | 3 => ⟨false, 0, 0, fun a b => (unsignedOf 32 (int32 a + int32 b), 0)⟩
  | 4 => ⟨false, 0x80000000, 0x80000000, fun a b => (if int32 a ≤ int32 b then b else a, 0)⟩
  | _ => ⟨false, 0x7FFFFFFF, 0x7FFFFFFF, fun a b => (if int32 a ≤ int32 b then a else b, 0)⟩

/-- A value with the flags of the operations that formed it. -/
abbrev Flagged := Nat × Nat

/-- A NaN among FP32 contributors gives the canonical NaN and INVALID (R275). -/
def canonical (c : Combine) (x : Flagged) : Flagged :=
  if c.float && (numOf32 x.1).isNan then ((nanCode fp32).1, x.2 ||| flagInvalid) else x

/-- One step of R273's fixed order at distance `d`: every lane at once, from the values before the step. -/
def scanStep (c : Combine) (d : Nat) (xs : List (Flagged × Bool)) : List (Flagged × Bool) :=
  xs.mapIdx fun l x =>
    if l < d then x
    else
      let y := xs.getD (l - d) ((0, 0), true)
      let v := if x.2 then x.1 else
        let z := c.op y.1.1 x.1.1
        (z.1, z.2 ||| y.1.2 ||| x.1.2)
      (v, x.2 || y.2)

/-- The inclusive scan of the lanes below VL, with contributors marked. -/
def scanTree (r : VeRun) (w : Nat) (c : Combine) (live : Nat → Bool) : List Flagged :=
  let a := srcA r w
  let x0 := (List.range r.vl).map fun l => ((if live l then a l else c.ident, 0), decide (segStart r w l = l))
  (iter (fun k xs => if 2 ^ k < r.vl then scanStep c (2 ^ k) xs else xs) 8 x0).map fun x => x.1

/-- SCAN (R273, R275). -/
def scanLanes (r : VeRun) (w : Nat) : VeRun :=
  let func := vFunc w
  let c := combineOf (func % 8)
  let act := activeLanes r w
  let live := fun l => act.contains l
  let tree := scanTree r w c live
  let a := srcA r w
  let some_ (l : Nat) : Bool := act.any fun k => decide (segStart r w l ≤ k ∧ k ≤ l)
  let incl (l : Nat) : Flagged :=
    if !some_ l then (c.empty, 0)
    else if func % 8 = 3 then
      wrap32 ((act.filter fun k => decide (segStart r w l ≤ k ∧ k ≤ l)).foldl (fun t k => t + int32 (a k)) 0)
    else canonical c (tree.getD l (0, 0))
  let segs := segments r w
  let emptySeg (l : Nat) : Bool := segs.any fun sg => sg.contains l && !sg.any live
  writeLanes r (vVD w) ((List.range r.vl).map fun l =>
    let x := if 8 ≤ func then (if segStart r w l = l then (c.empty, 0) else incl (l - 1)) else incl l
    (l, x.1, x.2 ||| badLane r w ||| flagIf (emptySeg l) flagEmpty))

/-- One level of the pairwise tree of R274. -/
def pairUp (f : Nat → Nat → Nat × Nat) : List Flagged → List Flagged
  | x :: y :: rest =>
    let z := f x.1 y.1
    (z.1, z.2 ||| x.2 ||| y.2) :: pairUp f rest
  | l => l

/-- The fixed tree over lanes 0 to 255: eight levels. -/
def treeOf (f : Nat → Nat → Nat × Nat) (xs : List Flagged) : Flagged := (iter (fun _ l => pairUp f l) 8 xs).headD (0, 0)

/-- The 256 leaves of a segment's tree: its contributors, the identity elsewhere. -/
def leaves (sg : List Nat) (live : Nat → Bool) (ident : Nat) (val : Nat → Flagged) : List Flagged :=
  (List.range 256).map fun l => if sg.contains l && live l then val l else (ident, 0)

/-- The result of a reduction over one segment with contributors (R274). -/
def redSegment (func : Nat) (a : Nat → Nat) (live : Nat → Bool) (sg : List Nat) : Flagged :=
  let on := sg.filter live
  match func with
  | 3 => canonical (combineOf 0) (treeOf fadd32 (leaves sg live 0x80000000 fun l => fmul32 (a l) (a l)))
  | 4 => clamp32 (on.foldl (fun t l => t + int32 (a l)) 0)
  | 7 => ((on.filter fun l => a l ≠ 0).length, 0)
  | 8 => (on.foldl (fun t l => t ||| a l) 0, 0)
  | 9 => (on.foldl (fun t l => t &&& a l) (2 ^ 32 - 1), 0)
  | _ =>
    let c := combineOf (if func < 3 then func else func - 1)
    canonical c (treeOf c.op (leaves sg live c.ident fun l => (a l, 0)))

/-- What an empty segment reads under RED (R275). -/
def redEmpty (func : Nat) : Nat :=
  match func with
  | 1 => 0xFF800000 | 2 => 0x7F800000 | 5 => 0x80000000 | 6 => 0x7FFFFFFF | 9 => 0xFFFFFFFF | _ => 0

/-- The lanes RED writes (R274, R275). -/
def redLanes (r : VeRun) (w : Nat) : List (Nat × Nat × Nat) :=
  let act := activeLanes r w
  let live := fun l => act.contains l
  let a := srcA r w
  (segments r w).flatMap fun sg =>
    let x : Flagged := if sg.any live then redSegment (vFunc w) a live sg else (redEmpty (vFunc w), flagEmpty)
    sg.map fun l => (l, x.1, x.2 ||| badLane r w)

/-- The soft maximum of one segment (R277, R278): the cases in the order of the table. -/
def smaxSegment (a : Nat → Nat) (live : Nat → Bool) (sg : List Nat) : List (Nat × Nat × Nat) :=
  let on := sg.filter live
  let val (l : Nat) : ExactNum := numOf32 (a l)
  if on.all fun l => (val l).isInf && (val l).isNeg then sg.map fun l => (l, 0, flagEmpty)
  else if on.any fun l => (val l).isNan then sg.map fun l => (l, (nanCode fp32).1, flagInvalid)
  else
    let tops := on.filter fun l => (val l).isInf && !(val l).isNeg
    if !tops.isEmpty then
      let q := divTo fp32 (.fin false 1 0) (.ofInt tops.length 0)
      sg.map fun l => if tops.contains l then (l, q.1, q.2) else (l, 0, 0)
    else
      let m := on.foldl (fun t l => (fminmax true t (a l)).1) 0xFF800000
      let e (l : Nat) : Flagged :=
        if (val l).isInf then (0, 0)
        else
          let d := fsub32 (a l) m
          if (numOf32 d.1).isZero then (0x3F800000, d.2)
          else
            let x := approx 0x30 d.1
            (x.1, x.2 ||| d.2)
      let es := on.map fun l => (l, e l)
      let at_ (l : Nat) : Flagged := ((es.find? fun x => x.1 = l).map fun x => x.2).getD (0, 0)
      let sum := treeOf fadd32 (leaves sg live 0x80000000 at_)
      sg.map fun l =>
        if live l then
          let x := at_ l
          let q := divTo fp32 (numOf32 x.1) (numOf32 sum.1)
          (l, q.1, q.2 ||| x.2 ||| sum.2)
        else (l, 0, 0)

/-- SMAX. -/
def smaxLanes (r : VeRun) (w : Nat) : VeRun :=
  let act := activeLanes r w
  let a := srcA r w
  writeLanes r (vVD w) (((segments r w).flatMap (smaxSegment a fun l => act.contains l)).map fun x =>
    (x.1, x.2.1, x.2.2 ||| badLane r w))

/-! ### Permutations (R271) -/

def permLanes (r : VeRun) (w : Nat) : VeRun :=
  let a := srcA r w
  let b := srcB r w
  elementwise r w fun l => if b l < r.vl then (a (b l), 0) else (0, flagRange)

def packLanes (r : VeRun) (w : Nat) : VeRun :=
  let act := activeLanes r w
  let a := srcA r w
  writeLanes r (vVD w) ((List.range r.vl).map fun l =>
    (l, (match act[l]? with | some k => a k | none => 0), badLane r w))

def unpackLanes (r : VeRun) (w : Nat) : VeRun :=
  let a := srcA r w
  writeLanes r (vVD w) ((activeLanes r w).mapIdx fun j l => (l, a j, badLane r w))

/-! ### Summary words (R289) -/

/-- SUMM: the value of a lane joins a summary word. -/
def summUpdate (r : VeRun) (w : Nat) : VeRun :=
  let k := vFunc w % 16
  let mode := vFunc w / 16 % 4
  let bad := decide (r.vl ≤ vSel w)
  let v := if bad then 0 else vLane r (vVA w) (vSel w)
  let old := tblGet (fun _ => 0) r.words k
  let x : Flagged :=
    if !r.valid.testBit k || mode = 0 then (v, 0)
    else if mode = 1 then clamp32 (int32 old + int32 v)
    else if mode = 2 then fadd32 old v
    else fminmax true old v
  flagLanes { r with words := tblSet (fun _ => 0) r.words k x.1, valid := r.valid ||| 2 ^ k }
    [(0, x.2 ||| flagIf bad flagRange)]

end Sys2Proof.Machine
end

