-- ==== Sys2Proof/Machine/Collective.lean ====
section
/-! DEFINITION. The collective engines (R416 to R420): the ring's steps, their messages, the progress deadline and the
slowdown factor. -/

namespace Sys2Proof.Machine

open Sys2Proof

/-! ### Descriptor (R416) -/

def coFmt (d : List Byte) : Nat := leAt d 33 1
def coRed (d : List Byte) : Nat := leAt d 34 1
def coSat (d : List Byte) : Bool := (leAt d 35 1).testBit 0
def coP (d : List Byte) : Nat := leAt d 36 2
def coRank (d : List Byte) : Nat := leAt d 38 2
def coId (d : List Byte) : Nat := leAt d 40 4
def coCount (d : List Byte) : Nat := leAt d 48 8
def coInt (d : List Byte) : Bool := coFmt d = 0x0C

/-- Bytes of an element in the member's format, and of one on its way through the reduction (R417). -/
def coBytes (d : List Byte) : Nat := if coFmt d = 0x01 then 2 else 4
def coWide (d : List Byte) : Nat := if coInt d then 8 else 4

/-- The member table. -/
def readMembers (s : State) (u : UnitId) (t : Task) : State × List Nat :=
  let r := engineLoad s u (partOf t) (leAt t.desc 72 8) (2 * coP t.desc)
  (r.1, (List.range (coP t.desc)).map fun k => leAt r.2 (2 * k) 2)

/-- The ring neighbours of this device. -/
def coNext (d : List Byte) (ms : List Nat) : Nat := ms.getD ((coRank d + 1) % max 1 (coP d)) 0
def coPrev (d : List Byte) (ms : List Nat) : Nat := ms.getD ((coRank d + coP d - 1) % max 1 (coP d)) 0

/-- Faults of a collective descriptor (R420). The spec gives MEMBER no detail: it is a free value. -/
def coFaults (s : State) (u : UnitId) (t : Task) : List DescFault :=
  let d := t.desc
  let op := dOp d
  let p := coP d
  let data : List Nat := if op = 4 then [] else [56, 64]
  let shape := faultIf (decide (p < 1 ∨ 1024 < p)) 0x07 36 ++ faultIf (decide (p ≤ coRank d)) 0x07 38
  let ms := if shape.isEmpty && !isTileForm (leAt d 72 8) then (readMembers s u t).2 else []
  let entry (k : Nat) : List DescFault := if reachable s (ms.getD k 0) then [] else [⟨0x0E, k % 256⟩]
  faultIf (op ≠ 4 && !([0x00, 0x01, 0x0C].contains (coFmt d))) 0x02 33 ++
    alignFaults d ((data ++ [72]).map fun o => (o, 8)) ++ tileFaults d (data ++ [72]) ++ shape ++
    faultIf ((op = 1 || op = 3) && decide (2 < coRed d)) 0x07 34 ++
    faultIf (op = 3 && coCount d % max 1 p ≠ 0) 0x07 48 ++
    (if ms.isEmpty then []
     else
      (if p = 1 then [] else entry ((coRank d + p - 1) % p) ++ entry ((coRank d + 1) % p)) ++
      (if ms.getD (coRank d) 0 ≠ deviceId s ∨ repeats ms = true then [⟨0x10, (Config.freeByte (2 ^ 64 + t.seq)).toNat⟩] else []))

/-! ### Elements (R417) -/

/-- An operand element as the reduction holds it: FP32 codes for a float format, integers for INT32. -/
def coExpand (d : List Byte) (c : Nat) : Int :=
  if coInt d then signedOf 32 c else if coFmt d = 0x01 then ((c * 65536 : Nat) : Int) else (c : Int)

/-- Two elements reduced, with flags. -/
def coReduce (d : List Byte) (a b : Int) : Int × Nat :=
  if coInt d then
    match coRed d with
    | 0 => (a + b, 0)
    | 1 => (max a b, 0)
    | _ => (min a b, 0)
  else
    let r := match coRed d with
      | 0 => roundTo fp32 (coSat d) ((numOf32 a.toNat).add (numOf32 b.toNat))
      | 1 => fminmax true a.toNat b.toNat
      | _ => fminmax false a.toNat b.toNat
    ((r.1 : Int), r.2)

/-- A reduced element in the member's format (R111, R113): rounded once to BF16, clamped once to INT32. -/
def coFinal (d : List Byte) (v : Int) : Int × Nat :=
  if coInt d then
    let c := max (-(2 ^ 31)) (min (2 ^ 31 - 1) v)
    ((unsignedOf 32 c : Int), flagIf (decide (c ≠ v)) flagOverflow)
  else
    let r := roundTo (if coFmt d = 0x01 then bf16 else fp32) (coSat d) (numOf32 v.toNat)
    ((r.1 : Int), r.2)

/-- A chunk with an element operation applied and the flags gathered. -/
def coMap (f : Int → Int × Nat) (xs : List Int) : List Int × Nat :=
  (xs.map fun x => (f x).1, xs.foldl (fun g x => g ||| (f x).2) 0)

/-- Little-endian bytes of a chunk. -/
def chunkBytes (n : Nat) (xs : List Int) : List Byte := xs.flatMap fun x => leBytes n (unsignedOf (8 * n) x)

/-- A chunk read from bytes. -/
def chunkOf (n : Nat) (signed : Bool) (bs : List Byte) : List Int :=
  (List.range (bs.length / n)).map fun k =>
    let v := leAt bs (n * k) n
    if signed then signedOf (8 * n) v else (v : Int)

/-- Elements of a chunk of a reduction. -/
def chunkLen (d : List Byte) : Nat := ceilDiv (coCount d) (max 1 (coP d))

/-- Steps of a collective: data messages a member sends and receives. -/
def coSteps (d : List Byte) : Nat :=
  match dOp d with
  | 1 => 2 * (coP d - 1)
  | 4 => if coP d = 1 then 0 else 2
  | _ => coP d - 1

/-- A step that reduces. -/
def reduces (d : List Byte) (k : Nat) : Bool := dOp d = 3 || (dOp d = 1 && decide (k < coP d - 1))

/-- The chunk a member sends, and the one it receives, in a step. -/
def chunkSent (d : List Byte) (k : Nat) : Nat :=
  let p := max 1 (coP d)
  if reduces d k then (coRank d + 2 * p - 1 - k % p) % p
  else (coRank d + p - (if dOp d = 1 then k - (p - 1) else k) % p) % p
def chunkGot (d : List Byte) (k : Nat) : Nat := (chunkSent d k + max 1 (coP d) - 1) % max 1 (coP d)

/-! ### Running -/

/-- The collective an engine runs. -/
def collectiveOf (s : State) (u : UnitId) : Option (Task × CoRun) :=
  if (engOf s u).done.isSome then none
  else
    match runningTask s u, (engOf s u).work with
    | some t, .co r => if dClass t.desc = 8 then some (t, r) else none
    | _, _ => none

/-- Stores the work of a collective engine. -/
def setCo (s : State) (u : UnitId) (r : CoRun) : State := setEng s u { engOf s u with work := .co r }

/-- Sends the data of a step to the ring successor (R417). -/
def sendStep (s : State) (u : UnitId) (t : Task) (r : CoRun) (k : Nat) : State × CoRun :=
  let d := t.desc
  let body :=
    if dOp d = 4 then [] else chunkBytes (if reduces d k then coWide d else coBytes d) (r.chunks.getD (chunkSent d k) [])
  let m : Seg := { type := 0x09, dest := coNext d r.members, src := 0, order := coId d % 65536, fmt := coFmt d, tag := coId d, body := body }
  (bump64 (sendMessage s m) u 0x120 body.length, { r with sent := r.sent + 1 })

/-- Takes the data of the present step (R417): reduced into its chunk, and after the last reducing step brought to the
member's format; or stored as it is. -/
def takeStep (t : Task) (r : CoRun) (body : List Byte) : CoRun :=
  let d := t.desc
  let k := r.received
  let i := chunkGot d k
  if dOp d = 4 then { r with received := k + 1 }
  else if reduces d k then
    let got := chunkOf (coWide d) (coInt d) body
    let z := ((r.chunks.getD i []).zip got).map fun x => coReduce d x.1 x.2
    let f := z.foldl (fun g x => g ||| x.2) 0
    let last := k + 2 = coP d
    let fin := if last then coMap (coFinal d) (z.map fun x => x.1) else (z.map fun x => x.1, 0)
    { r with received := k + 1, flags := r.flags ||| f ||| fin.2, chunks := r.chunks.mapIdx fun j c => if j = i then fin.1 else c }
  else
    { r with received := k + 1, chunks := r.chunks.mapIdx fun j c => if j = i then chunkOf (coBytes d) false body else c }

/-- The result as its bytes: every chunk, or for REDUCE_SCATTER this member's. -/
def coResult (d : List Byte) (r : CoRun) : List Byte :=
  if dOp d = 3 then chunkBytes (coBytes d) (r.chunks.getD (coRank d) [])
  else chunkBytes (coBytes d) (r.chunks.flatten.take (if dOp d = 2 then coCount d * coP d else coCount d))

/-- Writes the result once every step has been received; ends the task once it is written, accepted and acknowledged. -/
def coSettle (s : State) (u : UnitId) : State :=
  match collectiveOf s u with
  | none => s
  | some (t, r) =>
    let n := coSteps t.desc
    let s1 :=
      if r.written ∨ r.received < n then s
      else
        let y := if dOp t.desc = 4 then s else engineStore s u (partOf t) (leAt t.desc 64 8) (coResult t.desc r)
        setCo y u { r with written := true }
    let s2 := setF s1 u 0x18 18 18 (bit (decide (r.received < n)))
    match collectiveOf s2 u with
    | some (_, r2) => if r2.written ∧ n ≤ r2.acked ∧ r2.sent = n then finishOk s2 u r2.flags else s2
    | none => s2

/-- A barrier's first member sends before it receives; every other member passes on what it has received (R417). -/
def maySend (d : List Byte) (r : CoRun) : Bool :=
  decide (r.sent < coSteps d) &&
    (if dOp d = 4 ∧ coRank d ≠ 0 then decide (r.sent < r.received) else decide (r.sent ≤ r.received))

/-- Sends the next step when its turn has come. -/
def coAdvance (s : State) (u : UnitId) : State :=
  match collectiveOf s u with
  | none => s
  | some (t, r) =>
    if maySend t.desc r then
      let x := sendStep s u t r r.sent
      setCo x.1 u x.2
    else s

/-- The operand of a collective as chunks. -/
def coOperand (s : State) (u : UnitId) (t : Task) : State × List (List Int) :=
  let d := t.desc
  if dOp d = 4 then (s, [])
  else
    let r := engineLoad s u (partOf t) (leAt d 56 8) (coCount d * coBytes d)
    let codes := chunkOf (coBytes d) false r.2
    if dOp d = 2 then (r.1, (List.range (coP d)).map fun k => if k = coRank d then codes else [])
    else
      let xs := codes.map fun c => coExpand d c.toNat
      (r.1, pieces (max 1 (chunkLen d)) (coP d) xs)

/-- Starts a collective: its operand is read and its first step sent; with one member the operand is the result. -/
def coStart (u : UnitId) (t : Task) (s : State) : State :=
  if (engOf s u).work ≠ .none then s
  else
    let d := t.desc
    let ms := readMembers s u t
    let op := coOperand ms.1 u t
    let fin : List (List Int) × Nat :=
      if coP d = 1 ∧ dOp d ≠ 2 then
        let x := coMap (coFinal d) (op.2.getD 0 [])
        ([x.1], x.2)
      else (op.2, 0)
    let s1 := setCo op.1 u { members := ms.2, chunks := fin.1, flags := fin.2, since := now s }
    coSettle (coAdvance s1 u) u

/-- A task of a COLL_ID is still to run here, or has ended here. -/
def collectiveTasks (s : State) (coll : Nat) (ended : Bool) : Bool :=
  s.led.tasks.any fun t => t.ending.isSome = ended && dClass t.desc = 8 && coId t.desc = coll

/-- The engine that awaits a COLL_DATA message: its collective, from its ring predecessor. -/
def awaitsData (s : State) (m : Message) : Option UnitId :=
  ((List.range 4).map unitCO).find? fun u =>
    match collectiveOf s u with
    | some (t, r) => coId t.desc = m.seg.tag % 2 ^ 32 && coPrev t.desc r.members = m.seg.src && decide (r.received < coSteps t.desc)
    | none => false

/-- Nothing here will ever take a collective message. -/
def collStray (s : State) (coll : Nat) : Bool := collectiveTasks s coll true && !collectiveTasks s coll false

/-- COLL_DATA (R417): the next step of its collective; it waits while its task has not started (R388). -/
def collData (s : State) : State :=
  if contained s then s
  else
    match takeMessage s fun m => m.seg.type = 0x09 && ((awaitsData s m).isSome || collStray s (m.seg.tag % 2 ^ 32)) with
    | none => s
    | some (m, s1) =>
      match awaitsData s m with
      | none => stray s1 (m.port / 12)
      | some u =>
        match collectiveOf s1 u with
        | none => s1
        | some (t, r) =>
          let r1 := { takeStep t r m.seg.body with since := now s1, stalled := false }
          let s2 := sendMessage (setCo s1 u r1)
            { type := 0x0A, dest := m.seg.src, src := 0, order := coId t.desc % 65536, tag := coId t.desc, body := leBytes 4 r.received }
          coSettle (coAdvance s2 u) u

/-- COLL_ACK (R392, R417): a step of this member has been completed at its successor. -/
def collAck (s : State) : State :=
  match takeMessage s fun m => m.seg.type = 0x0A with
  | none => s
  | some (m, s1) =>
    let owner := ((List.range 4).map unitCO).find? fun u =>
      match collectiveOf s1 u with
      | some (t, r) => coId t.desc = m.seg.tag % 2 ^ 32 && coNext t.desc r.members = m.seg.src && decide (r.acked < r.sent)
      | none => false
    match owner with
    | none => stray s1 (m.port / 12)
    | some u =>
      match collectiveOf s1 u with
      | some (_, r) => coSettle (setCo s1 u { r with acked := r.acked + 1 }) u
      | none => s1

/-! ### Progress and slowdown (R418) -/

/-- A step's data has not come within PROGRESS_US times the predecessor's factor: a detected fault that names the
predecessor (R418). The task keeps waiting. -/
def peerStall (s : State) (u : UnitId) : State :=
  match collectiveOf s u with
  | none => s
  | some (t, r) =>
    if r.received < coSteps t.desc ∧ r.stalled = false ∧ contained s = false then
      let prev := coPrev t.desc r.members
      let s1 := timeUpTo s (r.since + getF s u 0x100 19 0 * 1000 * slowOf s prev)
      let s2 := raiseErr (setReg s1 u 0x110 (putField (putField 0 41 32 prev) 31 0 (coId t.desc))) u 17
      let s3 := setCo s2 u { r with stalled := true }
      { s3 with esc := { s3.esc with pendingFaults := s3.esc.pendingFaults ++ [⟨unitNone, 0x07, some prev⟩] } }
    else s

/-- The factor of this device: the greatest its stack controllers report, else 1 (R345, R418). -/
def ownFactor (s : State) : Nat :=
  if (List.range 12).any fun n => present s (unitHS n) && getF s (unitHS n) 0x18 23 23 = 1 then 2 else 1

/-- Announces a changed factor: SLOW to every member of each collective that runs, and CO STATUS SLOW_OUT (R418). -/
def announceSlow (s : State) : State :=
  let f := ownFactor s
  if f = s.fab.announced then s
  else
    let s1 := { s with fab := { s.fab with announced := f } }
    let s2 := foldOver (fun n t => setF t (unitCO n) 0x18 27 24 f) (List.range 4) s1
    let tell (n : Nat) (t : State) : State :=
      match collectiveOf t (unitCO n) with
      | some (k, r) =>
        foldOver (fun dev y =>
          if dev = deviceId y then y
          else sendMessage y { type := 0x11, dest := dev, src := 0, order := 0x0800 + n, tag := coId k.desc
                               body := leBytes 2 (deviceId y) ++ leBytes 2 f }) r.members t
      | none => t
    foldOver tell (List.range 4) s2

/-- SLOW (R418): the sender's factor from now on, recorded by the engines whose collective it is a member of. -/
def slowMessage (s : State) : State :=
  match takeMessage s fun m => m.seg.type = 0x11 with
  | none => s
  | some (m, s1) =>
    let dev := leAt m.seg.body 0 2
    let f := max 1 (leAt m.seg.body 2 2 % 16)
    let note (n : Nat) (t : State) : State :=
      match collectiveOf t (unitCO n) with
      | some (_, r) => if dev ∈ r.members then setReg t (unitCO n) 0x108 (putField (putField 0 41 32 dev) 3 0 f) else t
      | none => t
    foldOver note (List.range 4) (noteSlow s1 dev f)

/-! ### Meanings -/

/-- CO STATUS IN_WAIT: a step's data is awaited. -/
def coWaits (s : State) (u : UnitId) : State :=
  match collectiveOf s u with
  | some (t, r) => setF s u 0x18 18 18 (bit (decide (r.received < coSteps t.desc)))
  | none => s

/-- A collective command: its engine starts a front task of that OP. -/
def runCollective (co op : Nat) (s : State) : State :=
  coWaits (runFront (undefinedOp s (unitCO co) [1, 2, 3, 4]) (unitCO co) op (coFaults s (unitCO co)) (coStart (unitCO co))) (unitCO co)

/-- ALL_REDUCE (R416, R417). -/
def execAllReduce (co : Nat) (s : State) : Host.Outcome State Fault Refusal := .next (runCollective co 1 s)

/-- ALL_GATHER (R416, R417). -/
def execAllGather (co : Nat) (s : State) : Host.Outcome State Fault Refusal := .next (runCollective co 2 s)

/-- REDUCE_SCATTER (R416, R417). -/
def execReduceScatter (co : Nat) (s : State) : Host.Outcome State Fault Refusal := .next (runCollective co 3 s)

/-- BARRIER (R416, R417). -/
def execBarrier (co : Nat) (s : State) : Host.Outcome State Fault Refusal := .next (runCollective co 4 s)

/-- COLL_DATA (R417). -/
def execCollData (s : State) : Host.Outcome State Fault Refusal := .next (orWait s collData)

/-- COLL_ACK (R417). -/
def execCollAck (s : State) : Host.Outcome State Fault Refusal := .next (orWait s collAck)

/-- PEER_STALL (R418). -/
def execPeerStall (co : Nat) (s : State) : Host.Outcome State Fault Refusal := .next (peerStall s (unitCO co))

/-- SLOW (R418). -/
def execSlow (s : State) : Host.Outcome State Fault Refusal := .next (slowMessage s)

end Sys2Proof.Machine
end

