-- ==== Sys2Proof/Machine/Escrow.lean ====
section
/-! DEFINITION. Faults and recovery (R448 to R461): detection and containment, the abort, the fabric drain, the restore of each
quarter, diagnosis, the reports, and the resume with its replay; the domain fault. -/

namespace Sys2Proof.Machine

open Sys2Proof

/-! ### Detection and containment (R448 to R453) -/

/-- A reason whose kind is outside the guarantee (R450). -/
def beyondGuarantee (reason : Nat) : Bool := decide (0x80 ≤ reason % 256)

/-- LAST_FAULT and FAULT_TIME. -/
def noteFault (s : State) (device q i reason : Nat) : State :=
  let w : Word := putField (putField (putField (putField 0 53 44 device) 43 40 q) 39 32 i) 15 0 reason
  setReg (setReg s unitEX 0x138 w) unitEX 0x140 (BitVec.ofNat 64 (now s))

/-- The quarter and the local index of another device's unit, which no token carries. -/
def noteOther (s : State) (device reason : Nat) : State :=
  let a := drawFree s
  let b := drawFree a.1
  noteFault b.1 device ((Config.freeByte a.2).toNat % 16) (Config.freeByte b.2).toNat reason

/-- The device contains itself (R453): PHASE 4, DEV STATE 3. Every other command looks at PHASE. -/
def contain (s : State) : State := setF (setPhase s 4) unitDEV 0x120 3 0 3

/-- A domain fault (R459): the reason goes down the tree, and the device stays contained until it is reset. -/
def domainFault (s : State) (reason device : Nat) (u : UnitId) : State :=
  if phase s = 5 then s
  else
    let s1 := tokenDown s 3 (openEpoch s) reason device
    let s2 := raiseErr (setF (setPhase s1 5) unitDEV 0x120 3 0 4) unitEX 20
    let s3 := pushAer (pushErr s2 { errRec s2 9 u 0 with reason := reason, device := device }) true
    { s3 with esc := { s3.esc with pendingFaults := [] } }

/-- The unit that faulted, as error records name it: this device's own, or none. -/
def faultUnit (s : State) : UnitId := if s.esc.faulted then s.esc.suspects.getLastD unitNone else unitNone

/-- An epoch is aborted on this device (R452 to R454 step 2): it contains itself and passes ABORT on. -/
def abortEpochNow (s : State) (e reason device : Nat) : State :=
  let s1 := raiseErr (setReg (contain s) unitEX 0x148 (BitVec.ofNat 64 e)) unitEX 18
  let s2 := if s.esc.faulted then s1 else noteOther s1 device reason
  let s3 := pushErr s2 { errRec s2 7 (faultUnit s2) 0 with reason := reason, epoch := e, device := device }
  let s4 := tokenDown s3 3 e reason device
  { s4 with esc := { s4.esc with
      abortEpoch := e
      abortAt := now s4
      fabricDone := false
      restoredQ := []
      diagDone := false
      reports := []
      reportSent := false } }

/-- What the root does with a fault report (R452, R459): a domain fault, or an abort of the open epoch, which is the next one
when it has already committed the reported one. Later reports of an epoch are not sent down. -/
def rootReport (s : State) (e reason device : Nat) (u : UnitId) : State :=
  if beyondGuarantee reason then domainFault s reason device u
  else if s.esc.abortEpoch ≠ 0 ∨ (e ≠ 0 ∧ e ≤ getF s unitEX 0x148 47 0) then s
  else abortEpochNow s (if openEpoch s = 0 then committed s + 1 else openEpoch s) reason device

/-- A report goes towards the root (R454 step 1). -/
def reportUp (s : State) (e reason device : Nat) (u : UnitId) : State :=
  if treeRoot s then rootReport s e reason device u else tokenUp s 3 e 0 reason device

/-- A fault is detected on this device (R438, R448 to R456). With no epoch open it is only recorded. A second one before the
resume has kind 0x83; one that falls into another device's recovery joins it. -/
def detect (s : State) (f : FaultReport) : State :=
  if phase s = 5 then s
  else
    let kind := if s.esc.faulted then 0x83 else f.kind
    let reason := reasonOf f.unit kind
    let device := f.device.getD (deviceId s)
    let s1 := noteFault (raiseErr s unitEX 17) device f.unit.q f.unit.i reason
    let s2 := pushErr s1 { errRec s1 6 f.unit 0 with reason := reason }
    let s3 := { s2 with esc := { s2.esc with faultHistory := s2.esc.faultHistory ++ [(f.unit, openEpoch s)] } }
    if openEpoch s = 0 ∧ phase s = 0 then
      let s4 := raiseErr s3 unitEX 16
      { s4 with esc := { s4.esc with suspects := [] } }
    else
      let s4 := { s3 with esc := { s3.esc with
        faulted := true
        detectedAt := if s.esc.faulted then s.esc.detectedAt else now s
        suspects := s3.esc.suspects ++ [f.unit]
        diagDone := s3.esc.diagDone && s3.esc.reportSent
        coolingNeeded := s3.esc.coolingNeeded || decide (kind = 0x08) } }
      reportUp (if phase s4 = 4 then s4 else contain s4) (openEpoch s) reason device f.unit

/-- What detects a fault that no other command of this model reports (R448): SRAM that SEC-DED cannot correct, a parity error
at a receiving tile, and escrow's own records. -/
def detectsAlone (s : State) (u : UnitId) (kind : Nat) : Bool :=
  present s u &&
    match kind with
    | 0x02 => [0x01, 0x02, 0x03, 0x04, 0x05, 0x06, 0x07, 0x08, 0x09, 0x0A, 0x0E, 0x23, 0x24, 0x26].contains u.ty
    | 0x09 => decide (1 ≤ u.ty ∧ u.ty ≤ 0x0E)
    | 0x82 => u.ty = 0x09 || u.ty = 0x0E
    | _ => false

/-- What such a fault leaves on its page (R60, R62, R465). -/
def noteAlone (s : State) (u : UnitId) (kind : Nat) : State :=
  match kind with
  | 0x02 => bump (raiseErr s u 1) u 0x40 63 32 1
  | 0x82 => if u.ty = 0x0E then raiseErr s u 18 else s
  | _ => s

/-- A unit reports a fault to escrow (R448): one that an earlier command has detected, or one of `detectsAlone`. Repeated
reports of one unit and kind that wait together are one fault. -/
def faultReport (s : State) (u : UnitId) (kind : Nat) : State :=
  let same (f : FaultReport) : Bool := f.unit = u && f.kind = kind
  match s.esc.pendingFaults.find? same with
  | some f => detect { s with esc := { s.esc with pendingFaults := s.esc.pendingFaults.filter fun x => !same x } } f
  | none => if detectsAlone s u kind then detect (noteAlone s u kind) { unit := u, kind := kind } else s

/-! ### The fabric drain (R454 step 3) -/

/-- Traffic of an epoch: every message type but tokens and the messages of one link. -/
def epochTraffic (g : Seg) : Bool := decide (g.type ≤ 0x0A)

/-- Discards what waits in this device of the traffic of the aborted epoch; transit segments leave their buffers. -/
def discardTraffic (s : State) : State :=
  let free (o : OutSeg) (t : State) : State :=
    match o.origin with
    | some (p, b) => oweCredits t p b (segUnits o.seg)
    | none => t
  let s1 := foldOver free (s.fab.out.filter fun o => epochTraffic o.seg) s
  let trim (x : Nat × Port) : Nat × Port := (x.1, { x.2 with parts := x.2.parts.filter fun g => !epochTraffic g })
  let s2 := { s1 with
    fab := { s1.fab with
      ports := (s1.fab.ports.map trim).filter fun x => x.2 ≠ {}
      out := s1.fab.out.filter fun o => !epochTraffic o.seg
      inbox := s1.fab.inbox.filter fun m => !epochTraffic m.seg
      acks := []
      rts := [] }
    rem := { s1.rem with wanted := [], asked := [], got := [], missing := [], writes := [], rounds := [] } }
  foldOver (fun q t => setF t (unitCL q) 0x18 21 21 0) (List.range 4) (setBatches s2 [])

/-- Every port that carries frames has sent what it holds and had it acknowledged. -/
def retryEmpty (s : State) : Bool :=
  (List.range 48).all fun p => !carries s p || ((portOf s p).retry.isEmpty && (portOf s p).tx.isEmpty)

/-- The fabric drain completes: the messages in flight are gone and the retry buffers empty; the restore and the diagnosis
start (R454, R465). -/
def fabricDrain (s : State) : State :=
  if decide (phase s = 4) && s.esc.abortEpoch ≠ 0 && !s.esc.fabricDone && retryEmpty s then
    let s1 := discardTraffic s
    let mark (q : Nat) (t : State) : State :=
      setF (setF t (unitES q) 0x18 18 18 1) (unitES q) 0x18 19 19 (bit (t.esc.suspects.any fun u => u.q = q && u.ty ≠ 0))
    let s2 := foldOver mark (List.range 4) s1
    { s2 with esc := { s2.esc with fabricDone := true, diagDone := s2.esc.suspects.isEmpty } }
  else s

/-! ### Reports and the resume (R454 steps 5 and 6, R461) -/

/-- Every present stack reads below 102 °C (R461). -/
def stacksCool (s : State) : Bool :=
  (List.range 12).all fun n => !present s (unitHS n) || decide (signedOf 16 (getF s (unitHS n) 0x1A0 15 0) < 1632)

/-- A log entry's task as the replay re-admits it (R192, R302, R320, R323). -/
def replayTask (s : State) (e : LogEntry) : Task :=
  { seq := e.seq, ring := e.ring, tAdmit := e.tAdmit, desc := e.desc, desc0 := e.desc
    ctx := if e.carried then e.ctx else (ctxOf s (dContext e.desc)).getD {}
    carried := e.carried, logged := true, pin := if e.carried then e.pin else none }

/-- The logged entries in ADMIT_SEQ order. -/
def insertEntry (e : LogEntry) : List LogEntry → List LogEntry
  | [] => [e]
  | x :: t => if e.seq ≤ x.seq then e :: x :: t else x :: insertEntry e t

/-- The logged entries are admitted again (R302, R454 step 6). -/
def replayLog (s : State) : State :=
  let es := s.led.log.foldr insertEntry []
  settle (foldOver (fun e t => enterTask t (replayTask t e) false) es s)

/-- The time since step 1 in microseconds (R454 step 6). -/
def recoveryTime (s : State) : Nat :=
  let since := if s.esc.faulted then s.esc.detectedAt else s.esc.abortAt
  min ((now s - since) / 1000) (2 ^ 32 - 1)

/-- Rings that a recovery held are offered again. -/
def offerAgain (s : State) : State :=
  foldOver (fun n t =>
    let r := ringOf t n
    if r.held = 5 ∨ r.held = 6 then setRing t n { r with held := 0, lineDue := true } else t) (s.hi.rings.map fun r => r.1) s

/-- Step 6 of R454: the next epoch number opens, and the logged tasks are re-admitted. -/
def resume (s : State) : State :=
  let n := max (openEpoch s) s.esc.abortEpoch + 1
  let s1 := setF (setReg s unitEX 0x160 (BitVec.ofNat 64 (recoveryTime s))) unitEX 0x118 47 0 n
  let s2 := setF (setF (setPhase s1 1) unitEX 0x18 16 16 0) unitDEV 0x120 3 0 1
  let s3 := { s2 with esc := { s2.esc with
    openedAt := now s2
    cutDone := false
    drained := false
    requestSent := false
    votes := []
    reports := []
    suspects := []
    faulted := false
    abortEpoch := 0
    fabricDone := false
    restoredQ := []
    diagDone := false
    coolingNeeded := false
    reportSent := false } }
  let s4 := pushErr (raiseInt s3 unitEX 22) { errRec s3 8 unitEX 0 with epoch := n }
  offerAgain (replayLog s4)

/-- Step 5 of R454: restore and diagnosis are complete, every child has reported, and no stack is too hot after an OVERTEMP
(R461). The root resumes the domain when its count reaches DOMAIN_SIZE. -/
def reportCheck (s : State) : State :=
  let done := decide (phase s = 4) && s.esc.abortEpoch ≠ 0 && decide (s.esc.restoredQ.length = 4) && s.esc.diagDone &&
    !s.esc.reportSent && allCounted s s.esc.reports
  let hot := s.esc.coolingNeeded && !stacksCool s
  let s0 := if decide (getF s unitEX 0x18 18 18 = bit (done && hot)) then s else setF s unitEX 0x18 18 18 (bit (done && hot))
  if done && !hot then
    let n := countSum s s.esc.reports
    if treeRoot s then
      if n = domainSize s then resume (tokenDown s0 2 (committed s)) else s0
    else
      let s1 := tokenUp s0 3 s.esc.abortEpoch n
      { s1 with esc := { s1.esc with reportSent := true } }
  else s0

/-! ### The restore (R454 step 4a) -/

/-- Drains a bank's merging buffer at a rollback: an entry that would wait for an undo copy belongs to a page that the
rollback restores anyway, and is dropped. -/
def drainForRestore (b : Nat) (s : State) : State :=
  let t := drainOldest { s with rem := { s.rem with wait := false, full := none } } b
  if t.rem.wait then setBank s b { bankOf s b with buf := (bankOf s b).buf.drop 1 } else t

/-- Writes an undo copy back over its page (R435): whole-sector writes, which end poison there. A poisoned undo copy is
committed data lost (R449). -/
def undoBack (q : Nat) (e : Nat × Nat) (s : State) : State :=
  let src := (getReg s (unitES q) 0x280).toNat + 4096 * e.2
  let lost := s.poison.any fun p => within src 4096 p
  let s1 := copyRange s src e.1 4096
  let s2 := { s1 with poison := s1.poison.filter fun p => !within e.1 4096 p }
  if lost then reportFault s2 (unitHS (natField src 40 37)) 0x80 else s2

/-- The pages of a quarter return to their committed contents (R434, R435). -/
def restorePages (s : State) (q : Nat) : State :=
  let here (p : Nat) : Bool := natField p 40 37 / 3 = q
  let us := undoUsed s q
  let ws := s.esc.working.filter here
  let s1 := foldOver (undoBack q) us s
  let s2 := { s1 with esc := { s1.esc with
    undo := s1.esc.undo.filter (fun e => !here e.1)
    working := s1.esc.working.filter fun p => !here p } }
  let u := unitES q
  let s3 := bump64 s2 u 0x2C0 (us.length + ws.length)
  setF (setReg (setReg s3 u 0x2A0 0) u 0x2B0 0) u 0x18 17 17 0

/-- The cache-mode banks of a quarter are invalidated (R365). -/
def invalidateQuarter (s : State) (q : Nat) : State :=
  foldOver (fun b t => setF (setBank t b { bankOf t b with lines := [] }) (unitVB b) 0x18 25 25 0) (cacheBanks s q) s

/-- An engine has no task and no context (R325, R454). -/
def clearEngine (u : UnitId) (s : State) : State :=
  let s1 := foldOver (fun seq t => dropFromTill t u seq) (engOf s u).tills s
  let s2 := if (engOf s1 u).frag.isSome then setF s1 u 0x18 21 21 0 else if u.ty = 0x03 then setF s1 u 0x18 25 22 0 else s1
  setEng s2 u { transients := (engOf s2 u).transients }

/-- A ring's descriptors are fetched again from SQ_HEAD after the resume (R480); those the cut held now wait for the recovery
(R479). -/
def refetch (s : State) : State :=
  foldOver (fun n t =>
    let r := ringOf t n
    let x := { r with offer := r.sqHead, fetched := [] }
    setRing t n (if r.held = 5 then { x with held := 6, lineDue := true } else x)) (s.hi.rings.map fun r => r.1) s

/-- The device's own state returns to the last commit: the tally view, the registry and the context table, and the ledgers
without their logs (R91, R192, R323, R454 step 4a). Completion records of committed epochs still go to their rings. -/
def restoreLedgers (s : State) : State :=
  let s1 := foldOver clearEngine ((List.range 8).flatMap fun t => unitsOf (t + 1)) (tallyRollback s)
  let s2 := refetch { s1 with
    vq := []
    frags := []
    splitUse := []
    led := { s1.led with
      tasks := []
      names := []
      ctxs := s1.led.ctxsCommitted
      tables := s1.led.tablesCommitted
      records := s1.led.records.filter fun r => decide (leAt r.bytes 12 6 ≤ committed s1) } }
  { s2 with esc := { s2.esc with cutDone := false, drained := false } }

/-- Drains the merging buffers of a quarter's banks at a rollback. -/
def drainQuarter (s : State) (q : Nat) : State :=
  let one (b : Nat) (t : State) : State := iter (fun _ r => drainForRestore b r) (bankOf t b).buf.length t
  foldOver one ((List.range 4).map fun i => 4 * q + i) s

/-- What the device restores once, with its first quarter: the ledgers' side, the pool-cache regions and the replicas. -/
def restoreDevice (s : State) : State :=
  let s1 := restoreLedgers s
  flushReplicas { s1 with rem := { s1.rem with pcache := [] } }

/-- Notes that a quarter is restored; with the fourth the rollback is counted (R467). -/
def quarterDone (s : State) (q : Nat) : State :=
  let s1 := { s with esc := { s.esc with restoredQ := q :: s.esc.restoredQ } }
  if s1.esc.restoredQ.length = 4 then bump64 s1 unitEX 0x158 1 else s1

/-- The restore of a quarter completes; with the first, the device's own state is restored too (R454 step 4a). -/
def restoreQuarter (s : State) (q : Nat) : State :=
  if decide (phase s = 4) && s.esc.fabricDone && decide (q < 4) && !s.esc.restoredQ.contains q then
    let s1 := invalidateQuarter (restorePages (drainQuarter s q) q) q
    let s2 := if s.esc.restoredQ.isEmpty then restoreDevice s1 else s1
    reportCheck (quarterDone (setF s2 (unitES q) 0x18 18 18 0) q)
  else s

/-! ### Diagnosis (R451, R454 step 4b) -/

/-- A unit that diagnosis may retire (R448). -/
def retirable (u : UnitId) : Bool := [0x01, 0x02, 0x03, 0x04, 0x05, 0x06, 0x07, 0x08, 0x0A].contains u.ty

/-- A unit whose failed test is a domain fault (R448). -/
def neverRetired (u : UnitId) : Bool := [0x09, 0x0E, 0x23, 0x24, 0x26].contains u.ty

/-- A unit has reported a fault in one of the last FAULT_WINDOW epoch numbers (R451). -/
def faultedBefore (s : State) (u : UnitId) : Bool :=
  let e := s.esc.abortEpoch
  s.esc.faultHistory.any fun h => h.1 = u && decide (h.2 < e ∧ e ≤ h.2 + getF s unitEX 0x100 23 16)

/-- Retires a suspect where R451 says so. -/
def diagnose (failed : List UnitId) (u : UnitId) (s : State) : State :=
  if retirable u && !retired s u && (failed.contains u || faultedBefore s u) then retireUnit s u else s

/-- The self-tests of the suspects complete, `failed` of them with a failure (R451, R454 step 4b). -/
def diagnosis (s : State) (failed : List UnitId) : State :=
  if decide (phase s = 4) && s.esc.fabricDone && !s.esc.diagDone then
    match s.esc.suspects.find? fun u => neverRetired u && failed.contains u with
    | some u =>
      let reason := reasonOf u 0x84
      reportUp (noteFault s (deviceId s) u.q u.i reason) (openEpoch s) reason (deviceId s) u
    | none =>
      let s1 := passRole (foldOver (diagnose failed) s.esc.suspects s)
      let s2 := foldOver (fun q t => setF t (unitES q) 0x18 19 19 0) (List.range 4) s1
      reportCheck { s2 with esc := { s2.esc with diagDone := true } }
  else s

/-- 30 s have passed since the root's ABORT without every report (R459). -/
def resumeLimit (s : State) : State :=
  if phase s = 4 ∧ treeRoot s = true ∧ s.esc.abortEpoch ≠ 0 then
    domainFault (timeUpTo s (s.esc.abortAt + 30000000000)) 0x0085 (deviceId s) unitNone
  else s

/-! ### Tokens that arrive (R440) -/

/-- A COMMIT: the commit of the open epoch, or the resume token. A device that has detected a fault commits and goes on
waiting for the ABORT (R452). -/
def commitToken (s : State) (k : Token) : State :=
  if fromParent s k = false ∨ k.count ≠ 0 ∨ phase s = 5 then s
  else if s.esc.abortEpoch = 0 ∧ openEpoch s ≠ 0 ∧ k.epoch = openEpoch s then decideCommit s
  else if s.esc.abortEpoch ≠ 0 ∧ s.esc.reportSent = true ∧ k.epoch = committed s then resume (tokenDown s 2 k.epoch)
  else s

/-- An ABORT: a fault report on its way up, a subtree's restore report, or the abort itself. -/
def abortToken (s : State) (k : Token) : State :=
  if phase s = 5 then s
  else if fromChild s k then
    if k.count ≠ 0 then
      if s.esc.abortEpoch ≠ 0 ∧ k.epoch = s.esc.abortEpoch then
        reportCheck { s with esc := { s.esc with reports := noteCount s.esc.reports k } }
      else s
    else if beyondGuarantee k.reason = false ∧ k.epoch ≠ 0 ∧ k.epoch = getF s unitEX 0x148 47 0 then s
    else reportUp s k.epoch k.reason k.sender unitNone
  else if fromParent s k ∧ k.count = 0 then
    if beyondGuarantee k.reason then
      let s1 := if s.esc.faulted then s else noteOther s k.sender k.reason
      domainFault s1 k.reason k.sender (faultUnit s1)
    else if k.epoch ≤ committed s ∨ k.epoch = getF s unitEX 0x148 47 0 then s
    else abortEpochNow s k.epoch k.reason k.sender
  else s

/-! ### Meanings -/

/-- FAULT_REPORT (R448, R453, R454). -/
def execFaultReport (unit : UnitId) (kind : Nat) (s : State) : Host.Outcome State Fault Refusal := .next (faultReport s unit kind)

/-- FABRIC_DRAIN (R454). -/
def execFabricDrain (s : State) : Host.Outcome State Fault Refusal := .next (fabricDrain s)

/-- RESTORE (R454): of one quarter. -/
def execRestore (q : Nat) (s : State) : Host.Outcome State Fault Refusal := .next (restoreQuarter s q)

/-- DIAGNOSIS (R451, R454): `failed` lists the units whose self-test failed. -/
def execDiagnosis (failed : List UnitId) (s : State) : Host.Outcome State Fault Refusal := .next (diagnosis s failed)

/-- RESUME_LIMIT (R459). -/
def execResumeLimit (s : State) : Host.Outcome State Fault Refusal := .next (resumeLimit s)

/-- COMMIT_COMMIT (R440, R444, R454): the first token that has arrived, a COMMIT. -/
def execCommitCommit (s : State) : Host.Outcome State Fault Refusal :=
  .next (match takeToken s 2 with
    | some (k, t) => commitToken t k
    | none => s)

/-- COMMIT_ABORT (R440, R452): the first token that has arrived, an ABORT. -/
def execCommitAbort (s : State) : Host.Outcome State Fault Refusal :=
  .next (match takeToken s 3 with
    | some (k, t) => abortToken t k
    | none => s)

end Sys2Proof.Machine
end

