-- ==== Sys2Proof/Machine/Power.lean ====
section
/-! DEFINITION. The power and thermal block (R526 to R538, R549): power measurement and the cap, island clocks, the sensors
with what the stack controllers and the junctions do on their readings. Supplies and pins are in Boot.lean. -/

namespace Sys2Proof.Machine

open Sys2Proof

/-! ### Power and the cap (R528 to R531) -/

/-- The cap in force (R528). -/
def capWatts (s : State) : Nat := if enabled s unitPW then getF s unitPW 0x100 12 0 else ratedWatts s.variant

/-- The sum of the samples of the last millisecond: a hundred times the average in watts (R529). -/
def powerSum (s : State) : Nat := s.pw.samples.foldl (· + ·) 0

/-- The average exceeds the cap. -/
def overCap (s : State) : Bool := decide (100 * capWatts s < powerSum s)

/-- ALERT_N is asserted (R540). -/
def alertAsserted (s : State) : Bool := (getReg s unitPW 0x30 &&& getReg s unitPW 0x190) ≠ 0

/-- A measurement of the inputs, one each 10 µs (R529, R549): the sample, the 1 ms average and its peak, the energy in
millijoules, and the supplies. CAP_UNMET clears when the average falls to the cap (R530). -/
def measurePower (s : State) (watts mv centiamps auxMv auxMw : Nat) : State :=
  let s1 := { s with pw := { s.pw with
    samples := (watts :: s.pw.samples).take 100
    energyRem := (s.pw.energyRem + watts) % 100 } }
  let avg := min (powerSum s1 / 100) 8191
  let s2 := setF (setF s1 unitPW 0x140 12 0 avg) unitPW 0x148 12 0 (max avg (getF s unitPW 0x148 12 0))
  let mj := (getReg s unitPW 0x150).toNat + (s.pw.energyRem + watts) / 100
  let w : Word := putField (putField (putField (putField 0 63 48 centiamps) 47 32 mv) 31 16 auxMw) 15 0 auxMv
  let s3 := setReg (setReg s2 unitPW 0x150 (BitVec.ofNat 64 mj)) unitPW 0x158 w
  let s4 := if overCap s3 then s3 else setF { s3 with pw := { s3.pw with floorSince := none } } unitPW 0x18 20 20 0
  if supplyMarginal mv then raiseErr s4 unitPW 16 else s4

/-- Each 100 µs the clocks of the scaled islands go down a step above the cap, up a step below 0.98 of it (R529); the time
they were held below their limit counts (R531). -/
def capStep (s : State) : State :=
  let s0 := if s.pw.capStep < 64 then bump64 s unitPW 0x198 100 else s
  let n := if overCap s then max 8 (s.pw.capStep - 1)
    else if powerSum s < 98 * capWatts s then min 64 (s.pw.capStep + 1) else s.pw.capStep
  let since := if overCap s && n = 8 then (if s.pw.floorSince.isSome then s.pw.floorSince else some (now s)) else none
  { s0 with pw := { s0.pw with capStep := n, floorSince := since } }

/-- Every scaled island has been at its floor for 10 ms and the average still exceeds the cap (R530). -/
def capUnmet (s : State) : State :=
  match s.pw.floorSince with
  | some t =>
    if overCap s ∧ s.pw.capStep = 8 ∧ getF s unitPW 0x18 20 20 = 0 then
      raiseErr (setF (timeUpTo s (t + 10000000)) unitPW 0x18 20 20 1) unitPW 17
    else s
  | none => s

/-! ### Junctions (R532, R533) -/

/-- The largest of signed 16-bit readings. -/
def hottest (rs : List Nat) : Int := (rs.map (signedOf 16)).foldl max (-32768)

/-- A quarter's junction temperature. -/
def junction (s : State) (q : Nat) : Int := hottest ((List.range 16).map fun k => sensorReading s (16 * q + k))

/-- A condition sets at its threshold and ends more than 3 °C below it (R344, R533). -/
def holds (was at_ : Bool) (t threshold : Int) : Bool := at_ || (was && decide (threshold - 48 ≤ t))

/-- A list of quarters with one added or taken out. -/
def withQuarter (l : List Nat) (q : Nat) (on : Bool) : List Nat :=
  if on then (if l.contains q then l else q :: l) else l.filter fun x => x ≠ q

/-- Steps taken off a quarter's clocks. -/
def downOf (s : State) (q : Nat) : Nat := tblGet (fun _ => 0) s.pw.down q
def setDown (s : State) (q n : Nat) : State := { s with pw := { s.pw with down := tblSet (fun _ => 0) s.pw.down q n } }

/-- What a quarter's reading sets (R533): the warning, throttling from 100 °C, and the floor at once from 105 °C. -/
def junctionRead (q : Nat) (s : State) : State :=
  let t := junction s q
  let limit := 16 * ((getF s unitPW 0x110 7 0 : Nat) : Int)
  let warm := holds (s.pw.warm.contains q) (decide (limit < t)) t limit
  let hot := holds (s.pw.hot.contains q) (decide (1600 ≤ t)) t 1600
  let very := holds (s.pw.veryHot.contains q) (decide (1680 ≤ t)) t 1680
  let s1 := setF s unitPW 0x160 (16 * q + 15) (16 * q) (unsignedOf 16 t)
  let s2 := { s1 with pw := { s1.pw with
    warm := withQuarter s.pw.warm q warm
    hot := withQuarter s.pw.hot q hot
    veryHot := withQuarter s.pw.veryHot q very } }
  let s3 := if warm && !s.pw.warm.contains q then raiseInt s2 unitPW 20 else s2
  if very && !s.pw.veryHot.contains q then raiseErr (setDown s3 q 56) unitPW 19 else s3

/-- Each 100 µs a quarter's clocks go down a step while it is throttled, and up a step once it is not (R533). -/
def junctionStep (s : State) (q : Nat) : State :=
  if s.pw.hot.contains q then setDown s q (min 56 (downOf s q + 1)) else setDown s q (downOf s q - 1)

/-! ### Stacks (R344) and the coolant (R538) -/

/-- A stack's reading t. -/
def stackReading (s : State) (st : Nat) : Int := hottest ((List.range 4).map fun k => sensorReading s (64 + 4 * st + k))

/-- What a stack controller does on its reading: refresh, throttle and state with the hysteresis of R344, HOT at 95 °C, and
OVERTEMP, a device fault, at 105 °C (R451, R460). -/
def stackSample (st : Nat) (s : State) : State :=
  let u := unitHS st
  if present s u then
    let t := stackReading s st
    let refresh := getF s u 0x18 26 24
    let throttled := getF s u 0x18 23 23 = 1
    let faulty := getF s u 0x1A0 23 16 = 3
    let four := holds (refresh = 4) (decide (1520 < t)) t 1520
    let two := four || holds (decide (2 ≤ refresh)) (decide (1360 < t)) t 1360
    let half := holds throttled (decide (1520 ≤ t)) t 1520
    let fault := holds faulty (decide (1680 ≤ t)) t 1680
    let state := if fault then 3 else if half then 2 else if two then 1 else 0
    let s1 := setF (setF s u 0x18 26 24 (if four then 4 else if two then 2 else 1)) u 0x18 23 23 (bit half)
    let s2 := setReg s1 u 0x1A0 (putField (putField 0 23 16 state) 15 0 (unsignedOf 16 t))
    let s3 := if half && !throttled then raiseErr s2 u 22 else s2
    if fault && !faulty then reportFault (raiseErr s3 u 23) u 0x08 else s3
  else s

/-- TEMP_STACK_MAX: the hottest present stack, the lowest-numbered of equals (R549). -/
def stackMax (s : State) : State :=
  let best := ((List.range 12).filter fun n => present s (unitHS n)).foldl (fun (b : Option (Nat × Int)) n =>
    let t := stackReading s n
    match b with
    | some x => if x.2 < t then some (n, t) else b
    | none => some (n, t)) none
  match best with
  | some x => setReg s unitPW 0x170 (putField (putField 0 23 16 x.1) 15 0 (unsignedOf 16 x.2))
  | none => s

/-- The coolant's readings, and COOLANT (R538). -/
def coolantRead (s : State) : State :=
  let a := sensorReading s 112
  let b := sensorReading s 113
  let s1 := setReg s unitPW 0x168 (putField (putField 0 31 16 b) 15 0 a)
  if 640 < signedOf 16 a ∨ 320 < signedOf 16 b - signedOf 16 a then raiseErr s1 unitPW 18 else s1

/-- A sample of every sensor (R532). The stack controllers act on theirs while the main supply is on. -/
def sampleSensors (s : State) (readings : List Nat) : State :=
  let table := (readings.take 114).mapIdx fun k v => (k, v % 2 ^ 16)
  let s1 := { s with pw := { s.pw with sensors := table.filter fun e => e.2 ≠ 0 } }
  let s2 := coolantRead (stackMax (foldOver junctionRead (List.range 4) s1))
  if s.pw.mainOn then reportCheck (announceSlow (foldOver stackSample (List.range 12) s2)) else s2

/-! ### Meanings -/

/-- SENSOR_SAMPLE (R532). -/
def execSensorSample (readings : List Nat) (s : State) : Host.Outcome State Fault Refusal :=
  .next (if s.pw.auxUp then sampleSensors s readings else s)

/-- POWER_MEASURE (R529). -/
def execPowerMeasure (watts mv centiamps auxMv auxMw : Nat) (s : State) : Host.Outcome State Fault Refusal :=
  .next (if s.pw.auxUp then measurePower s watts mv centiamps auxMv auxMw else s)

/-- CAP_STEP (R529). -/
def execCapStep (s : State) : Host.Outcome State Fault Refusal := .next (if s.pw.mainOn then capStep s else s)

/-- JUNC_THROTTLE (R533). -/
def execJuncThrottle (q : Nat) (s : State) : Host.Outcome State Fault Refusal :=
  .next (if s.pw.mainOn ∧ q < 4 then junctionStep s q else s)

/-- CAP_UNMET (R530). -/
def execCapUnmet (s : State) : Host.Outcome State Fault Refusal := .next (if s.pw.mainOn then capUnmet s else s)

end Sys2Proof.Machine
end

