-- ==== Sys2Proof/Machine/Mgmt.lean ====
section
/-! DEFINITION. The management controller's commands (R502 to R505, R510, R513, R521 to R523), its MCTP endpoint and the DOE
mailbox with SPDM and IDE key management (R491, R492, R518 to R520), and the training of a stack's interface (R346). -/

namespace Sys2Proof.Machine

open Sys2Proof

/-! ### A command's call and its outcome (R521, R522) -/

/-- LENGTH and OFFSET of a call: from the message over MCTP, from ARG1 over CXL. -/
def callLength (s : State) (c : McCall) : Nat := if c.mctp then c.length else getF s unitMC 0x110 63 32
def callOffset (s : State) (c : McCall) : Nat := if c.mctp then c.offset else getF s unitMC 0x110 31 0

/-- The data a command reads: the message's body, or host memory at ARG0. -/
def callData (s : State) (c : McCall) (n : Nat) : List Byte :=
  if c.mctp then slice c.body 0 n else hostBytes s (getReg s unitMC 0x108).toNat n

/-- The access to the host that a command over CXL makes for its data does not complete. -/
def hostFails (c : McCall) : Bool := !c.mctp && !c.hostOk

/-- What a command leaves: the state, its RESULT (R522), and what it writes to the caller's buffer. -/
structure McDone where
  st : State
  result : Nat
  data : List Byte := []

/-- A program or an erase that fails (R522, R525). -/
def flashFailed (s : State) : McDone := ⟨raiseErr s unitMC 17, 0x08, []⟩

/-- STATUS bits of the MC page. -/
def mcStatus (s : State) (b : Nat) (on : Bool) : State := setF s unitMC 0x18 b b (bit on)

/-! ### Update sessions (R504, R505) -/

/-- Opens, closes or moves a session: STATUS SESSION and SESSION_BYTES follow. -/
def setSession (s : State) (x : Option Session) : State :=
  setReg (mcStatus { s with mc := { s.mc with session := x } } 19 x.isSome) unitMC 0x140 (BitVec.ofNat 64 ((x.map fun y => y.got).getD 0))

/-- Bytes of a range that a failed program or erase leaves open. -/
def flashOpen (s : State) (a n : Nat) : State :=
  let r := drawBytes s n
  flashPut r.1 a r.2

/-- Steps 1 and 2: the header is checked and its page written. From here on the image in flash fails verification. -/
def updateBegin (s : State) (c : McCall) : McDone :=
  match s.mc.session with
  | some x => ⟨s, if x.mctp = c.mctp then 0x06 else 0x02, []⟩
  | none =>
    let h := callData s c 1024
    let k := headerCheck s h
    if hostFails c then ⟨s, 0x08, []⟩
    else if k = 5 then ⟨s, 0x04, []⟩
    else if k ≠ 0 then ⟨s, 0x03, []⟩
    else
      let s1 := mcStatus s 18 false
      if c.flashOk = false then flashFailed (flashOpen s1 imageBase 4096)
      else
        let s2 := flashPut (flashErase s1 imageBase 4096) imageBase h
        ⟨setSession s2 (some { mctp := c.mctp, header := h, lastAt := now s }), 0, []⟩

/-- Why an UPDATE command finds no session of its own. -/
def sessionBlocks (s : State) (c : McCall) : Option Nat :=
  match s.mc.session with
  | none => some 0x06
  | some x => if x.mctp = c.mctp then none else some 0x02

/-- The session's owner has sent a command. -/
def touchSession (s : State) : State :=
  match s.mc.session with
  | some x => { s with mc := { s.mc with session := some { x with lastAt := now s } } }
  | none => s

/-- Step 3: a chunk at the next expected offset. Each 64 KiB granule is erased before its first program. -/
def updateData (s0 : State) (c : McCall) : McDone :=
  match sessionBlocks s0 c, s0.mc.session with
  | some k, _ => ⟨s0, k, []⟩
  | none, none => ⟨s0, 0x06, []⟩
  | none, some x =>
    let s := touchSession s0
    let n := callLength s c
    let a := imageBase + 4096 + x.got
    if callOffset s c ≠ x.got ∨ n = 0 ∨ 0x100000 < n ∨ hdrBytes x.header < x.got + n then ⟨s, 0x01, []⟩
    else if hostFails c then ⟨s, 0x08, []⟩
    else if c.flashOk = false then flashFailed (flashOpen s a n)
    else
      let d := callData s c n
      let s1 := flashPut (flashErase s a (roundUp (a + n) 65536 - a)) a d
      ⟨setSession s1 (some { x with got := x.got + n, lastAt := now s }), 0, []⟩

/-- Step 4: the body is read back and its hash compared. -/
def updateEnd (s0 : State) (c : McCall) : McDone :=
  match sessionBlocks s0 c, s0.mc.session with
  | some k, _ => ⟨s0, k, []⟩
  | none, none => ⟨s0, 0x06, []⟩
  | none, some x =>
    let s := touchSession s0
    if x.got ≠ hdrBytes x.header then ⟨s, 0x06, []⟩
    else
      let s1 := setSession s none
      if bodyMatches s x.header then
        let s2 := mcStatus s1 18 true
        if c.flashOk then ⟨writeCount s2 0, 0, []⟩ else flashFailed (putRecord s2 0x0004 (leBytes 1 0) true)
      else ⟨raiseErr s1 unitMC 16, 0x05, []⟩

/-- Closes the session. -/
def updateAbort (s : State) (c : McCall) : McDone :=
  match sessionBlocks s c with
  | some k => ⟨s, k, []⟩
  | none => ⟨setSession s none, 0, []⟩

/-! ### Profiles (R510, R513) -/

/-- An entry of a profile: an offset in a block-page region that is a multiple of 8, reserved bytes 0. -/
def entryFormed (b : List Byte) (j : Nat) : Bool :=
  leAt b (32 + 16 * j) 4 % 8 = 0 && decide (leAt b (32 + 16 * j) 4 < 0x02070000) && allZero b (36 + 16 * j) 4

/-- The structure of a profile record's body (R510). -/
def profileFormed (b : List Byte) : Bool :=
  let n := leAt b 4 4
  decide (32 ≤ b.length) && decide (leAt b 0 1 < 4) && decide (leAt b 2 2 < 32) && decide (1 ≤ n ∧ n ≤ 4000) &&
    decide (b.length = 32 + 16 * n) && allZero b 8 24 && (List.range n).all (entryFormed b)

/-- A level that DEV BEHAVIOUR SUPPORTED lists (R75, R554). -/
def levelSupported (s : State) (level : Nat) : Bool := decide (level < 8) && (getF s unitDEV 0x118 15 8).testBit level

def profileWrite (s : State) (c : McCall) : McDone :=
  let n := callLength s c
  if 64032 < n then ⟨s, 0x01, []⟩
  else if hostFails c then ⟨s, 0x08, []⟩
  else
    let b := callData s c n
    if profileFormed b && leAt b 0 1 = callOffset s c && levelSupported s (leAt b 1 1) then
      if c.flashOk then ⟨putRecord s 0x0005 b false, 0, []⟩ else flashFailed (putRecord s 0x0005 b true)
    else ⟨s, 0x01, []⟩

def profileSelectNext (s : State) (c : McCall) : McDone :=
  let k := callOffset s c
  if k < 4 then ⟨setF (setF s unitMC 0x118 4 4 1) unitMC 0x118 3 2 k, 0, []⟩ else ⟨s, 0x01, []⟩

/-- The first LENGTH bytes of the profile's record. -/
def profileRead (s : State) (c : McCall) : McDone :=
  match (if callOffset s c < 4 then profileRecord s (callOffset s c) else none) with
  | some b => ⟨s, 0, b.take (callLength s c)⟩
  | none => ⟨s, 0x01, []⟩

/-! ### Fuses (R502, R503) -/

/-- MC NONCE takes a new value. -/
def newNonce (s : State) : State :=
  let r := drawFree s
  setReg r.1 unitMC 0x138 (Config.nonce r.2)

/-- An authorisation object that MC accepts (R503). -/
def authorised (s : State) (op : Nat) (o : List Byte) : Bool :=
  let slot := leAt o 1 1
  leAt o 0 1 = op && leAt o 8 8 = s.serial && leAt o 16 8 = (getReg s unitMC 0x138).toNat && slotIntact s slot &&
    keyMatches s slot (slice o 32 388) && pssVerify (slice o 32 384) (slice o 512 384) (slice o 0 512)

/-- FUSE_SVN: blows fuses until the counter equals its argument. -/
def fuseSvn (s : State) (c : McCall) : McDone :=
  let o := callData s c 896
  let t := leAt o 24 8
  if hostFails c then ⟨newNonce s, 0x08, []⟩
  else if authorised s 0x30 o = false then ⟨newNonce s, 0x03, []⟩
  else if t ≤ svnFuses s ∨ s.mc.imageSvn < t then ⟨newNonce s, 0x04, []⟩
  else ⟨newNonce (setF s unitMC 0x130 5 0 t), 0, []⟩

/-- REVOKE_SLOT: refused when no slot would stay, or the slot signs the valid image in flash. -/
def revokeSlot (s : State) (c : McCall) : McDone :=
  let o := callData s c 896
  let k := leAt o 24 8
  if hostFails c then ⟨newNonce s, 0x08, []⟩
  else if authorised s 0x31 o = false then ⟨newNonce s, 0x03, []⟩
  else if 4 ≤ k then ⟨newNonce s, 0x01, []⟩
  else
    let left := (List.range 4).any fun j => j ≠ k && !(revoked s).testBit j
    let signs := getF s unitMC 0x18 18 18 = 1 && hdrSlot (imageHeader s) = k
    if left = false ∨ signs = true then ⟨newNonce s, 0x04, []⟩
    else ⟨newNonce (setF s unitMC 0x130 (8 + k) (8 + k) 1), 0, []⟩

/-! ### Training and diagnostics (R346, R521) -/

/-- HS LANE_MAP of the failing lanes of each channel. -/
def laneMap (bad : List Nat) : Word := (List.range 32).foldl (fun w c => putField w (2 * c + 1) (2 * c) (bad.getD c 0)) 0

/-- A channel has at most two failing lanes, which its spares replace (R346). -/
def trainingPasses (bad : List Nat) : Bool := (bad.take 32).all fun n => decide (n ≤ 2)

/-- A stack's interface is trained, with the failing lanes of each channel (R346, R347). -/
def trainStack (s : State) (st : Nat) (bad : List Nat) : State :=
  let u := unitHS st
  if trainingPasses bad then
    let s1 := setF (setReg s u 0x1A8 (laneMap bad)) u 0x18 22 22 1
    setStack s1 st { stackOf s1 st with symbols := [] }
  else setF s u 0x18 22 22 0

/-- Outside strongbox mode a unit whose page is enabled is not diagnosed (R521). -/
def diagnosable (s : State) (u : UnitId) : Bool := strongbox s || !enabled s u

/-- A 64-byte report, whose layout the spec does not give. -/
def report (s : State) : McDone :=
  let r := drawBytes s 64
  ⟨r.1, 0, r.2⟩

def diagTrain (s : State) (c : McCall) (bad : List Nat) : McDone :=
  let k := callOffset s c
  if 12 ≤ k ∨ present s (unitHS k) = false then ⟨s, 0x01, []⟩
  else if diagnosable s (unitHS k) = false then ⟨s, 0x06, []⟩
  else report (trainStack s k bad)

def diagPort (s : State) (c : McCall) : McDone :=
  let k := callOffset s c
  if 48 ≤ k ∨ present s (unitKP k) = false then ⟨s, 0x01, []⟩
  else if diagnosable s (unitKP k) = false then ⟨s, 0x06, []⟩
  else report s

/-- Bytes of the record store from an offset of it. -/
def storeBytes (s : State) (o n : Nat) : List Byte := (List.range n).map fun k => flashByte s (halfBase 0 + o + k)

/-- RECORD_READ: bytes of the record store, both halves one after the other. -/
def recordRead (s : State) (c : McCall) : McDone :=
  let n := callLength s c
  let o := callOffset s c
  if o + n ≤ 2 * halfBytes then ⟨s, 0, storeBytes s o n⟩ else ⟨s, 0x01, []⟩

/-! ### One command (R521 to R523) -/

/-- The commands of R521; those that CFG_LOCK blocks over CXL, and those refused in strongbox mode. -/
def mcOps : List Nat := [0x01, 0x02, 0x03, 0x04, 0x10, 0x11, 0x12, 0x20, 0x21, 0x30, 0x31, 0x40, 0x41, 0x50]
def lockedOps : List Nat := [0x01, 0x02, 0x03, 0x10, 0x11, 0x20, 0x21, 0x30, 0x31]
def notInStrongbox : List Nat := [0x21, 0x30]

/-- A refused authorised command still gives a new NONCE (R503). -/
def refuseOp (s : State) (op result : Nat) : McDone := ⟨if op = 0x30 ∨ op = 0x31 then newNonce s else s, result, []⟩

/-- What a command does. -/
def mcOp (s : State) (op : Nat) (c : McCall) (bad : List Nat) : McDone :=
  if mcOps.contains op = false then ⟨s, 0x09, []⟩
  else if c.mctp = false ∧ getF s unitMC 0x158 0 0 = 1 ∧ lockedOps.contains op = true then refuseOp s op 0x07
  else if strongbox s = true ∧ notInStrongbox.contains op = true then refuseOp s op 0x06
  else
    match op with
    | 0x01 => updateBegin s c
    | 0x02 => updateData s c
    | 0x03 => updateEnd s c
    | 0x04 => updateAbort s c
    | 0x10 => profileWrite s c
    | 0x11 => profileSelectNext s c
    | 0x12 => profileRead s c
    | 0x20 => if c.flashOk then ⟨writeCount s 0, 0, []⟩ else flashFailed (putRecord s 0x0004 (leBytes 1 0) true)
    | 0x21 => ⟨{ s with mc := { s.mc with sbRequested := true } }, 0, []⟩
    | 0x30 => fuseSvn s c
    | 0x31 => revokeSlot s c
    | 0x40 => diagTrain s c bad
    | 0x41 => diagPort s c
    | _ => recordRead s c

/-- A command ends (R522): over CXL in CMD and in the host's buffer, over MCTP in the answer; CMD_DONE sets. -/
def mcFinish (c : McCall) (r : McDone) : State :=
  if c.mctp then raiseInt { r.st with mc := { r.st.mc with answer := .command r.result r.data } } unitMC 20
  else
    let s0 := { r.st with mc := { r.st.mc with running := none } }
    let s1 := if r.data.isEmpty then s0 else hostWrite s0 (getReg s0 unitMC 0x108).toNat r.data
    raiseInt (setReg s1 unitMC 0x100 (putField (putField 0 63 63 1) 47 40 r.result)) unitMC 20

/-- MC takes a command: over CXL when its page takes writes, over MCTP whenever it runs (R498 step 1). -/
def mcTakes (s : State) (c : McCall) : Bool := if c.mctp then s.pw.auxUp else commandable s unitMC

/-- A command of R521, run to its end: one that a write of CMD has started, or a new one. MC runs one at a time (R522): a write
of CMD while another runs is a locked write, and a request over MCTP is answered with BUSY. -/
def mcCommand (s : State) (op : Nat) (c : McCall) (bad : List Nat) : State :=
  if mcTakes s c = false then s
  else if c.mctp then
    if s.mc.running.isSome then { s with mc := { s.mc with answer := .command 0x02 [] } } else mcFinish c (mcOp s op c bad)
  else if s.mc.running.isSome ∧ s.mc.running ≠ some op then raiseErr s unitMC 2
  else mcFinish c (mcOp s op c bad)

/-- A write of CMD (R521, R522): the command starts, and DONE reads 0 until it ends. -/
def mcStart (s : State) (op : Nat) : State :=
  if s.mc.running.isSome then raiseErr s unitMC 2
  else setF { s with mc := { s.mc with running := some op } } unitMC 0x100 63 63 0

/-- A command whose training outcome its call does not carry: the failing lanes of each channel are open. -/
def mcCommandOpen (s : State) (op : Nat) (c : McCall) : State :=
  let r := drawBytes s 32
  mcCommand r.1 op c (r.2.map fun b => b.toNat % 4)

/-- A command over CXL whose host accesses, flash programs and erases complete. -/
def plainCall : McCall := { mctp := false, body := [], length := 0, offset := 0, hostOk := true, flashOk := true }

/-- MC ends the command that a write of CMD has started. -/
def mcRunOn (s : State) : State :=
  match s.mc.running with
  | some op => mcCommandOpen s op plainCall
  | none => s

/-- MC CFG_LOCK is set (R523). -/
def cfgLock (s : State) : State := mcStatus (setF s unitMC 0x158 0 0 1) 20 true

/-- Sixty seconds without a command close a session (R505). -/
def sessionTimeout (s : State) : State :=
  match s.mc.session with
  | some x => setSession (timeUpTo s (x.lastAt + 60000000000)) none
  | none => s

/-! ### SPDM, MCTP and DOE (R491, R492, R518 to R520) -/

/-- The identity key was unwrapped (R518). -/
def identityOk (s : State) : Bool := getF s unitMC 0x18 21 21 = 1

/-- The answer to an SPDM request. Sessions are those of the DOE mailbox. -/
def spdmAnswer (s : State) (doe secured : Bool) (r : Spdm) : State × Answer :=
  match r with
  | .getVersion => (s, .capabilities)
  | .getCapabilities => (s, .capabilities)
  | .negotiateAlgorithms => (s, .capabilities)
  | .getCertificate slot => (s, if slot = 0 ∧ identityOk s = true then .certificates 0 else .refused)
  | .getMeasurements => (s, if identityOk s then .measurements s.mc.measures else .refused)
  | .keyExchange =>
    if doe ∧ secured = false ∧ identityOk s = true then ({ s with hi := { s.hi with spdmSession := true } }, .session)
    else (s, .refused)
  | .endSession =>
    if secured then ({ s with hi := { s.hi with spdmSession := false } }, .accepted) else (s, .refused)

/-- A request to the MCTP endpoint (R520). -/
def mctpRequest (s : State) (m : MctpMessage) : State :=
  let put (t : State) (a : Answer) : State := { t with mc := { t.mc with answer := a } }
  if s.pw.auxUp then
    match m with
    | .control => put s .accepted
    | .sensor i => put s (.reading (sensorPresent s i) (sensorReading s i))
    | .firmware op c =>
      if 1 ≤ op ∧ op ≤ 4 then mcCommandOpen s op { c with mctp := true } else put s .refused
    | .spdm r => let x := spdmAnswer s false false r; put x.1 x.2
    | .vendor op c => mcCommandOpen s op { c with mctp := true }
  else s

/-- A response is in the mailbox: its message uses vector 0 (R485). -/
def doePut (s : State) (a : Answer) : State := sendMsix { s with hi := { s.hi with doeOut := a } } 0

/-- The CDAT ranges: one for each present stack (R471, R491). -/
def cdatRanges (s : State) : List (Nat × Nat) :=
  ((List.range 12).filter fun n => present s (unitHS n)).map fun n => (n * 2 ^ 37, stackBytes)

/-- IDE keys for a stream, inside a secured session: the stream is secure (R492). -/
def ideKeys (s : State) (mem : Bool) : State :=
  ideStatus { s with hi := if mem then { s.hi with ideMem := .secure } else { s.hi with ideIo := .secure } }

/-- A data object in the DOE mailbox (R491): one longer than 64 KiB is discarded with Error. -/
def doeObject (s : State) (o : DoeObject) : State :=
  let n := match o with
    | .discovery n => n
    | .spdm n _ => n
    | .secured n _ => n
    | .ideKm n _ => n
    | .cdat n => n
  if linkUp s = false then s
  else if 65536 < n then { s with hi := { s.hi with doeError := true } }
  else
    match o with
    | .discovery _ => doePut s .protocols
    | .spdm _ r => let x := spdmAnswer s true false r; doePut x.1 x.2
    | .secured _ r =>
      if s.hi.spdmSession then let x := spdmAnswer s true true r; doePut x.1 x.2 else doePut s .refused
    | .ideKm _ mem => if s.hi.spdmSession then doePut (ideKeys s mem) .accepted else doePut s .refused
    | .cdat _ => doePut s (.ranges (cdatRanges s))

/-! ### Meanings -/

/-- CFG_LOCK (R523). -/
def execCfgLock (s : State) : Host.Outcome State Fault Refusal := .next (if commandable s unitMC then cfgLock s else s)

/-- UPDATE_BEGIN (R504). -/
def execUpdateBegin (c : McCall) (s : State) : Host.Outcome State Fault Refusal := .next (mcCommand s 0x01 c [])

/-- UPDATE_DATA (R504, R505). -/
def execUpdateData (c : McCall) (s : State) : Host.Outcome State Fault Refusal := .next (mcCommand s 0x02 c [])

/-- UPDATE_END (R504). -/
def execUpdateEnd (c : McCall) (s : State) : Host.Outcome State Fault Refusal := .next (mcCommand s 0x03 c [])

/-- UPDATE_ABORT (R505). -/
def execUpdateAbort (c : McCall) (s : State) : Host.Outcome State Fault Refusal := .next (mcCommand s 0x04 c [])

/-- PROFILE_WRITE (R510). -/
def execProfileWrite (c : McCall) (s : State) : Host.Outcome State Fault Refusal := .next (mcCommand s 0x10 c [])

/-- PROFILE_SELECT_NEXT (R513). -/
def execProfileSelectNext (c : McCall) (s : State) : Host.Outcome State Fault Refusal := .next (mcCommand s 0x11 c [])

/-- PROFILE_READ (R521). -/
def execProfileRead (c : McCall) (s : State) : Host.Outcome State Fault Refusal := .next (mcCommand s 0x12 c [])

/-- CLEAR_BOOT_COUNT (R509, R521). -/
def execClearBootCount (c : McCall) (s : State) : Host.Outcome State Fault Refusal := .next (mcCommand s 0x20 c [])

/-- ENTER_STRONGBOX (R508). -/
def execEnterStrongbox (c : McCall) (s : State) : Host.Outcome State Fault Refusal := .next (mcCommand s 0x21 c [])

/-- FUSE_SVN (R502, R503). -/
def execFuseSvn (c : McCall) (s : State) : Host.Outcome State Fault Refusal := .next (mcCommand s 0x30 c [])

/-- REVOKE_SLOT (R503). -/
def execRevokeSlot (c : McCall) (s : State) : Host.Outcome State Fault Refusal := .next (mcCommand s 0x31 c [])

/-- DIAG_TRAIN (R346, R521), with the failing lanes the training finds in each channel. -/
def execDiagTrain (c : McCall) (bad : List Nat) (s : State) : Host.Outcome State Fault Refusal := .next (mcCommand s 0x40 c bad)

/-- DIAG_PORT (R521). What the lanes measure goes into the report, whose layout is open. -/
def execDiagPort (c : McCall) (_lanes : List LaneTest) (s : State) : Host.Outcome State Fault Refusal := .next (mcCommand s 0x41 c [])

/-- RECORD_READ (R521). -/
def execRecordRead (c : McCall) (s : State) : Host.Outcome State Fault Refusal := .next (mcCommand s 0x50 c [])

/-- UNDEFINED_MC_OP (R522): any other OP. -/
def execUndefinedMcOp (op : Nat) (c : McCall) (s : State) : Host.Outcome State Fault Refusal :=
  .next (if mcOps.contains (op % 256) then s else mcCommand s (op % 256) c [])

/-- MCTP_REQUEST (R520). -/
def execMctpRequest (m : MctpMessage) (s : State) : Host.Outcome State Fault Refusal := .next (mctpRequest s m)

/-- SESSION_TIMEOUT (R505). -/
def execSessionTimeout (s : State) : Host.Outcome State Fault Refusal := .next (sessionTimeout s)

/-- DOE_OBJECT (R491, R492). -/
def execDoeObject (o : DoeObject) (s : State) : Host.Outcome State Fault Refusal := .next (doeObject s o)

end Sys2Proof.Machine
end

