-- ==== Sys2Proof/Machine/Assay.lean ====
section
/-! DEFINITION. The assay and the disable check (R55, R56, R65 to R73, with the cases of each block's chapter), what a check
that passes starts or stops, and the block reset (R57). -/

namespace Sys2Proof.Machine

open Sys2Proof

/-! ### Findings (R66, R70) -/

/-- What a check finds: a reason, the register that holds the offending field, the other unit. -/
structure Finding where
  reason : Nat
  reg : Option Nat := none
  other : Option UnitId := none
  deriving DecidableEq, Repr

/-- A finding about a register, when a condition holds. -/
def bad (c : Bool) (reason off : Nat) : List Finding := if c then [{ reason := reason, reg := some off }] else []

/-- The place of a unit in the order of R70: quarter, local index, then type. -/
def unitRank (u : UnitId) : Nat := (u.q * 16 + u.i) * 64 + u.ty

/-- The order of R70: class and detail, register, other unit; a finding that names none comes after those that do. -/
def findingRank (f : Finding) : Nat :=
  (f.reason * 1024 + (f.reg.map fun r => r / 8).getD 512) * 2 ^ 16 + (f.other.map unitRank).getD (2 ^ 16 - 1)

/-- The finding that ASSAY reports. -/
def chooseFinding (fs : List Finding) : Option Finding := leastBy findingRank fs

/-! ### What a block requires (R66, and each chapter) -/

/-- The reason when a named unit is absent (R71). -/
def absentReason (u : UnitId) : Nat :=
  match u.ty with
  | 0x0B => 0x0102
  | 0x0C => 0x0103
  | 0x01 => 0x0104
  | 0x05 => 0x0105
  | _ => 0x0101

/-- The clearing engine a gather engine requires (R215): its quarter's, or while that one is retired the one that serves. -/
def requiredCl (s : State) (q : Nat) : UnitId :=
  if retired s (unitCL q) then ((servingCl s q).map unitCL).getD (unitCL q) else unitCL q

/-- The blocks a page's block requires, with the register that names each. -/
def requires (s : State) (u : UnitId) : List (UnitId × Option Nat) :=
  let on (l : List UnitId) : List (UnitId × Option Nat) := l.map fun x => (x, none)
  let lg := unitLG u.q
  match u.ty with
  | 0x01 => on [lg]
  | 0x02 => on [lg, unitPD, requiredCl s u.q]
  | 0x03 => on [lg]
  | 0x04 => on [lg]
  | 0x05 => on [lg]
  | 0x06 => on [lg]
  | 0x07 => on [unitPD, lg]
  | 0x08 => on [unitPD, lg]
  | 0x09 =>
    let st := getF s u 0x128 40 37
    on [unitES u.q, unitTB] ++ if st < 12 ∧ getF s u 0x128 49 41 = 0 then [(unitHS st, some 0x128)] else []
  | 0x0A =>
    if getF s u 0x100 1 0 = 1 then
      on (((List.range 3).map fun i => (⟨0x0B, u.q, i⟩ : UnitId)).filter fun h => present s h && !retired s h)
    else []
  | 0x0C => on [unitPD]
  | 0x0D => on [lg]
  | 0x0E => on [unitEX]
  | 0x21 => on ((List.range 4).map unitLG)
  | 0x23 => ((List.range 48).filter fun n => bitOf (getReg s u 0x128) n).map fun n => (unitKP n, some 0x128)
  | 0x26 => on [unitTB, unitPD]
  | _ => []

/-- What a check finds of one required block (R64, R67): a block whose own check is pending counts as not enabled. -/
def need (s : State) (r : UnitId × Option Nat) : List Finding :=
  let f (reason : Nat) : List Finding := [⟨reason, r.2, some r.1⟩]
  if !present s r.1 then f (absentReason r.1)
  else if retired s r.1 then f 0x0110
  else if assayBusy s r.1 then f 0x0802
  else if !enabled s r.1 then f 0x0801
  else []

/-! ### Field checks, block by block -/

/-- R82. -/
def checkTB (s : State) : List Finding :=
  let u := unitTB
  let iv := getF s u 0x120 31 16
  let role := getF s u 0x120 1 0
  bad (decide (4096 < iv)) 0x0201 0x120 ++ bad (decide (iv < 16)) 0x0202 0x120 ++ bad (getF s u 0x120 15 8 = 0) 0x0202 0x120 ++
    bad (role = 3) 0x0204 0x120 ++ bad ((role = 1 || role = 2) && getF s u 0x128 47 0 = 0) 0x0203 0x128

/-- R95, R182. -/
def checkMA (s : State) (u : UnitId) : List Finding :=
  let m := getReg s u 0x100
  let set := (List.range 22).filter fun n => bitOf m n
  bad (set.any fun n => (elemOf n).isNone) 0x0501 0x100 ++
    bad (set.any fun n => (elemOf n).isSome && !matrixFmt n) 0x0502 0x100 ++ bad (getF s u 0x110 7 0 = 0) 0x0203 0x110

/-- R215. -/
def checkGE (s : State) (u : UnitId) : List Finding :=
  let t := getF s u 0x100 16 0
  bad (decide (65536 < t)) 0x0201 0x100 ++ bad (decide (t < 256)) 0x0202 0x100

/-- R23, R286. -/
def checkVE (s : State) (u : UnitId) : List Finding :=
  let arrays := [⟨0x01, u.q, 2 * u.i⟩, ⟨0x01, u.q, 2 * u.i + 1⟩]
  let here := arrays.filter fun a => present s a
  if getF s u 0x100 0 0 = 0 then []
  else if here.isEmpty then [⟨0x0104, some 0x100, arrays.head?⟩]
  else if here.all (fun a => retired s a) then [⟨0x0110, some 0x100, here.head?⟩]
  else []

/-- R252. -/
def checkQC (s : State) (u : UnitId) : List Finding :=
  bad (getF s u 0x200 1 1 = 1 && getF s u 0x008 17 17 = 0) 0x0204 0x200 ++
    bad (getF s u 0x200 0 0 = 1 && getF s u 0x008 16 16 = 0) 0x0204 0x200

/-- FLOW_COUNT of a ledger. -/
def flowCount (s : State) (q : Nat) : Nat := getF s (unitLG q) 0x100 10 0

/-- R331. -/
def checkLG (s : State) (u : UnitId) : List Finding :=
  let base := getF s u 0x128 49 0
  let size := getF s u 0x130 49 0
  let ticks := (List.range 4).flatMap fun k =>
    let t := getF s u (0x108 + 8 * k) 19 0
    bad (decide (1000000 < t)) 0x0201 (0x108 + 8 * k) ++ bad (decide (t < 100)) 0x0202 (0x108 + 8 * k)
  let named := decide (base / 2 ^ 37 < 12)
  let others := ((List.range 4).filter fun q => q ≠ u.q && enabled s (unitLG q)).map (flowCount s)
  bad (decide (1024 < flowCount s u.q)) 0x0201 0x100 ++ ticks ++ bad (decide (size < 2 ^ 20)) 0x0202 0x130 ++
    bad (base % 4096 ≠ 0) 0x0302 0x128 ++ bad (size % 4096 ≠ 0) 0x0304 0x130 ++ bad (!named) 0x0204 0x128 ++
    bad (named && decide (stackBytes < base % 2 ^ 37 + size)) 0x0205 0x128 ++
    bad (decide (1024 < flowCount s u.q + others.foldl (· + ·) 0)) 0x0604 0x100

/-- R364, R371. -/
def checkVB (s : State) (u : UnitId) : List Finding :=
  bad (decide (2 ≤ getF s u 0x100 1 0)) 0x0204 0x100 ++ if getF s u 0x18 24 24 = 1 then [{ reason := 0x0402 }] else []

/-- R373. -/
def checkHS (s : State) (u : UnitId) : List Finding :=
  let reg (n : Nat) : Nat := 0x100 + 8 * n
  let ns := List.range 16
  let on := ns.filter fun n => getF s u (reg n) 16 16 = 1
  let share (n : Nat) : Nat := getF s u (reg n) 8 0
  let hours := getF s u 0x198 31 16
  let part (hi lo : Nat) : List Finding := bad (!on.contains (getF s u 0x180 hi lo)) 0x0204 0x180
  let off := getF s u 0x188 36 0
  let size := getF s u 0x190 36 0
  let rivals := ((List.range 3).map fun i => (⟨0x0B, u.q, i⟩ : UnitId)).filter fun o =>
    o ≠ u && present s o && enabled s o && getF s o 0x188 63 63 = 1
  let cache := if getF s u 0x188 63 63 = 0 then [] else
    bad (off % 4096 ≠ 0) 0x0302 0x188 ++ bad (size = 0 || size % 4096 ≠ 0) 0x0304 0x190 ++
      bad (decide (stackBytes < off + size)) 0x0205 0x188 ++ rivals.map fun o => { reason := 0x0402, other := some o }
  ns.flatMap (fun n => bad (decide (256 < share n)) 0x0201 (reg n)) ++
    on.flatMap (fun n => bad (decide (getF s u (reg n) 63 48 < 16)) 0x0202 (reg n)) ++
    bad (decide (168 < hours)) 0x0201 0x198 ++ bad (hours = 0 || getF s u 0x198 7 0 = 0) 0x0202 0x198 ++ part 3 0 ++ part 7 4 ++
    part 11 8 ++ (if 256 < (on.map share).foldl (· + ·) 0 then [{ reason := 0x0206 }] else []) ++
    (if 8 < (on.filter fun n => getF s u (reg n) 17 17 = 1).length then [{ reason := 0x0605 }] else []) ++ cache

/-- R422. -/
def checkKP (s : State) (u : UnitId) : List Finding :=
  bad (getF s u 0x100 1 0 = 3) 0x0204 0x100 ++ bad (getF s u 0x100 23 8 = 0) 0x0203 0x100

/-- An address in stack form (R335). -/
def stackForm (a : Nat) : Bool := a / 2 ^ 60 = 1 && natField a 59 41 = 0 && decide (natField a 40 37 < 12)

/-- R424. -/
def checkPD (s : State) : List Finding :=
  let u := unitPD
  let slot := getF s u 0x150 3 0
  let size := getF s u 0x148 36 0
  let a := (getReg s u 0x140).toNat
  let hs := unitHS (natField a 40 37)
  let area :=
    if size = 0 then []
    else bad (size % 2 ^ (6 + slot) ≠ 0) 0x0204 0x148 ++
      if stackForm a then
        (if present s hs then [] else [⟨0x0102, some 0x140, some hs⟩]) ++ bad (a % 4096 ≠ 0) 0x0302 0x140 ++
          bad (decide (stackBytes < natField a 36 0 + size)) 0x0205 0x140
      else bad true 0x0204 0x140
  bad (getF s u 0x150 47 32 = 0) 0x0203 0x150 ++ bad (decide (8 < slot)) 0x0201 0x150 ++ area

/-- R426. -/
def checkCL (s : State) (u : UnitId) : List Finding :=
  let b := getF s u 0x100 31 16
  bad (decide (32768 < b)) 0x0201 0x100 ++ bad (decide (b < 1024)) 0x0202 0x100

/-- R426. -/
def checkCO (s : State) (u : UnitId) : List Finding :=
  let p := getF s u 0x100 19 0
  bad (decide (1000000 < p)) 0x0201 0x100 ++ bad (decide (p < 100)) 0x0202 0x100

/-- A range of escrow: its register, its address and its length. -/
structure Range where
  reg : Nat
  addr : Nat
  bytes : Nat
  deriving DecidableEq, Repr

def Range.meets (a b : Range) : Bool := decide (a.addr < b.addr + b.bytes ∧ b.addr < a.addr + a.bytes)

/-- The enabled regions of a quarter part: number, length, whether twinned. -/
def esRegions (s : State) (u : UnitId) : List (Nat × Nat × Bool) :=
  (List.range 16).filterMap fun n =>
    let b := getReg s u (0x108 + 0x18 * n)
    if bitOf b 63 then some (n, field b 36 0, bitOf b 62) else none

/-- The ranges of a quarter part: regions, twins, and the undo and state areas. -/
def esRanges (s : State) (u : UnitId) : List Range :=
  let at_ (off : Nat) : Nat := (getReg s u off).toNat
  (esRegions s u).flatMap (fun r =>
    ⟨0x100 + 0x18 * r.1, at_ (0x100 + 0x18 * r.1), r.2.1⟩ ::
      if r.2.2 then [⟨0x110 + 0x18 * r.1, at_ (0x110 + 0x18 * r.1), r.2.1⟩] else []) ++
    (if getF s u 0x288 36 0 = 0 then [] else [⟨0x280, at_ 0x280, getF s u 0x288 36 0⟩]) ++
    (if getF s u 0x298 36 0 = 0 then [] else [⟨0x290, at_ 0x290, getF s u 0x298 36 0⟩])

/-- The least STATE_BYTES (R432). -/
def stateNeed (s : State) (u : UnitId) : Nat :=
  let pages (twinned : Bool) : Nat :=
    (((esRegions s u).filter fun r => r.2.2 = twinned).map fun r => ceilDiv r.2.1 4096).foldl (· + ·) 0
  roundUp (16 * pages true + 8 * (getF s u 0x288 36 0 / 4096) + ceilDiv (pages false) 8) 4096

/-- Device areas that no range of escrow may overlap (R464), with their units. -/
def foreignAreas (s : State) (q : Nat) : List (Range × UnitId) :=
  let hs := (List.range 3).filterMap fun i =>
    let u : UnitId := ⟨0x0B, q, i⟩
    if present s u && enabled s u && getF s u 0x188 63 63 = 1 then
      some (⟨0, stackAddr (3 * q + i) (getF s u 0x188 36 0), getF s u 0x190 36 0⟩, u)
    else none
  hs ++ if enabled s unitPD && getF s unitPD 0x148 36 0 ≠ 0 then
    [(⟨0, (getReg s unitPD 0x140).toNat, getF s unitPD 0x148 36 0⟩, unitPD)] else []

/-- One range of escrow by itself. -/
def checkRange (s : State) (q : Nat) (r : Range) : List Finding :=
  let hs := unitHS (natField r.addr 40 37)
  if stackForm r.addr && natField r.addr 40 37 / 3 = q then
    (if present s hs then [] else [⟨0x0102, some r.reg, some hs⟩]) ++ bad (r.addr % 4096 ≠ 0) 0x0302 r.reg ++
      bad (decide (stackBytes < natField r.addr 36 0 + r.bytes)) 0x0205 r.reg ++
      ((foreignAreas s q).filter fun f => r.meets f.1).map fun f => ⟨0x0401, some r.reg, some f.2⟩
  else bad true 0x0204 r.reg

/-- R432, R464. -/
def checkES (s : State) (u : UnitId) : List Finding :=
  let rs := esRanges s u
  let undo := getF s u 0x288 36 0
  let state := getF s u 0x298 36 0
  let regions := esRegions s u
  let sizes := regions.flatMap fun r =>
    bad (r.2.1 = 0) 0x0203 (0x108 + 0x18 * r.1) ++ bad (r.2.1 % 4096 ≠ 0) 0x0304 (0x108 + 0x18 * r.1)
  let overlap := rs.flatMap fun a => bad (rs.any fun b => a.reg ≠ b.reg && a.meets b) 0x0404 a.reg
  (if phase s = 0 then [] else [{ reason := 0x0704 }]) ++ sizes ++ bad (undo % 4096 ≠ 0) 0x0304 0x288 ++
    bad (state % 4096 ≠ 0) 0x0304 0x298 ++ bad (undo = 0 && regions.any fun r => !r.2.2) 0x0203 0x288 ++
    bad (state = 0 && !regions.isEmpty) 0x0203 0x298 ++ bad (decide (state < stateNeed s u)) 0x0202 0x298 ++
    rs.flatMap (checkRange s u.q) ++ overlap

/-- R466. -/
def checkEX (s : State) : List Finding :=
  let u := unitEX
  let target := getF s u 0x100 11 0
  let root := getF s u 0x128 63 63 = 1
  let size := getF s u 0x128 42 32
  let me := deviceId s
  let parent := getF s u 0x128 9 0
  let kids := (List.range 32).filter fun n => getF s u (0x180 + 8 * n) 63 63 = 1
  let dev (n : Nat) : Nat := getF s u (0x180 + 8 * n) 9 0
  let kid (n : Nat) : List Finding :=
    bad (dev n = me || (!root && dev n = parent)) 0x0204 (0x180 + 8 * n) ++
      bad (kids.any fun m => decide (m < n) && dev m = dev n) 0x0405 (0x180 + 8 * n)
  bad (decide (4000 < target)) 0x0201 0x100 ++ bad (decide (1024 < size)) 0x0201 0x128 ++
    bad (decide (target < 10)) 0x0202 0x100 ++ bad (getF s u 0x108 47 0 = 0) 0x0203 0x108 ++
    bad (getF s u 0x100 23 16 = 0) 0x0203 0x100 ++ bad (root && size = 0) 0x0203 0x128 ++
    bad (!root && parent = me) 0x0204 0x128 ++ kids.flatMap kid

/-- The BLOCK_VEC registers there are (R496). -/
def blockVecs : List Nat := ((List.range 4).flatMap fun q => (List.range 14).map fun t => 16 * q + t + 1) ++ (List.range 7).map (64 + ·)

/-- R494. -/
def checkHI (s : State) : List Finding :=
  let u := unitHI
  let size := getF s u 0x1C0 11 0
  let on := getF s u 0x188 63 63 = 1
  let log2 := getF s u 0x188 4 0
  let count := getF s u 0x1C8 2 0
  let vecs := blockVecs.flatMap fun k =>
    let w := getReg s u (0x800 + 8 * k)
    bad (bitOf w 63 && decide (size ≤ field w 10 0)) 0x0607 (0x800 + 8 * k)
  bad (decide (2048 < size)) 0x0201 0x1C0 ++ bad (decide (16 < log2)) 0x0201 0x188 ++ bad (on && decide (log2 < 6)) 0x0202 0x188 ++
    bad (size = 0) 0x0203 0x1C0 ++ bad (on && getF s u 0x180 11 0 ≠ 0) 0x0302 0x180 ++
    bad (count ≠ 0 && getF s unitDEV 0x008 5 5 = 0) 0x0106 0x1C8 ++ bad (decide (4 < count)) 0x0606 0x1C8 ++
    bad (on && decide (size ≤ getF s u 0x188 26 16)) 0x0607 0x188 ++ vecs

/-- R548. -/
def checkPW (s : State) : List Finding :=
  let u := unitPW
  let cap := getF s u 0x100 12 0
  let warn := getF s u 0x110 7 0
  let clocks := (List.range 4).flatMap fun k =>
    let v := getF s u 0x108 (16 * k + 15) (16 * k)
    bad (decide (classMax k < v)) 0x0201 0x108 ++ bad (decide (8 * v < classMax k)) 0x0202 0x108
  bad (decide (ratedWatts s.variant < cap)) 0x0201 0x100 ++ bad (decide (cap < 1500)) 0x0202 0x100 ++ clocks ++
    bad (decide (warn < 60)) 0x0202 0x110 ++ bad (decide (99 < warn)) 0x0201 0x110

/-- The page's own fields. -/
def fieldChecks (s : State) (u : UnitId) : List Finding :=
  match u.ty with
  | 0x01 => checkMA s u
  | 0x02 => checkGE s u
  | 0x03 => checkVE s u
  | 0x06 => checkQC s u
  | 0x07 => checkCL s u
  | 0x08 => checkCO s u
  | 0x09 => checkLG s u
  | 0x0A => checkVB s u
  | 0x0B => checkHS s u
  | 0x0C => checkKP s u
  | 0x0E => checkES s u
  | 0x21 => checkHI s
  | 0x23 => checkTB s
  | 0x24 => checkPD s
  | 0x25 => checkPW s
  | 0x26 => checkEX s
  | _ => []

/-- The pages whose assay can pass in strongbox mode (R72, R509). -/
def strongboxPage (u : UnitId) : Bool := u = unitDEV || u = unitMC || u = unitPW || u = unitTB

/-- What an assay finds (R66): strongbox mode and a locked page refuse before anything else is examined (R70, R512). -/
def assayFindings (s : State) (u : UnitId) : List Finding :=
  if strongbox s && !strongboxPage u then [{ reason := 0x0701 }]
  else if !present s u then [{ reason := 0x0101 }]
  else if pageLocked s u then [{ reason := 0x0702 }]
  else (if retired s u then [{ reason := 0x0110 }] else []) ++ (requires s u).flatMap (need s) ++ fieldChecks s u

/-- Enabled blocks that require a block (R68). -/
def dependents (s : State) (u : UnitId) : List UnitId :=
  allUnits.filter fun x => x ≠ u && present s x && enabled s x && (requires s x).any fun r => r.1 = u

/-- What a disable check finds (R68, R439, R512): the engine that holds the commit role stays enabled. -/
def disableFindings (s : State) (u : UnitId) : List Finding :=
  if pageLocked s u then [{ reason := 0x0702 }]
  else (dependents s u).map (fun x => { reason := 0x0803, other := some x }) ++
    if u.ty = 0x08 ∧ getF s u 0x18 20 20 = 1 then [{ reason := 0x0803, other := some unitEX }] else []

/-! ### Starting a check (R56, R65) -/

/-- A check starts: ASSAY_BUSY reads 1. -/
def startCheckOn (s : State) (u : UnitId) (disable : Bool) : State :=
  let s1 := setF s u 0x18 0 0 1
  if disable then { s1 with disableChecks := u :: s1.disableChecks } else s1

/-- A block reset starts (R57): on a disabled page that is not locked (R512). INT_MASK returns to its reset value at once, so
that a write during the reset stays. -/
def resetStart (s : State) (u : UnitId) : State :=
  if enabled s u || pageLocked s u then raiseErr s u 2 else setF (setInt s u 0x38 0) u 0x10 1 1 1

/-- A write of CTRL with its low bits (R11, R56, R57, R74, R524). -/
def ctrlWrite (s : State) (u : UnitId) (reset enable : Bool) : State :=
  if !present s u then (if enable && !reset then { s with absentAssays := s.absentAssays ++ [u] } else s)
  else if u = unitDEV ∨ u = unitMC ∨ resetting s u = true then s
  else if assayBusy s u then raiseErr s u 2
  else if reset then resetStart s u
  else if enable = enabled s u then s
  else startCheckOn s u (!enable)

/-! ### What a passed check does -/

/-- A block has been enabled. -/
def onEnable (u : UnitId) (s : State) : State :=
  match u.ty with
  | 0x08 => passRole s
  | 0x0B => setF s u 0x18 21 21 (getF s u 0x188 63 63)
  | 0x0C => startTraining s (globalOf u)
  | 0x0D => setReg (setReg (setF s u 0x18 18 17 3) u 0x118 (BitVec.ofNat 64 (now s))) u 0x120 2
  | 0x21 => errFull (lostCheck s)
  | 0x23 => syncStart s
  | _ => s

/-- A block has been disabled: an engine's waiting tasks go back to the ready list (R68). -/
def onDisable (u : UnitId) (s : State) : State :=
  match u.ty with
  | 0x08 => passRole (returnTills s u)
  | 0x0B => setF s u 0x18 21 21 0
  | 0x0C => linkDown s (globalOf u)
  | 0x0D => setReg (setF s u 0x18 18 17 0) u 0x120 0
  | 0x21 => errFull s
  | _ => if decide (1 ≤ u.ty ∧ u.ty ≤ 7) then returnTills s u else s

/-! ### Finishing a check (R65, R69, R78) -/

/-- The ASSAY register's locator and reason. -/
def assayWord (f : Option Finding) : Word :=
  match f with
  | none => 0
  | some x =>
    let w0 : Word := putField 0 15 0 x.reason
    let w1 := match x.reg with
      | some r => putField (putField w0 42 42 1) 41 33 (r / 8)
      | none => w0
    match x.other with
    | some o => putField (putField (putField (putField w1 63 56 o.i) 55 48 o.ty) 47 44 o.q) 43 43 1
    | none => w1

/-- DEV ASSAY_LAST: the page, the count of refusals, the reason (R78). -/
def noteRefusal (s : State) (u : UnitId) (reason : Nat) : State :=
  let n := getF s unitDEV 0x150 31 16 + 1
  setReg s unitDEV 0x150 (putField (putField (putField 0 57 32 (pageOf u)) 31 16 n) 15 0 reason)

/-- A check on a present page finishes. -/
def finishCheck (s : State) (u : UnitId) : State :=
  let off := s.disableChecks.contains u
  let f := chooseFinding (if off then disableFindings s u else assayFindings s u)
  let seq := getF s u 0x20 31 16 + 1
  let s1 := setReg (setF { s with disableChecks := s.disableChecks.filter fun x => x ≠ u } u 0x18 0 0 0) u 0x20
    (putField (assayWord f) 31 16 seq)
  match f with
  | some x => noteRefusal (raiseInt (raiseInt s1 u 0) u 1) u x.reason
  | none =>
    if off then onDisable u (raiseInt (setF s1 u 0x10 0 0 0) u 0) else onEnable u (raiseInt (setF s1 u 0x10 0 0 1) u 0)

/-- A running check finishes (R65); one on an absent unit's page shows only in DEV ASSAY_LAST (R11). -/
def assayDone (s : State) (u : UnitId) : State :=
  if present s u then (if assayBusy s u then finishCheck s u else s)
  else if u ∈ s.absentAssays then
    let s1 := { s with absentAssays := s.absentAssays.erase u }
    noteRefusal s1 u (if strongbox s && !strongboxPage u then 0x0701 else 0x0101)
  else s

/-! ### The block reset (R57) -/

/-- Registers a block reset leaves as they are. -/
def keptByReset (u : UnitId) (off : Nat) : Bool :=
  off = 0x38 ||
    match u.ty with
    | 0x0B => off = 0x1A8 || off = 0x1B0
    | 0x21 => off = 0x1F0
    | 0x25 => [0x140, 0x148, 0x150, 0x158, 0x160, 0x168, 0x170, 0x188].contains off
    | _ => false

/-- The spare columns of an array as the record store has them (R176, R184). -/
def spareMap (s : State) (ma : Nat) : Word :=
  ((spareEntries s).filter fun e => e.1 = 0x0001 && leAt e.2 0 2 = ma).foldl (fun w e =>
    putField w (8 * (leAt e.2 2 1 % 2) + 7) (8 * (leAt e.2 2 1 % 2)) (leAt e.2 3 1)) (regReset s.variant (unitMA ma) 0x108)

/-- Lines that an abandoned invalidation has left (R364): which ones it had reached is open. -/
def keepLines : List CacheLine → State → State × List CacheLine
  | [], s => (s, [])
  | l :: t, s =>
    let r := drawFree s
    let x := keepLines t r.1
    (x.1, if (Config.freeByte r.2).getLsbD 0 then l :: x.2 else x.2)

/-- A bank after a block reset: lines and tags stay (R57), and an invalidation is abandoned (R364). -/
def resetBank (before s : State) (u : UnitId) : State :=
  let b := globalOf u
  let v := bankOf s b
  let valid := getF before u 0x18 25 25
  if getF before u 0x18 24 24 = 1 then
    let r := keepLines v.lines s
    let some1 := v.lines.isEmpty || !r.2.isEmpty
    setF (setBank r.1 b { v with lines := r.2 }) u 0x18 25 25 (if some1 then valid else 0)
  else setF s u 0x18 25 25 valid

/-- A range of a tile's own memory is cleared. -/
def clearTile (s : State) (u : UnitId) (off n : Nat) : State := { s with mem := tblClear s.mem (tileAddr u off) n }

/-- What an engine holds beside its registers and a block reset clears: its recorded context (R325), an array's pinned area
(R163), and a vector engine's scratch area at its behaviour level (R258). -/
def resetEngine (s : State) (u : UnitId) : State :=
  let s1 := setEng s u { engOf s u with ctx := none }
  match u.ty with
  | 0x01 => clearTile s1 u 0x280000 0x180000
  | 0x03 => clearTile (if behaviourLevel s1 = 2 then clearTile s1 u 0x10000 0x40000 else s1) u 0x80000 0x380000
  | _ => s1

/-- What a block keeps beside its registers and a reset clears. -/
def resetInside (before : State) (u : UnitId) (s : State) : State :=
  match u.ty with
  | 0x01 => resetEngine (setReg s u 0x108 (spareMap s (globalOf u))) u
  | 0x02 | 0x03 | 0x04 | 0x05 | 0x06 | 0x07 | 0x08 => resetEngine s u
  | 0x0A => resetBank before s u
  | 0x0C => setPort s (globalOf u) {}
  | 0x21 => ideStatus (resetHostIf s false)
  | 0x23 => { s with tb := { s.tb with armed := false, lockedOnce := false } }
  | 0x24 => flushReplicas (setReg s u 0x188 (getReg before u 0x188))
  | 0x26 => { s with esc := { s.esc with startWanted := false, startSent := false, starts := [], votes := [], requestSent := false } }
  | _ => s

/-- A block reset completes (R57): every register of the page returns to its reset value but for those that persist. -/
def resetComplete (s : State) (u : UnitId) : State :=
  if present s u && resetting s u then
    let s1 := resetInside s u (clearPage s u (keptByReset u))
    if retired s u then setF s1 u 0x18 3 3 1 else s1
  else s

/-! ### Meanings -/

/-- ASSAY (R56, R65): CTRL is written with ENABLE = 1 while ENABLE reads 0. -/
def execAssay (u : UnitId) (s : State) : Host.Outcome State Fault Refusal :=
  .next (if linkUp s ∧ isUnit u = true ∧ enabled s u = false then ctrlWrite s u false true else s)

/-- DISABLE_CHECK (R56, R65): CTRL is written with ENABLE = 0 while ENABLE reads 1. -/
def execDisableCheck (u : UnitId) (s : State) : Host.Outcome State Fault Refusal :=
  .next (if linkUp s ∧ isUnit u = true ∧ enabled s u = true then ctrlWrite s u false false else s)

/-- ASSAY_DONE (R65). -/
def execAssayDone (u : UnitId) (s : State) : Host.Outcome State Fault Refusal := .next (assayDone s u)

/-- RESET (R56, R57): CTRL is written with RESET = 1. -/
def execReset (u : UnitId) (s : State) : Host.Outcome State Fault Refusal :=
  .next (if linkUp s ∧ isUnit u = true then ctrlWrite s u true false else s)

/-- RESET_COMPLETE (R57). -/
def execResetComplete (u : UnitId) (s : State) : Host.Outcome State Fault Refusal := .next (resetComplete s u)

end Sys2Proof.Machine
end

