-- ==== Sys2Proof/Machine/Gather.lean ====
section
/-! DEFINITION. The gather engines (R185 to R217, R232, R233): index lists and segments, rows from the coalescing region, this
device's memory, replicas and owners, pooling with split slots and the fragment pool, UNIQUE and SCATTER, and registry
queries. -/

namespace Sys2Proof.Machine

open Sys2Proof

/-! ### Descriptor fields (R210) -/

def geOut (d : List Byte) : Nat := leAt d 33 1
def geCsr (d : List Byte) : Bool := (leAt d 34 1).testBit 0
def geSat (d : List Byte) : Bool := (leAt d 34 1).testBit 1
def geTable (d : List Byte) : Nat := leAt d 36 2
def geTag (d : List Byte) : Nat := leAt d 38 2
def geSegs (d : List Byte) : Nat := leAt d 40 4
def geBag (d : List Byte) : Nat := leAt d 44 4
def geWindow (d : List Byte) : Nat := leAt d 64 8
def geSplits (d : List Byte) : Nat := leAt d 104 4
def geDedup (d : List Byte) : Nat := leAt d 108 4
def gePool (d : List Byte) : Bool := dOp d = 2 || dOp d = 3

/-- Row formats pooling accepts: floats and integers (R197). -/
def gePoolFloat (f : Nat) : Bool := decide (f ≤ 0x04)
def gePoolInt (f : Nat) : Bool := f = 0x08 || f = 0x0C

/-- Bytes of a format whose elements are whole bytes. -/
def wholeBytes (f : Nat) : Nat := max 1 (elemBits f / 8)

/-- Elements of a pooled row. -/
def poolElems (v : TblVersion) : Nat := v.rowBytes / wholeBytes v.rowFmt

/-- Bytes of a pooled output row. -/
def poolOutBytes (d : List Byte) (v : TblVersion) : Nat := poolElems v * (if geOut d = 0x01 then 2 else 4)

/-- Bytes of a split slot (R205). -/
def splitBytes (v : TblVersion) : Nat := 64 + roundUp (poolElems v * (if gePoolInt v.rowFmt then 8 else 4)) 64

/-- Elements of a gradient row of UNIQUE (R207). -/
def gradElems (d : List Byte) (v : TblVersion) : Nat :=
  if v.rowFmt = 0xFF then v.rowBytes / wholeBytes (geOut d) else v.rowBytes * 8 / elemBits v.rowFmt

/-- Bytes of an entry of the coalescing region (R200). -/
def entryBytes (v : TblVersion) : Nat := 64 + v.rowBytes

/-- A range of vault addresses that lies in banks which serve as scratchpad. -/
def vaultRange (s : State) (a n : Nat) : Bool :=
  natField a 63 60 = 2 && natField a 59 31 = 0 && decide (natField a 30 0 + n ≤ 16 * bankBytes) &&
    (List.range 16).all fun b => bankServes s b || decide (natField a 30 0 + n ≤ b * bankBytes ∨ (b + 1) * bankBytes ≤ natField a 30 0)

/-! ### The check (R211) -/

/-- Faults of a gather descriptor that need no table version. -/
def gePlainFaults (d : List Byte) : List DescFault :=
  let op := dOp d
  let addrs := (if geCsr d then [48] else []) ++ [56] ++ (if op = 6 then [] else [72]) ++ (if op = 5 ∨ op = 6 then [88] else []) ++
    (if op = 5 ∨ (gePool d ∧ geSplits d ≠ 0) then [96] else []) ++ (if op ≠ 6 ∧ geDedup d ≠ 0 then [112] else [])
  alignFaults d (addrs.map fun f => (f, 8)) ++
  alignFaults d ((if op = 5 ∨ op = 6 then [] else [(80, 4)]) ++ (if op = 5 ∨ op = 6 then [(84, 4)] else [])) ++
  faultIf (decide (1023 < geTable d)) 0x07 36 ++
  faultIf (geSegs d = 0) 0x07 40 ++
  faultIf (!geCsr d && decide (geBag d < 1 ∨ 65536 < geBag d)) 0x07 44 ++
  faultIf (decide (geWindow d < 1 ∨ 2 ^ 32 < geWindow d)) 0x07 64 ++
  faultIf (gePool d && decide (65535 < geSplits d)) 0x07 104 ++
  faultIf (op ≠ 6 && geDedup d ≠ 0 && !(isPow2 (geDedup d) && decide (1024 ≤ geDedup d ∧ geDedup d ≤ 16777216))) 0x07 108 ++
  tileFaults d addrs

/-- Faults against the pinned version: formats, strides and the regions in scratchpad banks. -/
def geVersionFaults (s : State) (d : List Byte) (v : TblVersion) : List DescFault :=
  let op := dOp d
  let f := v.rowFmt
  faultIf (gePool d && !((gePoolFloat f && (geOut d = 0 || geOut d = 1)) || (gePoolInt f && (geOut d = 0x0C || geOut d = 0)))) 0x02 33 ++
  faultIf (op = 5 && !(geOut d = 0 || geOut d = 1)) 0x02 33 ++
  faultIf (op = 1 && decide (leAt d 80 4 < v.rowBytes)) 0x05 80 ++
  faultIf (gePool d && decide (leAt d 80 4 < poolOutBytes d v)) 0x05 80 ++
  faultIf (op = 6 && decide (leAt d 84 4 < v.rowBytes)) 0x05 84 ++
  faultIf (op = 5 && decide (leAt d 84 4 < gradElems d v * wholeBytes (geOut d))) 0x05 84 ++
  faultIf (gePool d && geSplits d ≠ 0 && !isTileForm (leAt d 96 8) &&
    !vaultRange s (leAt d 96 8) (geSplits d * splitBytes v)) 0x09 96 ++
  faultIf ((op = 1 || gePool d) && geDedup d ≠ 0 && !isTileForm (leAt d 112 8) &&
    !vaultRange s (leAt d 112 8) (geDedup d * entryBytes v)) 0x09 112

/-- The check of a gather task. -/
def geFaults (s : State) (t : Task) : List DescFault :=
  gePlainFaults t.desc ++
    match pinnedVersion s t with
    | some v => geVersionFaults s t.desc v
    | none => []

/-- The version a task uses; a task that names a table always has one pinned (R190). -/
def geVersion (s : State) (t : Task) : TblVersion := (pinnedVersion s t).getD ⟨0, 0, 0, 64, 0xFF, none, 0, 0, 0⟩

/-! ### Segments and rows (R193 to R198) -/

/-- The positions of a segment, clamped to the window (R193, R194): start and end, the end never below the start. -/
def segmentOf (s : State) (u : UnitId) (t : Task) (k : Nat) : State × Nat × Nat :=
  let d := t.desc
  let clamp (lo hi : Nat) : Nat × Nat := (min lo (geWindow d), max (min lo (geWindow d)) (min hi (geWindow d)))
  if geCsr d then
    let r := loadFor s u (partOf t) (leAt d 48 8 + 8 * k) 16
    (r.1, clamp (leAt r.2 0 8) (leAt r.2 8 8))
  else (s, clamp (k * geBag d) ((k + 1) * geBag d))

/-- The index at a position. -/
def indexAt (s : State) (u : UnitId) (t : Task) (p : Nat) : State × Nat :=
  loadLE s u (partOf t) (leAt t.desc 56 8 + 4 * p) 4

/-- The sector addresses of a range. -/
def sectorsOf (base n : Nat) : List Nat :=
  (List.range ((base + n + 63) / 64 - base / 64)).map fun k => (base / 64 + k) * 64

/-- A row that lies in part in no directory entry, or whose owner has answered that it holds none of it (R195, R403). -/
def rowMissing (s : State) (u : UnitId) (base n : Nat) : Bool :=
  (sectorsOf base n).any fun a => (dirFind s a).isNone || decide ((u, a) ∈ s.rem.missing)

/-- Reads a row (R198): from this device's memory, from a valid replica, or from its owner; whether any of it was remote. -/
def readRow (s : State) (u : UnitId) (part base n : Nat) : State × List Byte × Bool :=
  (sectorPieces base n).foldl (fun (r : State × List Byte × Bool) p =>
    let a := base + p.1
    match spotOf r.1 a 0, replicaOf r.1 a with
    | .remote _ _, some rep =>
      let x := load r.1 u part (replicaAddr r.1 rep + (a - rep.addr)) p.2
      (countHit x.1 rep, r.2.1 ++ x.2.1, r.2.2)
    | .remote _ _, none =>
      let x := remoteRead r.1 u a p.2
      (countLoad x.1 a 1, r.2.1 ++ x.2, true)
    | _, _ =>
      let x := loadFor r.1 u part a p.2
      (x.1, r.2.1 ++ x.2, r.2.2)) (s, [], false)

/-- Forgets what waits in an engine's reply buffer of a row. -/
def forgetRow (s : State) (u : UnitId) (base n : Nat) : State :=
  let secs := sectorsOf base n
  { s with rem := { s.rem with
      got := s.rem.got.filter (fun g => !(g.1 = u && secs.contains g.2.1))
      missing := s.rem.missing.filter fun g => !(g.1 = u && secs.contains g.2) } }

/-- Fetches a row with its counts (R216): none when it is missing. -/
def fetchRow (s : State) (u : UnitId) (t : Task) (v : TblVersion) (i : Nat) : State × Option (List Byte) :=
  let base := v.base + i * v.rowBytes
  if rowMissing s u base v.rowBytes then (forgetRow s u base v.rowBytes, none)
  else
    let r := readRow s u (partOf t) base v.rowBytes
    let s1 := if r.2.2 then countRequest (bump64 r.1 u 0x120 1) base else bump64 (bump64 r.1 u 0x118 1) u 0x110 (ceilDiv v.rowBytes 64)
    (if r.1.rem.wait then r.1 else forgetRow s1 u base v.rowBytes, some r.2.1)

/-! ### Work and jobs -/

/-- The gather task of an engine, if one has started. -/
def geRunOf (s : State) (u : UnitId) : Option GeRun :=
  match (engOf s u).work with
  | .ge r => some r
  | _ => none

/-- Changes it. -/
def mapGeRun (s : State) (u : UnitId) (f : GeRun → GeRun) : State :=
  match geRunOf s u with
  | some r => setEng s u { engOf s u with work := .ge (f r) }
  | none => s

/-- The task a job belongs to, while it still stands in front of its owner's tills (R199). -/
def jobTask (s : State) (j : GeJob) : Option Task :=
  match runningTask s (unitGE j.owner) with
  | some t => if t.seq = j.seq && (engOf s (unitGE j.owner)).done.isNone then some t else none
  | none => none

/-- The default row of a version, read once per task (R195). -/
def defaultRow (s : State) (u : UnitId) (t : Task) (v : TblVersion) (owner : UnitId) : State × List Byte :=
  match v.default with
  | none => (s, zeros v.rowBytes)
  | some a =>
    match (geRunOf s owner).bind fun r => r.default with
    | some bs => (s, bs)
    | none =>
      let r := readRow s u (partOf t) a v.rowBytes
      (if r.1.rem.wait then r.1 else mapGeRun (forgetRow r.1 u a v.rowBytes) owner fun x => { x with default := some r.2.1 }, r.2.1)

/-! ### Pooling arithmetic (R197) -/

/-- Adds a row to a running sum: FP32 codes for float rows, exact integers for integer rows; the flags it gives. -/
def addRow (v : TblVersion) (j : GeJob) (row : List Byte) : GeJob × Nat :=
  let codes := rowCodes v.rowFmt (poolElems v) row
  if gePoolInt v.rowFmt then
    let xs := codes.map (signedOf (elemBits v.rowFmt))
    ({ j with any := true, acc := if j.any then (j.acc.zip xs).map fun p => p.1 + p.2 else xs }, 0)
  else
    let xs := codes.map fun c => to32 (decodeElem v.rowFmt 0 c)
    let sums := if j.any then (j.acc.zip xs).map (fun p => let q := fadd32 p.1.toNat p.2.1; (q.1, q.2 ||| p.2.2)) else xs
    ({ j with any := true, acc := sums.map fun x => (x.1 : Int) }, sums.foldl (fun f x => f ||| x.2) 0)

/-- An integer clamped to the INT32 range; a clamp sets OVERFLOW. -/
def pooledInt (x : Int) : Nat × Nat :=
  (unsignedOf 32 (max (-(2 ^ 31)) (min (2 ^ 31 - 1) x)), flagIf (decide (x < -(2 ^ 31) ∨ 2 ^ 31 ≤ x)) flagOverflow)

/-- An exact integer quotient rounded to nearest, ties away from zero, and whether rounding changed it. -/
def roundQuot (x : Int) (count : Nat) : Int × Bool :=
  let h := 2 * x.natAbs / count
  let q := (h + 1) / 2
  (if x < 0 then -(q : Int) else q, decide (x.natAbs % count ≠ 0))

/-- One output element from a sum: divided by the count for a mean, then converted (R197). -/
def poolOut (d : List Byte) (v : TblVersion) (count : Nat) (x : Int) : Nat × Nat :=
  let mean := dOp d = 3
  if gePoolInt v.rowFmt then
    if geOut d = 0x0C then
      let r := if mean then roundQuot x count else (x, false)
      let c := pooledInt r.1
      (c.1, c.2 ||| flagIf r.2 flagInexact)
    else if mean then
      if x = 0 then (0, 0) else divTo fp32 (.ofInt x 0) (.ofInt count 0)
    else to32 (.ofInt x 0)
  else
    let q := if mean then divTo fp32 (numOf32 x.toNat) (.ofInt count 0) else (x.toNat, 0)
    if geOut d = 0x01 then
      let b := roundTo bf16 (geSat d) (numOf32 q.1)
      (b.1, q.2 ||| b.2)
    else q

/-- Writes the output row of a segment, with its flags. -/
def writePooled (s : State) (u : UnitId) (t : Task) (v : TblVersion) (seg count : Nat) (acc : List Int) : State × Nat :=
  let d := t.desc
  let outs := acc.map (poolOut d v count)
  let w := if geOut d = 0x01 then 2 else 4
  (store s u (partOf t) (leAt d 72 8 + seg * leAt d 80 4) (outs.map fun x => leBytes w x.1).flatten,
    outs.foldl (fun f x => f ||| x.2) 0)

/-! ### Split slots (R205) -/

/-- The lowest free split slot of a task. -/
def freeSplit (s : State) (d : List Byte) (v : TblVersion) : Option Nat :=
  ((List.range (geSplits d)).map fun k => leAt d 96 8 + k * splitBytes v).find? fun a => !s.splitUse.any fun x => x.1 = a

/-- Adds a partial into a slot element by element (R36, R205 step 4). -/
def addPartial (s : State) (u : UnitId) (part : Nat) (v : TblVersion) (slot : Nat) (acc : List Int) : State × Nat :=
  if gePoolInt v.rowFmt then
    let r := load s u part (slot + 64) (8 * acc.length)
    let new := acc.mapIdx fun k x => leBytes 8 (unsignedOf 64 (signedOf 64 (leAt r.2.1 (8 * k) 8) + x))
    (store r.1 u part (slot + 64) new.flatten, 0)
  else accumulateRow s u (slot + 64) true (acc.map fun x => x.toNat)

/-- The sums a slot holds. -/
def slotSums (s : State) (u : UnitId) (part : Nat) (v : TblVersion) (slot : Nat) : State × List Int :=
  let n := poolElems v
  if gePoolInt v.rowFmt then
    let r := load s u part (slot + 64) (8 * n)
    (r.1, (List.range n).map fun k => signedOf 64 (leAt r.2.1 (8 * k) 8))
  else
    let r := load s u part (slot + 64) (4 * n)
    (r.1, (List.range n).map fun k => (leAt r.2.1 (4 * k) 4 : Int))

/-! ### One position (R195, R196, R200, R201) -/

/-- A job moves to its next position. -/
def nextPos (j : GeJob) : GeJob := { j with pos := j.pos + 1, stage := .probe }

/-- Hands a position its row: GATHER copies it out, pooling adds it. -/
def deliver (s : State) (u : UnitId) (t : Task) (v : TblVersion) (j : GeJob) (row : List Byte) : State × GeJob :=
  let d := t.desc
  if gePool d then
    let r := addRow v j row
    (mapGeRun s (unitGE j.owner) fun x => { x with flags := x.flags ||| r.2 }, nextPos r.1)
  else (store s u (partOf t) (leAt d 72 8 + j.pos * leAt d 80 4) row, nextPos j)

/-- A position that takes the default row. -/
def substitute (s : State) (u : UnitId) (t : Task) (v : TblVersion) (j : GeJob) (f : GeRun → GeRun) : State × GeJob :=
  let r := defaultRow s u t v (unitGE j.owner)
  deliver (mapGeRun (bump64 r.1 u 0x130 1) (unitGE j.owner) f) u t v j r.2

/-- A position starts: it counts once (R210). -/
def countPosition (x : GeRun) : GeRun := { x with positions := x.positions + 1 }

/-- A fetched row, or a missing one, for a position that is not coalesced. -/
def fetchPlain (s : State) (u : UnitId) (t : Task) (v : TblVersion) (j : GeJob) (i : Nat) (f : GeRun → GeRun) : State × GeJob :=
  let r := fetchRow s u t v i
  match r.2 with
  | some row => deliver (mapGeRun r.1 (unitGE j.owner) fun x => f { x with fetched := x.fetched + 1 }) u t v j row
  | none => substitute r.1 u t v j fun x => f { x with missing := x.missing + 1 }

/-- An entry of the coalescing region. -/
def entryAddr (d : List Byte) (v : TblVersion) (e : Nat) : Nat := leAt d 112 8 + e * entryBytes v

/-- The header of an entry. -/
def entryHeader (s : State) (u : UnitId) (t : Task) (v : TblVersion) (e : Nat) : State × List Byte :=
  let r := load s u (partOf t) (entryAddr t.desc v e) 64
  (r.1, r.2.1)

/-- An entry of this batch, table and version that is in use. -/
def entryInUse (t : Task) (v : TblVersion) (h : List Byte) : Bool :=
  leAt h 0 2 = geTag t.desc && leAt h 2 2 = geTable t.desc && leAt h 4 2 = v.version &&
    decide (1 ≤ leAt h 6 1 ∧ leAt h 6 1 ≤ 3)

/-- Writes one byte field of an entry's header. -/
def setEntryState (s : State) (u : UnitId) (t : Task) (v : TblVersion) (e st : Nat) : State :=
  store s u (partOf t) (entryAddr t.desc v e + 6) (leBytes 1 st)

/-- What the probes of a position find: an entry of its row, a free entry, or neither. -/
def probeFind (s : State) (u : UnitId) (t : Task) (v : TblVersion) (row : Nat) : Nat → Nat → Option (Nat × Bool)
  | 0, _ => none
  | n + 1, e =>
    let h := (entryHeader s u t v (e % geDedup t.desc)).2
    if !entryInUse t v h then some (e % geDedup t.desc, false)
    else if leAt h 8 4 = row then some (e % geDedup t.desc, true)
    else probeFind s u t v row n (e + 1)

/-- Takes an entry in state 2 or 3. -/
def useEntry (s : State) (u : UnitId) (t : Task) (v : TblVersion) (j : GeJob) (e st : Nat) (f : GeRun → GeRun) : State × GeJob :=
  if st = 2 then
    let r := load s u (partOf t) (entryAddr t.desc v e + 64) v.rowBytes
    deliver (mapGeRun (bump64 r.1 u 0x128 1) (unitGE j.owner) fun x => f { x with served := x.served + 1 }) u t v j r.2.1
  else substitute s u t v j fun x => f { x with missing := x.missing + 1 }

/-- Probes the coalescing region for a position (R201). -/
def probe (s : State) (u : UnitId) (t : Task) (v : TblVersion) (j : GeJob) (i : Nat) : State × GeJob :=
  let h := Config.dedupHash (geTable t.desc) v.version i % geDedup t.desc
  let own := unitGE j.owner
  match probeFind s u t v i 16 h with
  | none => (mapGeRun s own countPosition, { j with stage := .plain })
  | some (e, true) =>
    let hd := entryHeader s u t v e
    let n := (leAt hd.2 16 8 + 1) % 2 ^ 64
    let s1 := store hd.1 u (partOf t) (entryAddr t.desc v e + 16) (leBytes 8 n)
    if leAt hd.2 6 1 = 1 then (mapGeRun s1 own countPosition, { j with stage := .pending e })
    else useEntry s1 u t v j e (leAt hd.2 6 1) countPosition
  | some (e, false) =>
    let key := leBytes 2 (geTag t.desc) ++ leBytes 2 (geTable t.desc) ++ leBytes 2 v.version ++ leBytes 1 1 ++ leBytes 1 0 ++
      leBytes 4 i ++ leBytes 4 0 ++ leBytes 8 1
    (mapGeRun (store s u (partOf t) (entryAddr t.desc v e) key) own countPosition, { j with stage := .claimed e })

/-- Fills a claimed entry: the row's bytes first, then STATE (R201). -/
def fillEntry (s : State) (u : UnitId) (t : Task) (v : TblVersion) (j : GeJob) (i e : Nat) : State × GeJob :=
  let r := fetchRow s u t v i
  match r.2 with
  | some row =>
    let s1 := store r.1 u (partOf t) (entryAddr t.desc v e + 64) row
    let s2 := setEntryState s1 u t v e 2
    deliver (mapGeRun s2 (unitGE j.owner) fun x => { x with fetched := x.fetched + 1 }) u t v j row
  | none => substitute (setEntryState r.1 u t v e 3) u t v j fun x => { x with missing := x.missing + 1 }

/-- Advances the position of a job by one stage; none when its entry is still pending. -/
def stepPosition (s : State) (u : UnitId) (t : Task) (j : GeJob) : Option (State × GeJob) :=
  let v := geVersion s t
  let x := indexAt s u t j.pos
  let i := x.2
  match j.stage with
  | .probe =>
    if v.rows ≤ i then some (substitute x.1 u t v j fun y => countPosition { y with invalid := y.invalid + 1 })
    else if geDedup t.desc = 0 then some (fetchPlain x.1 u t v j i countPosition)
    else some (probe x.1 u t v j i)
  | .plain => some (fetchPlain x.1 u t v j i id)
  | .claimed e => some (fillEntry x.1 u t v j i e)
  | .pending e =>
    let h := entryHeader x.1 u t v e
    if entryInUse t v h.2 && leAt h.2 6 1 = 1 then none else some (useEntry h.1 u t v j e (leAt h.2 6 1) id)
  | .added => none

/-! ### Jobs to their end (R203 to R205) -/

/-- The fragment's engine decrements REMAINING; the one that leaves it at 0 writes the output row and frees the slot. -/
def decrementSlot (s : State) (u : UnitId) (t : Task) (j : GeJob) (slot : Nat) : State :=
  let v := geVersion s t
  let p := partOf t
  let h := load s u p slot 24
  let left := leAt h.2.1 0 8 - 1
  let s1 := store h.1 u p slot (leBytes 8 left)
  if left = 0 then
    let x := slotSums s1 u p v slot
    let y := writePooled x.1 u t v j.seg (leAt h.2.1 8 8) x.2
    let s2 := mapGeRun y.1 (unitGE j.owner) fun r => { r with flags := r.flags ||| y.2 }
    { s2 with splitUse := s2.splitUse.filter fun z => z.1 ≠ slot }
  else s1

/-- A job whose last position is done: an unsplit pooled segment writes its row, a fragment adds its partial to its slot.
It answers the job while it is not finished. -/
def closeJob (s : State) (u : UnitId) (t : Task) (j : GeJob) : State × Option GeJob :=
  let v := geVersion s t
  if gePool t.desc then
    match j.slot with
    | none =>
      let x := writePooled s u t v j.seg j.count j.acc
      (mapGeRun x.1 (unitGE j.owner) fun r => { r with flags := r.flags ||| x.2 }, none)
    | some a =>
      if j.stage = .added then (decrementSlot s u t j a, none)
      else
        let x := addPartial s u (partOf t) v a j.acc
        (mapGeRun x.1 (unitGE j.owner) fun r => { r with flags := r.flags ||| x.2 }, some { j with stage := .added })
  else (s, none)

/-- One step of a job: a position's stage, or its end; none when it waits for a pending entry. -/
def stepJob (s : State) (u : UnitId) (t : Task) (j : GeJob) : Option (State × Option GeJob) :=
  if j.pos < j.stop then (stepPosition s u t j).map fun x => (x.1, some x.2) else some (closeJob s u t j)

/-- A finished fragment that was offered is one less for its task. -/
def fragmentDone (s : State) (j : GeJob) : State :=
  if j.offered then mapGeRun s (unitGE j.owner) fun r => { r with outstanding := r.outstanding - 1 } else s

/-! ### The course of a task -/

/-- Fragments in a quarter's pool (R203). -/
def poolOf (s : State) (q : Nat) : List GeJob := s.frags.filter fun j => j.owner / 12 = q

/-- Splits a long segment: fragment 0 is run here, the others are offered while the pool has room, the rest run here. -/
def splitSegment (s : State) (ge : Nat) (t : Task) (r : GeRun) (start stop T : Nat) (slot : Option Nat) : State :=
  let n := ceilDiv (stop - start) T
  let mk (f : Nat) : GeJob :=
    { owner := ge, seq := t.seq, seg := r.seg, pos := start + f * T, stop := min (start + (f + 1) * T) stop, count := stop - start
      slot := slot }
  let rest := (List.range (n - 1)).map fun f => mk (f + 1)
  let room := 4096 - (poolOf s (ge / 12)).length
  let out := (rest.take room).map fun j => { j with offered := true }
  let s1 := bump { s with frags := s.frags ++ out } (unitGE ge) 0x138 31 0 out.length
  mapGeRun s1 (unitGE ge) fun x =>
    { x with seg := x.seg + 1, job := some (mk 0), mine := rest.drop room, outstanding := x.outstanding + out.length }

/-- Starts the next segment (R193, R203, R205): an empty pooled one writes its row of zeros, a long one is split; none when it
waits for a split slot. -/
def beginSegment (s : State) (ge : Nat) (t : Task) (r : GeRun) : Option State :=
  let u := unitGE ge
  let d := t.desc
  let v := geVersion s t
  let x := segmentOf s u t r.seg
  let start := x.2.1
  let stop := x.2.2
  let T := max 1 (getF s u 0x100 16 0)
  if stop ≤ start then
    let s1 := if gePool d then
        store x.1 u (partOf t) (leAt d 72 8 + r.seg * leAt d 80 4) (zeros (poolOutBytes d v))
      else x.1
    some (mapGeRun s1 u fun y => { y with seg := y.seg + 1 })
  else if T < stop - start ∧ (gePool d = false ∨ geSplits d ≠ 0) then
    if gePool d then
      (freeSplit s d v).map fun a =>
        let n := ceilDiv (stop - start) T
        let hd := leBytes 8 n ++ leBytes 8 (stop - start) ++ leBytes 8 r.seg ++ zeros 40
        let s1 := store x.1 u (partOf t) a (hd ++ zeros (splitBytes v - 64))
        splitSegment { s1 with splitUse := s1.splitUse ++ [(a, t.seq)] } ge t r start stop T (some a)
    else some (splitSegment x.1 ge t r start stop T none)
  else
    some (mapGeRun x.1 u fun y => { y with
      seg := y.seg + 1
      job := some { owner := ge, seq := t.seq, seg := r.seg, pos := start, stop := stop, count := stop - start } })

/-- The tally updates of a gather task (R210). -/
def geTallies (s : State) (d : List Byte) (r : GeRun) : State :=
  let s1 := engineTally s (leAt d 120 2) 2 r.positions ⟨r.invalid, 0⟩ ⟨r.missing, 0⟩ 0
  engineTally s1 (leAt d 122 2) 2 r.positions ⟨r.fetched, 0⟩ ⟨r.served, 0⟩ 0

/-- One step of an engine's own task; none when it waits: for a fragment it must take first (R233), for a pending entry, for
a split slot, or for the fragments it offered. -/
def stepOwn (s : State) (ge : Nat) (t : Task) (r : GeRun) : Option State :=
  let u := unitGE ge
  match r.job with
  | some j =>
    (stepJob s u t j).map fun x =>
      match x.2 with
      | some j' => mapGeRun x.1 u fun y => { y with job := some j' }
      | none => mapGeRun x.1 u fun y => { y with job := none }
  | none =>
    match r.mine with
    | j :: rest => some (mapGeRun s u fun y => { y with job := some j, mine := rest })
    | [] =>
      if !(poolOf s (ge / 12)).isEmpty then none
      else if r.seg < geSegs t.desc then beginSegment s ge t r
      else if r.outstanding = 0 then some (finishOk (geTallies s t.desc r) u r.flags)
      else none

/-- Runs a step that may have to wait for an access; whether anything happened. -/
def geGo (s : State) (u : UnitId) (f : State → Option State) : State × Bool :=
  match f { s with rem := { s.rem with wait := false, full := none } } with
  | none => (s, false)
  | some x =>
    if x.rem.wait then (noteWait (orWait s fun y => (f y).getD y) u x, false) else (setF x u 0x18 19 18 0, true)

/-- Runs an engine's own task until it ends or waits; an engine that holds a fragment runs that first (R204). -/
def geLoop (ge op : Nat) : Nat → State → State
  | 0, s => s
  | n + 1, s =>
    match frontTask s (unitGE ge) op, geRunOf s (unitGE ge) with
    | some t, some r =>
      if (engOf s (unitGE ge)).frag.isSome then s
      else
        let x := geGo s (unitGE ge) fun y => stepOwn y ge t r
        if x.2 then geLoop ge op n x.1 else x.1
    | _, _ => s

/-- The most steps a task takes before it ends or waits. -/
def geFuel (s : State) (u : UnitId) : Nat :=
  match runningTask s u with
  | some t => (geSegs t.desc + 1) * (5 * geWindow t.desc + 8)
  | none => 0

/-- GATHER, POOL_SUM and POOL_MEAN: starts the engine's task, or takes it on (R196). -/
def geRunTask (s : State) (ge op : Nat) : State :=
  let u := unitGE ge
  match frontTask s u op with
  | none => s
  | some t =>
    let s1 :=
      if (geRunOf s u).isSome ∨ (engOf s u).frag.isSome then s
      else
        match chooseFault (geFaults s t) with
        | some x => finishBad s u x.status x.detail 0
        | none => setEng s u { engOf s u with started := true, work := .ge {} }
    geLoop ge op (geFuel s1 u) s1

/-! ### Fragments (R204, R233) -/

/-- A fragment ends, or its task is gone: the engine holds none. -/
def dropFragment (s : State) (ge : Nat) : State :=
  let u := unitGE ge
  setF (setEng s u { engOf s u with frag := none }) u 0x18 21 21 0

/-- Runs the fragment an engine holds until it ends or waits (R199, R204). -/
def fragLoop (ge : Nat) : Nat → State → State
  | 0, s => s
  | n + 1, s =>
    let u := unitGE ge
    match (engOf s u).frag with
    | none => s
    | some j =>
      match jobTask s j with
      | none => dropFragment s ge
      | some t =>
        let x := geGo s u fun y =>
          (stepJob y u t j).map fun z =>
            match z.2 with
            | some j' => setEng z.1 u { engOf z.1 u with frag := some j' }
            | none => dropFragment (fragmentDone z.1 j) ge
        if x.2 then fragLoop ge n x.1 else x.1

/-- An engine that may take a fragment: enabled, holding none, and between two segments of its own or waiting for a slot. -/
def mayTake (s : State) (ge : Nat) : Bool :=
  let u := unitGE ge
  usable s u && !contained s && (engOf s u).frag.isNone &&
    match geRunOf s u with
    | some r => r.job.isNone && r.mine.isEmpty
    | none => true

/-- The fragment an engine takes: of the offering engine nearest to it, the lower index between two, the first offered. -/
def chooseFragment (s : State) (ge : Nat) : Option GeJob :=
  let dist (o : Nat) : Nat := if o ≤ ge then ge - o else o - ge
  match leastBy (fun (j : GeJob) => dist j.owner * 64 + j.owner % 12) (poolOf s (ge / 12)) with
  | none => none
  | some b => (poolOf s (ge / 12)).find? fun j => j.owner = b.owner

/-- FRAGMENT_TAKE: takes a fragment and runs it, or runs on with the one it holds. -/
def fragmentTake (s : State) (ge : Nat) : State :=
  let u := unitGE ge
  let go (x : State) (j : GeJob) : State := fragLoop ge (5 * (j.stop - j.pos) + 8) x
  match (engOf s u).frag with
  | some j => if contained s then s else go s j
  | none =>
    if mayTake s ge then
      match chooseFragment s ge with
      | none => s
      | some j =>
        let s1 := { s with frags := (takeFirst (fun x => decide (x = j)) s.frags |>.map fun x => x.2).getD s.frags }
        let s2 := bump (setF (setEng s1 u { engOf s1 u with frag := some j }) u 0x18 21 21 1) u 0x138 63 32 1
        go s2 j
    else s

/-- One stage of the position or the fragment an engine works on, when a test of its job holds. -/
def oneStage (s : State) (ge : Nat) (p : GeJob → Bool) : State :=
  let u := unitGE ge
  if contained s then s
  else
    match (engOf s u).frag with
    | some j => if p j then fragLoop ge 1 s else s
    | none =>
      match geRunOf s u, runningTask s u with
      | some r, some t =>
        match r.job with
        | some j => if p j && (engOf s u).done.isNone then (geGo s u fun y => stepOwn y ge t r).1 else s
        | none => s
      | _, _ => s

/-! ### UNIQUE and SCATTER (R207, R208) -/

/-- Every position of a task's segments, in order. -/
def allPositions (s : State) (u : UnitId) (t : Task) : State × List Nat :=
  (List.range (geSegs t.desc)).foldl (fun (r : State × List Nat) k =>
    let x := segmentOf r.1 u t k
    (x.1, r.2 ++ (List.range (x.2.2 - x.2.1)).map fun p => x.2.1 + p)) (s, [])

/-- An entry of UNIQUE's output while it is formed: its index, its count, its hash entry and its gradient sum. -/
structure UniqueRow where
  index : Nat
  count : Nat
  place : Nat
  sum : List Nat
  deriving DecidableEq, Repr

/-- The first of 16 probed hash entries that no other index holds. -/
def uniquePlace (slots i : Nat) (rows : List UniqueRow) : Option Nat :=
  if slots = 0 then none
  else
    ((List.range 16).map fun k => (Config.uniqueHash i + k) % slots).find? fun e =>
      !rows.any fun x => x.place = e && x.index ≠ i

/-- The progress of UNIQUE: the rows so far, dropped positions, flags, and whether an index found no entry. -/
structure UniqueAcc where
  rows : List UniqueRow := []
  dropped : Nat := 0
  flags : Nat := 0
  full : Bool := false

/-- One position of UNIQUE. -/
def uniqueStep (u : UnitId) (t : Task) (v : TblVersion) (r : State × UniqueAcc) (p : Nat) : State × UniqueAcc :=
  let d := t.desc
  if r.2.full then r
  else
    let x := indexAt r.1 u t p
    if v.rows ≤ x.2 then (x.1, { r.2 with dropped := r.2.dropped + 1 })
    else
      match uniquePlace (geDedup d) x.2 r.2.rows with
      | none => (x.1, { r.2 with full := true })
      | some e =>
        let g := loadFor x.1 u (partOf t) (leAt d 88 8 + p * leAt d 84 4) (gradElems d v * wholeBytes (geOut d))
        let vals := (rowCodes (geOut d) (gradElems d v) g.2).map fun c => to32 (decodeElem (geOut d) 0 c)
        if r.2.rows.any fun y => y.index = x.2 then
          let upd (y : UniqueRow) : UniqueRow × Nat :=
            let z := (y.sum.zip vals).map fun q => fadd32 q.1 q.2.1
            ({ y with count := y.count + 1, sum := z.map (·.1) }, z.foldl (fun f q => f ||| q.2) 0)
          let fl := r.2.rows.foldl (fun f y => if y.index = x.2 then f ||| (upd y).2 else f) 0
          (g.1, { r.2 with
            rows := r.2.rows.map fun y => if y.index = x.2 then (upd y).1 else y
            flags := vals.foldl (fun f q => f ||| q.2) (r.2.flags ||| fl) })
        else
          (g.1, { r.2 with
            rows := r.2.rows ++ [⟨x.2, 1, e, vals.map (·.1)⟩]
            flags := vals.foldl (fun f q => f ||| q.2) r.2.flags })

/-- Writes what the spec leaves open in a hash area: the 16 bytes of a used entry (R207). -/
def writeHashEntry (u : UnitId) (t : Task) (y : UniqueRow) (s : State) : State :=
  let x := (List.range 16).foldl (fun (r : State × List Byte) _ =>
    let f := drawFree r.1
    (f.1, r.2 ++ [Config.freeByte f.2])) (s, [])
  store x.1 u (partOf t) (leAt t.desc 112 8 + 16 * y.place) x.2

/-- UNIQUE (R207). -/
def uniqueRun (u : UnitId) (t : Task) (s : State) : State :=
  let d := t.desc
  let v := geVersion s t
  let p := partOf t
  let ps := allPositions s u t
  let r := ps.2.foldl (uniqueStep u t v) (ps.1, {})
  let a := r.2
  let run : GeRun := { positions := ps.2.length, invalid := a.dropped, flags := a.flags }
  let s1 := foldOver (writeHashEntry u t) a.rows r.1
  if a.full then finishBad (geTallies (store s1 u p (leAt d 72 8) (leBytes 8 0)) d run) u 0x0B 108 a.flags
  else
    let hdr := leBytes 8 a.rows.length ++ leBytes 8 a.dropped ++ zeros 48
    let entries := (a.rows.map fun y => leBytes 4 y.index ++ leBytes 4 0 ++ leBytes 8 y.count).flatten
    let s2 := store s1 u p (leAt d 72 8) (hdr ++ entries)
    let g := roundUp (4 * gradElems d v) 64
    let s3 := (a.rows.zipIdx).foldl (fun x y => store x u p (leAt d 96 8 + y.2 * g) (y.1.sum.map (leBytes 4)).flatten) s2
    finishOk (geTallies s3 d run) u a.flags

/-- SCATTER (R208). -/
def scatterRun (u : UnitId) (t : Task) (s : State) : State :=
  let d := t.desc
  let v := geVersion s t
  let ps := allPositions s u t
  let r := ps.2.foldl (fun (x : State × GeRun) p =>
    let i := indexAt x.1 u t p
    let y := { x.2 with positions := x.2.positions + 1 }
    let base := v.base + i.2 * v.rowBytes
    if v.rows ≤ i.2 then (i.1, { y with invalid := y.invalid + 1 })
    else if rowMissing i.1 u base v.rowBytes then (i.1, { y with missing := y.missing + 1 })
    else
      let row := loadFor i.1 u (partOf t) (leAt d 88 8 + p * leAt d 84 4) v.rowBytes
      (store row.1 u (partOf t) base row.2, y)) (ps.1, {})
  finishOk (geTallies r.1 d r.2) u 0

/-! ### Registry queries (R216, R217) -/

/-- A write of TBL_QUERY starts a read of a registry entry. -/
def queryStart (s : State) (ge table : Nat) : State :=
  if present s (unitGE ge) then setReg s (unitGE ge) 0x180 (BitVec.ofNat 64 (table % 1024)) else s

/-- The entry as of this instant appears in the page's query registers, and VALID sets. -/
def queryDone (s : State) (ge : Nat) : State :=
  let u := unitGE ge
  let e := tblEntry s (getF s u 0x180 9 0)
  let cur := e.current.getD ⟨0, 0, 0, 0, 0, some 0, 0, 0, 0⟩
  let s1 := setReg s u 0x188 (BitVec.ofNat 64 cur.base)
  let s2 := setReg s1 u 0x190 (putField (putField (putField (putField 0 63 48 cur.version) 47 40 cur.rowFmt) 32 32
    (bit e.current.isSome)) 31 0 cur.rows)
  let s3 := setReg s2 u 0x1A0 (putField (putField 0 63 63 (bit cur.default.isNone)) 49 0 (cur.default.getD 0))
  let s4 := setReg s3 u 0x1A8 (BitVec.ofNat 64 cur.rowBytes)
  let s5 := setReg s4 u 0x1B0 (putField (putField 0 63 32 cur.refs) 31 0 ((e.draining.map fun x => x.refs).foldl (· + ·) 0))
  let s6 := setReg s5 u 0x1B8 (putField (putField 0 49 48 e.draining.length) 15 0 ((e.draining.head?.map fun x => x.version).getD 0))
  if present s u then setF s6 u 0x180 63 63 1 else s

/-! ### Meanings -/

def geOps : List Nat := [1, 2, 3, 5, 6, 0x10]

/-- GATHER (R196). -/
def execGather (ge : Nat) (s : State) : Host.Outcome State Fault Refusal :=
  .next (geRunTask (undefinedOp s (unitGE ge) geOps) ge 1)

/-- POOL_SUM (R196, R197). -/
def execPoolSum (ge : Nat) (s : State) : Host.Outcome State Fault Refusal := .next (geRunTask s ge 2)

/-- POOL_MEAN (R196, R197). -/
def execPoolMean (ge : Nat) (s : State) : Host.Outcome State Fault Refusal := .next (geRunTask s ge 3)

/-- UNIQUE (R207). -/
def execUnique (ge : Nat) (s : State) : Host.Outcome State Fault Refusal :=
  .next (if (engOf s (unitGE ge)).frag.isSome then s else runFront s (unitGE ge) 5 (geFaults s) (uniqueRun (unitGE ge)))

/-- SCATTER (R208). -/
def execScatter (ge : Nat) (s : State) : Host.Outcome State Fault Refusal :=
  .next (if (engOf s (unitGE ge)).frag.isSome then s else runFront s (unitGE ge) 6 (geFaults s) (scatterRun (unitGE ge)))

/-- COALESCE_PROBE (R201): the position an engine works on probes its coalescing region. -/
def execCoalesceProbe (ge : Nat) (s : State) : Host.Outcome State Fault Refusal :=
  .next (oneStage s ge fun j => j.stage = .probe && decide (j.pos < j.stop) &&
    ((jobTask s j).map fun t => decide (geDedup t.desc ≠ 0)).getD false)

/-- COALESCE_ENTRY_FILLED (R201): an entry an engine claimed is filled, or one it waits for has been. -/
def execCoalesceEntryFilled (ge : Nat) (s : State) : Host.Outcome State Fault Refusal :=
  .next (oneStage s ge fun j => match j.stage with
    | .claimed _ => true
    | .pending _ => true
    | _ => false)

/-- FRAGMENT_TAKE (R204, R233). -/
def execFragmentTake (ge : Nat) (s : State) : Host.Outcome State Fault Refusal := .next (fragmentTake s ge)

/-- SPLIT_SLOT_DECREMENT (R205). -/
def execSplitSlotDecrement (ge : Nat) (s : State) : Host.Outcome State Fault Refusal :=
  .next (oneStage s ge fun j => j.stage = .added)

/-- TBL_QUERY (R216). -/
def execTblQuery (ge table : Nat) (s : State) : Host.Outcome State Fault Refusal :=
  .next (if commandable s (unitGE ge) then queryStart s ge table else s)

/-- TBL_QUERY_DONE (R216). -/
def execTblQueryDone (ge : Nat) (s : State) : Host.Outcome State Fault Refusal := .next (queryDone s ge)

end Sys2Proof.Machine
end

