-- ==== Sys2Proof/Machine/Scheduler.lean ====
section
/-! DEFINITION. The rows of the ledgers (R300 to R330): admission, the tasks a ledger ends by itself, ticks and deadlines,
dispatch, completion and drained table versions; and the time base's LOAD, which delays and deadlines follow. An early close
that an admission asks for, and a start that waits for a task, are looked at with the same command (R441, R443). -/

namespace Sys2Proof.Machine

open Sys2Proof

/-- The descriptor a ring offers next. -/
def offered (s : State) (ring : Nat) : Option (List Byte) := (ringOf s ring).fetched.head?

/-- Offers a ring's descriptor for admission when it is of a kind. -/
def admitKind (s : State) (ring : Nat) (p : List Byte → Bool) : State :=
  match offered s ring with
  | some d => if p d then admitFrom s ring else s
  | none => s

/-- A ledger-class task that the ledger may look at: not ended, its delay released, its epoch open (R306, R317, R330). -/
def ledgerTask (s : State) (seq op : Nat) : Option Task :=
  match taskOf s seq with
  | some t =>
    if dLedgerClass t.desc && dOp t.desc = op && t.ending.isNone && t.delay.isNone && !t.cut && !contained s &&
      (!t.carried || !s.esc.cutDone) then some t else none
  | none => none

/-- A JOIN ends when its edges allow (R312). -/
def joinTask (s : State) (seq : Nat) : State :=
  match ledgerTask s seq 1 with
  | none => s
  | some t =>
    if joinAny t then
      if allDecided s t then
        if t.edges.any fun e => edgeState s t e = .satisfied then settle (endWith s t .ok 0)
        else settle (endWith s t .skipped 0xF0)
      else s
    else if anyUnsat s t then settle (endWith s t .skipped 0xF0)
    else if allSat s t then settle (endWith s t .ok 0)
    else s

/-- A MARK ends when its edges are satisfied (R311), and is skipped when one cannot be (R304). -/
def markTask (s : State) (seq : Nat) : State :=
  match ledgerTask s seq 5 with
  | none => s
  | some t =>
    if anyUnsat s t then settle (endWith s t .skipped 0xF0)
    else if allSat s t then settle (endWith s t .ok 0)
    else s

/-- TB CMD LOAD (R81): loads TIME while TB is disabled; delays, deadlines and the compare follow (R84, R319, R320). -/
def loadTime (s : State) : State :=
  if enabled s unitTB then raiseErr s unitTB 2 else timeStepped (setTime s (getReg s unitTB 0x110).toNat)

/-! ### Meanings -/

/-- LOAD (R81). -/
def execLoad (s : State) : Host.Outcome State Fault Refusal := .next (if commandable s unitTB then loadTime s else s)

/-- ADMIT (R301, R328). -/
def execAdmission (ring : Nat) (s : State) : Host.Outcome State Fault Refusal := .next (epochPoll (orWait s fun t => admitFrom t ring))

/-- TABLE_SWITCH (R189): the ring's next descriptor, a table switch, is admitted and applied. -/
def execTableSwitch (ring : Nat) (s : State) : Host.Outcome State Fault Refusal := .next (epochPoll (orWait s fun t => admitKind t ring dTableSwitch))

/-- CTX_SET (R323): the ring's next descriptor, a context change, is admitted and applied. -/
def execCtxSet (ring : Nat) (s : State) : Host.Outcome State Fault Refusal :=
  .next (epochPoll (orWait s fun t => admitKind t ring fun d => dLedgerClass d && dOp d = 4))

/-- JOIN (R312). -/
def execJoin (seq : Nat) (s : State) : Host.Outcome State Fault Refusal := .next (joinTask s seq)

/-- MARK (R311). -/
def execMark (seq : Nat) (s : State) : Host.Outcome State Fault Refusal := .next (markTask s seq)

/-- DELAY_TICK (R318). -/
def execDelayTick (q list time : Nat) (s : State) : Host.Outcome State Fault Refusal := .next (delayTick s q list time)

/-- DEADLINE_EXPIRY (R320). -/
def execDeadlineExpiry (seq : Nat) (s : State) : Host.Outcome State Fault Refusal := .next (deadlineExpiry s seq)

/-- TASK_DISPATCH (R307). -/
def execTaskDispatch (q : Nat) (s : State) : Host.Outcome State Fault Refusal := .next (dispatch s q)

/-- TASK_COMPLETE (R34). -/
def execTaskComplete (u : UnitId) (s : State) : Host.Outcome State Fault Refusal := .next (epochPoll (taskComplete s u))

/-- TABLE_DRAINED (R191). -/
def execTableDrained (table version : Nat) (s : State) : Host.Outcome State Fault Refusal :=
  .next (tableDrained s table version)

end Sys2Proof.Machine
end

