-- ==== Sys2Proof/Machine/HostWrite.lean ====
section
/-! DEFINITION. A host write to BAR0 (R46 to R62): which page and register it reaches, the writes that start something, and
the plain field write of every other register. A profile's entries go the same way (R510). -/

namespace Sys2Proof.Machine

open Sys2Proof

/-- A write carries a 1 for a bit. -/
def writesOne (mask v : Word) (b : Nat) : Bool := bitOf mask b && bitOf v b

/-- A write to DEV (R92, R93). -/
def writeDev (s : State) (off : Nat) (mask v : Word) : State :=
  match off with
  | 0x180 => if writesOne mask v 0 then clearAll s else s
  | 0x188 => snapStart s (field (mergeMask mask (getReg s unitDEV 0x188) v) 15 0)
  | _ => plainWrite s unitDEV off mask v

/-- A write to TB (R81, R84). -/
def writeTb (s : State) (off : Nat) (mask v : Word) : State :=
  match off with
  | 0x118 => if writesOne mask v 0 then loadTime s else s
  | 0x150 => compareWrite s (mergeMask mask (getReg s unitTB 0x150) v).toNat
  | _ => plainWrite s unitTB off mask v

/-- A write to HI (R489, R495). -/
def writeHi (s : State) (off : Nat) (mask v : Word) : State :=
  if 0x110 ≤ off ∧ off ≤ 0x130 then ringWrite s off mask v
  else
    match off with
    | 0x108 => if bitOf mask 0 then ringCommand s (field v 1 0) else s
    | 0x190 => errHeadWrite s mask v
    | _ => plainWrite s unitHI off mask v

/-- A write to MC (R521 to R523): a write of CMD starts a command. -/
def writeMc (s : State) (off : Nat) (mask v : Word) : State :=
  match off with
  | 0x100 => if bitOf mask 0 then mcStart s (field v 7 0) else s
  | 0x158 => if writesOne mask v 0 then cfgLock s else s
  | _ => plainWrite s unitMC off mask v

/-- The fields of a ROUTE_DATA entry (R425). -/
def routeMask : Word := 0x0FFFFFFF

/-- A write of ROUTE_DATA (R393, R425): of the entry ROUTE_IDX names; lock group FABRIC fixes them all (R512). -/
def routeWrite (s : State) (mask v : Word) : State :=
  let n := getF s unitPD 0x130 9 0
  let old := tblGet (fun _ => 0) s.fab.routes n
  let new := mergeMask (mask &&& routeMask) old v
  let locked := (fieldsAt 0x24 0x138).any fun f => fieldLocked s unitPD 0x138 f
  if locked then (if new = old then s else raiseErr s unitPD 2)
  else { s with fab := { s.fab with routes := tblSet (fun _ => 0) s.fab.routes n new } }

/-- A write to PD (R393, R402, R425). -/
def writePd (s : State) (off : Nat) (mask v : Word) : State :=
  match off with
  | 0x120 => if bitOf mask 0 then entryCommand s (field v 2 0) else s
  | 0x138 => routeWrite s mask v
  | 0x158 => if writesOne mask v 0 then flushReplicas s else s
  | _ => plainWrite s unitPD off mask v

/-- A write to EX (R441, R442, R444). -/
def writeEx (s : State) (off : Nat) (mask v : Word) : State :=
  match off with
  | 0x110 => if bitOf mask 0 then (if bitOf v 0 then epochStart s else epochStop s) else s
  | 0x130 => if writesOne mask v 0 then closeCommand s else s
  | _ => plainWrite s unitEX off mask v

/-- A write to a register from offset 0x100 or to a common one but CTRL, on a page that takes it. Regulator 0 stays
enabled (R353). -/
def writePage (s : State) (u : UnitId) (off : Nat) (mask v : Word) : State :=
  match u.ty with
  | 0x20 => writeDev s off mask v
  | 0x21 => writeHi s off mask v
  | 0x22 => writeMc s off mask v
  | 0x23 => writeTb s off mask v
  | 0x24 => writePd s off mask v
  | 0x26 => writeEx s off mask v
  | 0x02 => if off = 0x180 then (if bitOf mask 0 then queryStart s (globalOf u) (field v 9 0) else s) else plainWrite s u off mask v
  | 0x0A => if off = 0x108 then (if writesOne mask v 0 then invalidateStart s (globalOf u) else s) else plainWrite s u off mask v
  | 0x0B => if off = 0x100 then plainWrite s u off (mask &&& ~~~(0x10000 : Word)) v else plainWrite s u off mask v
  | 0x0C => if off = 0x108 then (if writesOne mask v 0 then commandRetrain s (globalOf u) else s) else plainWrite s u off mask v
  | _ => plainWrite s u off mask v

/-- A write that reaches a page (R10, R11, R56, R57): an absent page takes a CTRL write only; while a block reset runs, only
INT_MASK takes one. -/
def regWrite (s : State) (u : UnitId) (off : Nat) (mask v : Word) : State :=
  if off = 0x10 then (if bitOf mask 0 then ctrlWrite s u (bitOf v 1) (bitOf v 0) else s)
  else if present s u = false then s
  else if resetting s u = true ∧ off ≠ 0x38 then s
  else writePage s u off mask v

/-- A host write of BAR0 (R46, R47, R50, R90, R94): to the live tally window, to the committed one, where it is a bad access,
or to a page. -/
def hostWriteAt (s : State) (off size v : Nat) : State :=
  if linkUp s = false then s
  else if wellAligned off size = false ∨ answers off = false then badAccess s true off size
  else
    let mask := halfMask off size
    let w := placeValue off size v
    match unitAt off with
    | some u => regWrite s u (off % 0x1000 / 8 * 8) mask w
    | none =>
      let o := off % 0x200000
      if inLive off then tallyWrite s (o / 32) (o / 8 % 4) mask w
      else badAccess s true off size

/-! ### Meanings -/

/-- REGISTER_WRITE (R48 to R51, R56, R59). -/
def execRegisterWrite (off size val : Nat) (s : State) : Host.Outcome State Fault Refusal := .next (hostWriteAt s off size val)

end Sys2Proof.Machine
end

