-- ==== Sys2Proof/Machine/Boot.lean ====
section
/-! DEFINITION. Supplies and pins (R534 to R537, R543, R544, R550), what a reset or a loss of power leaves (R462, R463, R470),
the boot sequence from the auxiliary supply to ready (R498, R507 to R513, R519), strongbox mode, and the flash writer (R515,
R517). -/

namespace Sys2Proof.Machine

open Sys2Proof

/-! ### What a reset leaves (R462, R470, R523, R550) -/

/-- How much a reset clears: PERST_N, a CXL reset or an internal restart; a loss of main power. -/
inductive ResetKind where
  | perst
  | restart
  | powerOff
  deriving DecidableEq, Repr

/-- The bits of a register that outlive a reset of the device: the auxiliary domain of PW (R550); what MC holds by its
auxiliary supply, its fuses and its store (R501, R513, R523), and on an internal restart its whole page and TB's with the
link (R498); RETIRED and RETIRE_SUMMARY until power-off (R64, R76). -/
def keptBits (k : ResetKind) (u : UnitId) (off : Nat) : Word :=
  let all : Word := BitVec.allOnes 64
  let on : Bool := k ≠ .powerOff
  match u.ty, off with
  | 0x22, 0x10 => all
  | 0x22, 0x18 => if k = .restart then all else 0x300000
  | 0x22, 0x118 => 0x1F
  | 0x22, 0x120 => all
  | 0x22, 0x128 => all
  | 0x22, 0x130 => all
  | 0x22, 0x138 => all
  | 0x22, 0x148 => all
  | 0x22, 0x150 => all
  | 0x22, 0x158 => all
  | 0x22, _ => if k = .restart then all else 0
  | 0x23, _ => if k = .restart then all else 0
  | 0x21, 0x1F0 => if k = .restart then all else 0
  | 0x21, 0x38 => if k = .restart then all else 0
  | 0x20, 0x128 => if on then all else 0
  | 0x20, 0x118 => if k = .restart then 0xF0000 else 0
  | 0x25, 0x18 => if on then 0x8 else 0
  | 0x25, _ => if keptByReset u off && off ≠ 0x38 then all else 0
  | _, 0x18 => if on then 0x8 else 0
  | _, _ => 0

/-- The registers after a reset of the device. -/
def keptRegs (s : State) (k : ResetKind) : Table Word :=
  s.regs.filterMap fun e =>
    match unitAt e.1 with
    | none => none
    | some u =>
      let m := keptBits k u (e.1 % 0x1000)
      let w := mergeMask m (regDefault s.variant e.1) e.2
      if w = regDefault s.variant e.1 then none else some (e.1, w)

/-- MC beside its registers after a reset: the session is closed and no start is in progress. An internal restart leaves the
command that runs. -/
def mcAfter (m : Mc) (k : ResetKind) : Mc :=
  { m with
    session := none
    bootStep := 0
    restartDue := false
    trained := []
    looped := false
    running := if k = .restart then m.running else none
    imageSvn := if k = .restart then m.imageSvn else 0
    measures := if k = .restart then [] else m.measures }

/-- The host interface after a reset: an internal restart is a block reset of it; what was sent stays sent. -/
def hostIfAfter (h : HostIf) (k : ResetKind) : HostIf :=
  if k = .restart then { h with rings := [], errQueue := [], errDropped := 0, devCache := [] }
  else { msixSent := h.msixSent, aer := h.aer }

/-- The whole device is reset (R462, R463, R470): every memory, queue and engine is lost, host memory is not the device's,
TB TIME goes on (R80). Flash records on their way are lost with the main supply only (R349). -/
def resetDevice (s : State) (k : ResetKind) : State :=
  let t : State :=
    { pending := s.pending
      variant := s.variant
      serial := s.serial
      regs := keptRegs s k
      hostRead := s.hostRead
      disableChecks := if k = .restart then s.disableChecks.filter fun u => u = unitTB else []
      host := s.host
      mc := mcAfter s.mc k
      pw := s.pw
      flashDue := if k = .powerOff then [] else s.flashDue
      freeCtr := s.freeCtr }
  { t with tb := if k = .restart then s.tb else { time := s.tb.time }, hi := hostIfAfter s.hi k }

/-! ### Supplies (R534 to R537) -/

/-- The main regulators run while PWR_GOOD is asserted, P54 is within range and no trip holds (R534, R536). PW, which starts
them, runs on the auxiliary supply. -/
def mainCheck (s : State) : State :=
  { s with pw := { s.pw with mainOn := s.pw.auxUp && s.pw.pwrGood && s.pw.p54 && !s.pw.tripped } }

/-- The main regulators switch off: a loss of power (R462, R537). -/
def mainOff (s : State) : State :=
  let s1 := resetDevice s .powerOff
  { s1 with pw := { s1.pw with mainOn := false, capStep := 64, floorSince := none, down := [] } }

/-- PW TRIP_INFO takes a trip or a shutdown (R549). -/
def tripInfo (s : State) (cause sensor value : Nat) : State :=
  setReg s unitPW 0x188 (putField (putField (putField (putField 0 63 63 1) 39 32 cause) 30 24 sensor) 15 0 value)

/-- P54 leaves its limits (R537): the regulators that run switch off, and TRIP_INFO says why. -/
def supplyFails (s : State) (cause value : Nat) : State :=
  let s1 := { s with pw := { s.pw with p54 := false } }
  if s.pw.mainOn then mainOff (tripInfo s1 cause 0 value) else s1

/-- PWR_GOOD is deasserted (R537, R544): with PERST_N released it is a loss of power that TRIP_INFO records. -/
def pwrGoodOff (s : State) : State :=
  let s1 := { s with pw := { s.pw with pwrGood := false } }
  if s.pw.mainOn then mainOff (if s.pw.perst then tripInfo s1 5 0 0 else s1) else s1

/-- A trip's cause (R534): 1 for a stack at 110 °C or above, 2 for a junction at 115 °C or above, 0 for neither. -/
def tripCause (s : State) (sensor value : Nat) : Nat :=
  let t := signedOf 16 value
  if 64 ≤ sensor ∧ sensor < 112 ∧ sensorPresent s sensor = true ∧ 1760 ≤ t then 1
  else if sensor < 64 ∧ 1840 ≤ t then 2
  else 0

/-- A thermal trip (R534): THERM_TRIP_N asserts until the auxiliary supply is removed, and the main regulators go off. -/
def thermalTrip (s : State) (sensor value : Nat) : State :=
  let c := tripCause s sensor value
  if s.pw.auxUp = false ∨ s.pw.tripped = true ∨ c = 0 then s
  else
    let s1 := tripInfo s c sensor (value % 2 ^ 16)
    mainOff { s1 with pw := { s1.pw with tripped := true } }

/-! ### The auxiliary supply (R498 steps 1 and 2, R550) -/

/-- Steps 1 and 2 of R498: TIME counts from 0, MC runs, the identity key is unwrapped or not, the store is replayed. -/
def auxUp (s : State) (identityOk : Bool) : State :=
  let s1 := mainCheck { s with tb := {}, pw := { s.pw with auxUp := true } }
  replayStore (mcStatus (setF s1 unitMC 0x10 0 0 1) 21 identityOk)

/-- The auxiliary supply is removed: flash, fuses and the device secret are all that stays inside the module. -/
def auxDown (s : State) : State :=
  let fuse := getF s unitMC 0x130 11 0
  let t : State :=
    { pending := s.pending
      variant := s.variant
      serial := s.serial
      hostRead := s.hostRead
      host := s.host
      mc := { flash := s.mc.flash, store0 := s.mc.store0, store1 := s.mc.store1, keys := s.mc.keys, secret := s.mc.secret }
      pw := { p54 := s.pw.p54, pwrGood := s.pw.pwrGood }
      freeCtr := s.freeCtr }
  setF { t with hi := { msixSent := s.hi.msixSent, aer := s.hi.aer } } unitMC 0x130 11 0 fuse

/-! ### Measurements (R519) -/

/-- The words of the fuses. -/
def fuseWords (s : State) : List Nat := s.mc.keys.map ofBE ++ [revoked s, svnFuses s]

/-- The active profile (R513). -/
def activeProfile (s : State) : Nat := getF s unitDEV 0x118 17 16

/-- MC records the seven measurements, with whether the image is verified. -/
def takeMeasures (s : State) (verified : Bool) : State :=
  let h := imageHeader s
  let state := [(getReg s unitDEV 0x120).toNat, (getReg s unitDEV 0x118).toNat, (getReg s unitMC 0x120).toNat]
  let part := [(getReg s unitDEV 0x100).toNat, (getReg s unitDEV 0x8).toNat, field (identOf s unitDEV) 27 24]
  { s with mc := { s.mc with measures :=
      [Config.measure 1 [], Config.measure 2 (fuseWords s), sha256 (slice h 0 896),
        if verified then hdrHash h else zeros 32, sha256 ((profileRecord s (activeProfile s)).getD []),
        Config.measure 6 state, Config.measure 7 part] } }

/-! ### Strongbox mode and counted failures (R507 to R509) -/

/-- The image in flash passed its last verification. -/
def imageValid (s : State) : Bool := getF s unitMC 0x18 18 18 = 1

/-- The device enters strongbox mode: what a failed start has written is discarded, and FW_VERSION keeps a verified header. -/
def enterStrongbox (s : State) (reason detail : Nat) : State :=
  let fw := getReg s unitDEV 0x110
  let s1 := setReg (resetDevice s .restart) unitDEV 0x110 fw
  let w : Word := putField (putField (putField 0 23 16 (bootCount s)) 15 8 reason) 3 0 2
  let s2 := setF (mcStatus (setReg s1 unitDEV 0x120 w) 16 true) unitMC 0x120 7 0 detail
  takeMeasures (setF s2 unitMC 0x120 15 8 reason) (imageValid s)

/-- A counted failure (R507): logged; at a count of 3 the device enters strongbox mode, else MC is to restart it. -/
def countedFailure (s : State) (reason detail : Nat) : State :=
  let s1 := logFailure s reason detail
  if bootCount s = 3 then enterStrongbox s1 reason detail
  else { s1 with mc := { s1.mc with restartDue := true, bootStep := 0 } }

/-- A failure that is not counted: logged, and strongbox mode at once (R508). -/
def uncountedFailure (s : State) (reason detail : Nat) : State := enterStrongbox (logFailure s reason detail) reason detail

/-- Step 5 of R498: the boot-counter rule (R507), after a request for strongbox mode (R508). -/
def bootCounter (s : State) : State :=
  let c := bootCount s
  if s.mc.sbRequested then uncountedFailure { s with mc := { s.mc with sbRequested := false } } 0x08 0
  else if c = 3 then enterStrongbox s (getF s unitMC 0x120 15 8) (getF s unitMC 0x120 7 0)
  else
    let s1 := if c ≠ 0 ∧ s.mc.failLogged = false then logFailure s 0x07 0 else s
    let s2 := writeCount s1 (c + 1)
    { s2 with mc := { s2.mc with bootStep := 5 } }

/-! ### Steps 3 to 5 (R498, R513, R523) -/

/-- The spare columns of every array, from the record store (R184). -/
def restoreColumns (s : State) : State :=
  let mas := unitsOf 0x01
  let s1 := foldOver (fun u t => if present t u then setReg t u 0x108 (spareMap t (globalOf u)) else t) mas s
  let used (u : UnitId) : Nat := if present s1 u then (sparedColumns s1 (globalOf u)).length else 0
  setF s1 unitDEV 0x128 15 8 ((mas.map used).foldl (· + ·) 0)

/-- The profile of a start (R513): the pending selection at a release of PERST_N, else the pins; the level is 0 until step
9 (R511). -/
def chooseProfile (s : State) (release : Bool) : State :=
  let next := getF s unitMC 0x118 4 4 = 1
  if release ∧ next then
    let s1 := setF s unitMC 0x118 4 2 0
    setF (setF s1 unitDEV 0x118 19 18 1) unitDEV 0x118 17 16 (getF s unitMC 0x118 3 2)
  else setF (setF s unitDEV 0x118 19 18 0) unitDEV 0x118 17 16 (getF s unitMC 0x118 1 0)

/-- A start from step 3 on. A port that is enabled when PERST_N is released trains (R382). -/
def startDevice (s : State) (release : Bool) : State :=
  let s1 := newNonce (setSession (chooseProfile (mcStatus s 16 false) release) none)
  let s2 := { s1 with mc := { s1.mc with bootStep := 3, startAt := now s, measures := [] } }
  let s3 := restoreColumns (setF s2 unitDEV 0x120 23 16 (bootCount s2))
  bootCounter (foldOver (fun n t => if listens t n then startTraining t n else t) (List.range 48) s3)

/-- PERST_N is released (R498 step 3, R523, R543), with the levels of PROF1:PROF0. -/
def perstRelease (s : State) (pins : Nat) : State :=
  if s.pw.perst = true ∨ s.pw.auxUp = false ∨ s.pw.mainOn = false then s
  else
    let s1 := setF { s with pw := { s.pw with perst := true } } unitMC 0x118 1 0 pins
    startDevice (mcStatus (setF s1 unitMC 0x158 0 0 0) 20 false) true

/-- PERST_N is asserted (R470, R544). -/
def perstAssert (s : State) : State :=
  if s.pw.perst then resetDevice { s with pw := { s.pw with perst := false } } .perst else s

/-- A hot reset, a link disable or a CXL Reset (R470): the device restarts as PERST_N does. -/
def cxlReset (s : State) : State :=
  if s.pw.perst ∧ s.pw.mainOn then startDevice (resetDevice s .perst) false else s

/-- Step 4 of R498: the link trains at ×8 or ×16 and a rate of R468. Below ×8 it stays down. -/
def linkTrained (s : State) (width speed : Nat) : State :=
  if s.pw.perst ∧ s.pw.mainOn ∧ (width = 8 ∨ width = 16) ∧ 3 ≤ speed ∧ speed ≤ 5 then
    setReg s unitHI 0x1F0 (putField (putField 0 12 8 width) 3 0 speed)
  else s

/-! ### Steps 6 and 7 (R500, R519) -/

/-- The entries of a profile body: BAR0 offset and value. -/
def profileEntries (b : List Byte) : List (Nat × Nat) := (pieces 16 (leAt b 4 4) (b.drop 32)).map fun e => (leAt e 0 4, leAt e 8 8)

/-- The entries of the active profile, none when it has no record. -/
def activeEntries (s : State) : List (Nat × Nat) := ((profileRecord s (activeProfile s)).map profileEntries).getD []

/-- The active profile enables a unit. -/
def profileEnables (s : State) (u : UnitId) : Bool := (activeEntries s).any fun e => e.1 = pageOf u + 0x10 && e.2 % 4 = 1

/-- The power cap and the clock limits of the profile, which firmware sets first at step 8. -/
def profilePower (s : State) : State :=
  foldOver (fun e t =>
    if e.1 = pageOf unitPW + 0x100 ∨ e.1 = pageOf unitPW + 0x108 then
      plainWrite t unitPW (e.1 % 0x1000) (BitVec.allOnes 64) (BitVec.ofNat 64 e.2)
    else t) (activeEntries s) s

/-- The boot ROM verifies the image (R500, R508). -/
def imageVerify (s : State) (readOk : Bool) : State :=
  if s.mc.bootStep ≠ 5 then s
  else
    let h := imageHeader s
    let c := imageCheck s readOk
    if c = 0 then
      let s1 := setF (setReg (mcStatus s 18 true) unitDEV 0x110 (fwVersion h)) unitMC 0x130 17 16 (hdrSlot h)
      let s2 := takeMeasures { s1 with mc := { s1.mc with bootStep := 7, imageSvn := hdrSvn h } } true
      profilePower s2
    else
      let s1 := setReg (mcStatus s 18 false) unitDEV 0x110 0
      if c = 5 then uncountedFailure s1 0x02 (hdrSvn h) else uncountedFailure s1 0x01 c

/-! ### Step 8 (R346, R352) -/

/-- The remap and retirement records of a stack are applied to it (R352, R375). -/
def applySpares (s : State) (st : Nat) : State :=
  let mine (ty : Nat) : List (List Byte) := ((spareEntries s).filter fun e => e.1 = ty && leAt e.2 0 4 = st).map fun e => e.2
  let rows := mine 0x0002
  let pages := mine 0x0003
  let lost (b : List Byte) : Bool := leAt b 12 4 % 2 = 1
  let moved := pages.filter fun b => !lost b
  let banks := (pages.map fun b => leAt b 12 4 / 2).eraseDups
  let u := unitHS st
  let s1 := setStack s st { stackOf s st with
    spareRows := rows.foldl (fun t b => tblSet (fun _ => 0) t (leAt b 4 4) (tblGet (fun _ => 0) t (leAt b 4 4) + 1)) []
    retiredSpares := (rows.filter fun b => decide (2 ^ 20 ≤ leAt b 8 4)).map fun b => ⟨leAt b 4 4, leAt b 8 4⟩
    banksOut := banks
    movedPages := moved.map fun b => leAt b 4 8
    offline := (pages.filter lost).map fun b => leAt b 4 8 }
  let w : Word := putField (putField (putField 0 63 32 moved.length) 31 16 rows.length) 15 0 banks.length
  setF (setReg s1 u 0x1B0 w) u 0x18 19 19 (bit (decide (8192 ≤ moved.length)))

/-- DEV RETIRE_SUMMARY HBM_PAGES as the record store has it (R352). -/
def restorePageCount (s : State) : State :=
  setF s unitDEV 0x128 63 32 (min ((spareEntries s).filter fun e => e.1 = 0x0003 && leAt e.2 12 4 % 2 = 0).length (2 ^ 32 - 1))

/-- A stack's interface training ends (R346, R508): a stack that the profile enables and that fails is a counted failure. -/
def memoryTraining (s : State) (st : Nat) (lanes : List Nat) : State :=
  if s.mc.bootStep ≠ 7 ∨ 12 ≤ st ∨ present s (unitHS st) = false ∨ st ∈ s.mc.trained then s
  else
    let s1 := trainStack s st lanes
    let s2 := { s1 with mc := { s1.mc with trained := st :: s1.mc.trained } }
    if trainingPasses lanes then restorePageCount (applySpares s2 st)
    else if profileEnables s (unitHS st) then countedFailure s2 0x03 st
    else s2

/-- Every port is tested in internal loopback (R498 step 8, R508): `failed` lists the ports that pass fewer than eight lanes. -/
def loopbackTest (s : State) (failed : List Nat) : State :=
  if s.mc.bootStep ≠ 7 ∨ s.mc.looped = true then s
  else
    match (List.range 48).find? fun n => failed.contains n && present s (unitKP n) && profileEnables s (unitKP n) with
    | some n => countedFailure s 0x04 n
    | none => { s with mc := { s.mc with looped := true } }

/-- Step 8 has ended. -/
def trainingOver (s : State) : Bool :=
  s.mc.looped && (List.range 12).all fun n => !present s (unitHS n) || s.mc.trained.contains n

/-! ### Step 9 (R510 to R512) -/

/-- MC FAIL_INFO (R511). -/
def setFailInfo (s : State) (entry page reason : Nat) : State :=
  setReg s unitMC 0x128 (putField (putField (putField 0 63 52 entry) 51 26 page) 15 0 reason)

/-- One entry (R510): a 64-bit write, and where it writes ENABLE = 1, its assay. The reason of a refusal, if any. -/
def applyEntry (s : State) (e : Nat × Nat) : State × Option Nat :=
  match unitAt e.1 with
  | none => (badAccess s true e.1 8, none)
  | some u =>
    let off := e.1 % 0x1000
    let s1 := regWrite s u off (BitVec.allOnes 64) (BitVec.ofNat 64 e.2)
    if off = 0x10 ∧ e.2 % 4 = 1 then
      let s2 := assayDone s1 u
      (s2, if present s2 u && enabled s2 u then none else some (getF s2 unitDEV 0x150 15 0))
    else (s1, none)

/-- The entries from one on, in order; at the first refusal, a failed start (R511). -/
def applyEntries : Nat → List (Nat × Nat) → State → State × Bool
  | _, [], s => (s, true)
  | j, e :: t, s =>
    match applyEntry s e with
    | (s1, none) => applyEntries (j + 1) t s1
    | (s1, some reason) => (countedFailure (setFailInfo s1 j (e.1 / 0x1000 * 0x1000) reason) 0x06 (j % 256), false)

/-- Firmware applies the profile (R510 to R512, R554): LEVEL, the entries, and after the last one the locks. -/
def profileApply (s : State) : State :=
  if s.mc.bootStep ≠ 7 ∨ trainingOver s = false then s
  else
    match profileRecord s (activeProfile s) with
    | none => countedFailure (setFailInfo s 0 0 0) 0x06 0
    | some b =>
      let level := leAt b 1 1
      if levelSupported s level = false then countedFailure (setFailInfo s 0 0 0x0902) 0x06 0
      else
        let r := applyEntries 0 (profileEntries b) (setF s unitDEV 0x118 7 0 level)
        if r.2 then { r.1 with locks := leAt b 2 2 % 32, mc := { r.1.mc with bootStep := 9 } } else r.1

/-! ### Step 10, restarts and watchdogs (R498, R507, R508) -/

/-- Firmware declares ready (R74, R498). -/
def ready (s : State) : State :=
  if s.mc.bootStep ≠ 9 then s
  else
    let s1 := setF (setF (writeCount s 0) unitDEV 0x120 3 0 1) unitDEV 0x10 0 0 1
    { s1 with mc := { s1.mc with bootStep := 10 } }

/-- MC restarts the device from step 5 (R498, R507): MC, TB and the link stay, and the profile is that of the start. -/
def bootRestart (s : State) : State :=
  if s.mc.restartDue then
    let s1 := newNonce (setSession (resetDevice s .restart) none)
    let s2 := { s1 with mc := { s1.mc with bootStep := 3, startAt := now s } }
    bootCounter (restoreColumns s2)
  else s

/-- A start is in progress. -/
def starting (s : State) : Bool := decide (5 ≤ s.mc.bootStep ∧ s.mc.bootStep < 10)

/-- The step a start has reached. -/
def stepReached (s : State) : Nat := if s.mc.bootStep = 7 ∧ trainingOver s = true then 8 else s.mc.bootStep

/-- Ten seconds have passed since step 3 (R508). -/
def bootWatchdog (s : State) : State :=
  if starting s then countedFailure (timeUpTo s (s.mc.startAt + 10000000000)) 0x05 (stepReached s) else s

/-- MC's firmware watchdog expires during a start (R508). -/
def firmwareWatchdog (s : State) : State := if starting s then countedFailure s 0x05 (stepReached s) else s

/-! ### The flash writer (R515, R517) -/

/-- MC writes the next record that waits; one that is torn does not count, and its program has failed. -/
def recordWrite (s : State) (torn : Bool) : State :=
  match s.flashDue with
  | [] => s
  | r :: rest =>
    let s1 := putRecord { s with flashDue := rest } r.type r.body torn
    if torn then raiseErr s1 unitMC 17 else s1

/-! ### Meanings -/

/-- AUX_POWER_UP (R498 steps 1 and 2, R518), with whether the identity key unwraps. -/
def execAuxPowerUp (identityOk : Bool) (s : State) : Host.Outcome State Fault Refusal :=
  .next (if s.pw.auxUp then s else auxUp s identityOk)

/-- AUX_POWER_LOSS (R550). -/
def execAuxPowerLoss (s : State) : Host.Outcome State Fault Refusal := .next (if s.pw.auxUp then auxDown s else s)

/-- PWR_GOOD (R536). -/
def execPwrGood (s : State) : Host.Outcome State Fault Refusal := .next (mainCheck { s with pw := { s.pw with pwrGood := true } })

/-- PWR_GOOD_DEASSERT (R537, R544). -/
def execPwrGoodDeassert (s : State) : Host.Outcome State Fault Refusal := .next (pwrGoodOff s)

/-- P54_UNDERVOLTAGE (R537), with the voltage in units of 10 mV: below 43 V. -/
def execP54Undervoltage (value : Nat) (s : State) : Host.Outcome State Fault Refusal :=
  .next (if value < 4300 then supplyFails s 3 value else s)

/-- P54_OVERVOLTAGE (R537): above 59 V. -/
def execP54Overvoltage (value : Nat) (s : State) : Host.Outcome State Fault Refusal :=
  .next (if 5900 < value then supplyFails s 4 value else s)

/-- P54_WITHIN_RANGE (R536). -/
def execP54WithinRange (s : State) : Host.Outcome State Fault Refusal := .next (mainCheck { s with pw := { s.pw with p54 := true } })

/-- THERMAL_TRIP (R534), with the sensor and its reading in units of 0.0625 °C. -/
def execThermalTrip (sensor value : Nat) (s : State) : Host.Outcome State Fault Refusal := .next (thermalTrip s sensor value)

/-- PERST_RELEASE (R498 steps 3 and 5). -/
def execPerstRelease (pins : Nat) (s : State) : Host.Outcome State Fault Refusal := .next (perstRelease s pins)

/-- PERST_ASSERT (R470). -/
def execPerstAssert (s : State) : Host.Outcome State Fault Refusal := .next (perstAssert s)

/-- CXL_RESET (R470). -/
def execCxlReset (s : State) : Host.Outcome State Fault Refusal := .next (cxlReset s)

/-- CXL_LINK_TRAINED (R468, R498 step 4). -/
def execCxlLinkTrained (width speed : Nat) (s : State) : Host.Outcome State Fault Refusal := .next (linkTrained s width speed)

/-- IMAGE_VERIFY (R498 steps 6 and 7, R500), with whether every read of the flash completes. -/
def execImageVerify (readOk : Bool) (s : State) : Host.Outcome State Fault Refusal := .next (imageVerify s readOk)

/-- MEMORY_TRAINING (R346, R352), with the failing lanes of each channel. -/
def execMemoryTraining (stack : Nat) (bad : List Nat) (s : State) : Host.Outcome State Fault Refusal :=
  .next (memoryTraining s stack bad)

/-- LOOPBACK_SELFTEST (R498 step 8). -/
def execLoopbackSelftest (failed : List Nat) (s : State) : Host.Outcome State Fault Refusal := .next (loopbackTest s failed)

/-- PROFILE_APPLY (R510). -/
def execProfileApply (s : State) : Host.Outcome State Fault Refusal := .next (profileApply s)

/-- DEVICE_READY (R498 step 10). -/
def execDeviceReady (s : State) : Host.Outcome State Fault Refusal := .next (ready s)

/-- BOOT_RESTART (R507). -/
def execBootRestart (s : State) : Host.Outcome State Fault Refusal := .next (bootRestart s)

/-- BOOT_WATCHDOG (R508). -/
def execBootWatchdog (s : State) : Host.Outcome State Fault Refusal := .next (bootWatchdog s)

/-- MC_FIRMWARE_WATCHDOG (R508). -/
def execMcFirmwareWatchdog (s : State) : Host.Outcome State Fault Refusal := .next (firmwareWatchdog s)

/-- RECORD_WRITE (R515). -/
def execRecordWrite (torn : Bool) (s : State) : Host.Outcome State Fault Refusal :=
  .next (if s.pw.auxUp then recordWrite s torn else s)

/-- COMPACTION (R517). -/
def execCompaction (s : State) : Host.Outcome State Fault Refusal :=
  .next (if s.pw.auxUp && compactDue s then compact s else s)

end Sys2Proof.Machine
end

