-- ==== Sys2Proof/Machine/Codec.lean ====
section
/-! DEFINITION. The codec engines: conversion with rotation, block scales, sums, tags and tallies (R124 to R150), pruning to
2:4 (R243), and the output compressor with its inverse (R244 to R248). -/

namespace Sys2Proof.Machine

open Sys2Proof

/-! ### Descriptor fields (R127, R242) -/

def qcSrc (d : List Byte) : Nat := leAt d 33 1
def qcDst (d : List Byte) : Nat := leAt d 34 1
def qcFlag (d : List Byte) (k : Nat) : Bool := (leAt d 35 1).testBit k
def qcRows (d : List Byte) : Nat := leAt d 40 4
def qcCols (d : List Byte) : Nat := leAt d 44 4
def qcRot (d : List Byte) : Nat := leAt d 36 1

/-- Rows and columns of the output tensor: exchanged under TRANSPOSE (R128). -/
def qcOutRows (d : List Byte) : Nat := if qcFlag d 6 then qcCols d else qcRows d
def qcOutCols (d : List Byte) : Nat := if qcFlag d 6 then qcRows d else qcCols d

/-- Blocks of one row of an MX tensor. -/
def rowBlocks (cols : Nat) : Nat := ceilDiv cols 32

/-- Stored bytes of one 2:4 row of `cols` positions: half the elements, or half of each block of an MX target (R243). -/
def prunedRowBytes (code cols : Nat) : Nat :=
  if isMx code then rowBlocks cols * (2 * elemBits code) else rowBytes code (cols / 2)

/-! ### Descriptor checks (R126, R132, R149, R248) -/

/-- The checks every conversion makes. `op` is CONVERT, PRUNE24 or COMPRESS. -/
def qcFaults (op : Nat) (d : List Byte) : List DescFault :=
  let src := qcSrc d
  let dst := qcDst d
  let mxIn := isMx src
  let mxOut := isMx dst
  let intOut := isIntFmt dst
  let rot := qcRot d
  faultIf (elemOf src).isNone 0x02 33 ++
  faultIf (elemOf dst).isNone 0x02 34 ++
  faultIf (dst = 0x0C && !(isIntFmt src || src = 0x0C)) 0x02 34 ++
  faultIf (qcFlag d 4 && mxIn) 0x02 35 ++
  faultIf (qcFlag d 2 && !intOut) 0x02 35 ++
  faultIf (qcFlag d 3 && (mxIn || mxOut || rot ≠ 0)) 0x02 35 ++
  faultIf (qcFlag d 6 && mxIn) 0x02 35 ++
  faultIf (op = 0x10 && qcFlag d 3) 0x02 35 ++
  faultIf (op = 0x10 && qcOutCols d % 4 ≠ 0) 0x02 44 ++
  faultIf (op = 0x11 && (mxOut || dst = 0x05 || dst = 0x06)) 0x02 34 ++
  faultIf (op = 0x11 && (qcFlag d 2 || qcFlag d 5 || qcFlag d 6)) 0x02 35 ++
  faultIf (!(rot = 0 || (decide (5 ≤ rot ∧ rot ≤ 9) && qcOutCols d % 2 ^ rot = 0))) 0x03 36 ++
  alignFaults d [(48, 4), (56, 8), (72, 8)] ++
  (if op = 0x11 then [] else alignFaults d [(52, 4)]) ++
  (if mxIn || qcFlag d 4 then alignFaults d [(64, 8)] else []) ++
  (if mxOut || op = 0x11 then alignFaults d [(80, 8)] else []) ++
  (if qcFlag d 2 && op ≠ 0x11 then alignFaults d [(88, 8)] else []) ++
  (if op = 0x10 then alignFaults d [(112, 8), (120, 4)] else []) ++
  faultIf (decide (leAt d 48 4 < rowBytes src (qcCols d))) 0x05 48 ++
  faultIf (op = 0x01 && decide (leAt d 52 4 < rowBytes dst (qcOutCols d))) 0x05 52 ++
  faultIf (op = 0x10 && decide (leAt d 52 4 < prunedRowBytes dst (qcOutCols d))) 0x05 52 ++
  faultIf (op = 0x10 && decide (leAt d 120 4 < ceilDiv (qcOutCols d) 8)) 0x05 120 ++
  faultIf (qcRows d = 0) 0x07 40 ++ faultIf (qcCols d = 0) 0x07 44

/-- UNIT of R248: the unit an operation uses is not enabled. -/
def unitFault (s : State) (u : UnitId) (op : Nat) : List DescFault :=
  faultIf (if op = 0x10 then getF s u 0x200 0 0 = 0 else if op = 0x01 then false else getF s u 0x200 1 1 = 0) 0x08 32

/-- The checks of DECOMPRESS. -/
def expandFaults (d : List Byte) : List DescFault :=
  faultIf (elemOf (qcSrc d)).isNone 0x02 33 ++ faultIf (qcDst d ≠ qcSrc d) 0x02 34 ++
  alignFaults d [(52, 4), (56, 8), (64, 8), (72, 8)] ++
  faultIf (decide (leAt d 52 4 < rowBytes (qcSrc d) (qcCols d))) 0x05 52 ++
  faultIf (qcRows d = 0) 0x07 40 ++ faultIf (qcCols d = 0) 0x07 44

/-! ### Tags (R144, R145) -/

/-- Where the tag plane of a stream lies. -/
def tagPlane (base len : Nat) : Nat := base + roundUp len 64

/-- The first block whose two tags differ, with both tags. -/
def firstSlip (dtags stags : List Byte) : Option (Nat × Nat × Nat) :=
  ((List.range dtags.length).find? fun b => dtags.getD b 0 ≠ stags.getD b 0).map fun b =>
    (b, (dtags.getD b 0).toNat, (stags.getD b 0).toNat)

/-! ### Stages 1 to 3 (R124, R132) -/

/-- Sign `j` of sign set `set` of a codec's page: true negates (R152). -/
def rotSign (s : State) (u : UnitId) (set j : Nat) : Bool :=
  bitOf (getReg s u (0x400 + 0x40 * (set % 4) + 8 * (j / 64))) (j % 64)

/-- One butterfly stage of stride 2^k on FP32 codes, with its flags (R132). -/
def butterfly (k : Nat) (xs : List Nat) : List Nat × Nat :=
  let r := xs.mapIdx fun i x =>
    if i.testBit k then fsub32 (xs.getD (i - 2 ^ k) 0) x else fadd32 x (xs.getD (i + 2 ^ k) 0)
  (r.map (·.1), r.foldl (fun f p => f ||| p.2) 0)

/-- The rotation of one segment of 2^L FP32 codes (R131, R132). -/
def rotateSegment (s : State) (u : UnitId) (set l : Nat) (xs : List Nat) : List Nat × Nat :=
  let signed := xs.mapIdx fun j x => if rotSign s u set j then (to32 (numOf32 x).neg).1 else x
  let r := (List.range l).foldl (fun p k => let y := butterfly k p.1; (y.1, p.2 ||| y.2)) (signed, 0)
  let sc := r.1.map fun x => to32 ((numOf32 x).shift (-((l / 2 : Nat) : Int)))
  (sc.map (·.1), sc.foldl (fun f p => f ||| p.2) r.2)

/-- Stages 2 and 3 of one row of exact products `w`: rounded to FP32 and rotated when the task rotates. -/
def rotateRow (s : State) (u : UnitId) (d : List Byte) (row : List ExactNum) : List ExactNum × Nat :=
  let l := qcRot d
  if l = 0 then (row, 0)
  else
    let ws := row.map to32
    let f0 := ws.foldl (fun f p => f ||| p.2) 0
    let segs := (List.range (row.length / 2 ^ l)).map fun k =>
      rotateSegment s u (leAt d 37 1) l (((ws.map (·.1)).drop (k * 2 ^ l)).take (2 ^ l))
    (segs.flatMap fun g => g.1.map numOf32, segs.foldl (fun f g => f ||| g.2) f0)

/-! ### Stage 4 (R129) -/

/-- The block scale of an MX target from the largest finite magnitude of its block (R129). -/
def blockScale (code : Nat) (noclip : Bool) (ws : List ExactNum) : Nat :=
  match largest (ws.map fun w => (w, 0)) with
  | none => 0x7F
  | some (a, _) =>
    if a.num = 0 then 0x7F
    else
      let mx : Dyadic := match elemOf code with
        | some (.float f) => (decodeFloat f f.maxCode).dyadic
        | _ => ⟨127, -6⟩
      let s0 := topExp a.num a.exp - topExp mx.num mx.exp
      let s := if noclip && dyLt ⟨mx.num, mx.exp + s0⟩ a then s0 + 1 else s0
      if s < -127 then 0 else if 127 < s then 0xFE else (s + 127).toNat

/-- What stage 4 makes of some elements: their codes, the scale of their block, the decoded outputs and the flags. -/
structure Quantised where
  codes : List Nat
  scale : Nat
  outs : List ExactNum
  flags : Nat
  deriving DecidableEq, Repr

/-- Quantises the elements of one block of an MX target. -/
def quantBlock (code : Nat) (sat noclip : Bool) (ws : List ExactNum) : Quantised :=
  if ws.any ExactNum.isNan then ⟨ws.map fun _ => 0, 0xFF, ws.map fun _ => .nan, flagInvalid⟩
  else
    let x := blockScale code noclip ws
    let r := ws.map fun w => encodeElem code 0 sat (w.shift (127 - (x : Int)))
    ⟨r.map (·.1), x, r.map fun p => mxValue x (decodeElem code 0 p.1), r.foldl (fun f p => f ||| p.2) 0⟩

/-- Quantises elements of a format without block scales. -/
def quantPlain (code zp : Nat) (sat : Bool) (ws : List ExactNum) : Quantised :=
  let r := ws.map fun w => encodeElem code zp sat w
  ⟨r.map (·.1), 0, r.map fun p => decodeElem code zp p.1, r.foldl (fun f p => f ||| p.2) 0⟩

/-- Quantises one row: the blocks of an MX target each for itself, with their scales in order. -/
def quantRow (d : List Byte) (ws : List ExactNum) : Quantised × List Nat :=
  let code := qcDst d
  if isMx code then
    let bs := (List.range (rowBlocks ws.length)).map fun b =>
      quantBlock code (qcFlag d 0) (qcFlag d 1) ((ws.drop (32 * b)).take 32)
    (⟨bs.flatMap (·.codes), 0, bs.flatMap (·.outs), bs.foldl (fun f b => f ||| b.flags) 0⟩, bs.map (·.scale))
  else (quantPlain code (leAt d 39 1) (qcFlag d 0) ws, [])

/-! ### The source -/

/-- What a conversion has read: the exact products of stage 2 by rows of the output tensor, how many leading elements of
each row are to be produced, the first slip, and the flags of stage 3. -/
structure Source where
  ws : List (List ExactNum)
  limit : List Nat
  slip : Option (Nat × Nat × Nat)
  flags : Nat
  deriving DecidableEq, Repr

/-- The rows of a matrix as its columns. -/
def transposeRows (rows : List (List ExactNum)) (cols : Nat) : List (List ExactNum) :=
  (List.range cols).map fun j => rows.map fun r => r.getD j .zero

/-- Elements of source row `r` that lie before block `b` of the tensor, whole rotation segments only. -/
def beforeSlip (d : List Byte) (r b : Nat) : Nat :=
  let nb := rowBlocks (qcCols d)
  let n := if b / nb < r then 0 else if r < b / nb then qcCols d else min (qcCols d) (32 * (b % nb))
  if qcRot d = 0 then n else n / 2 ^ qcRot d * 2 ^ qcRot d

/-- Reads a source tensor and takes it through stages 1 to 3. -/
def readSource (s : State) (u : UnitId) (t : Task) : State × Source :=
  let d := t.desc
  let p := partOf t
  let src := qcSrc d
  let rows := qcRows d
  let cols := qcCols d
  let nb := rowBlocks cols
  let stride := leAt d 48 4
  let data := leAt d 56 8
  let aux := leAt d 64 8
  let r1 := readRows s u p data stride (rowBytes src cols) rows
  let r2 := if isMx src then
      let a := engineLoad r1.1 u p aux (rows * nb)
      let x := engineLoad a.1 u p (tagPlane data (rows * stride)) (rows * nb)
      let y := engineLoad x.1 u p (tagPlane aux (rows * nb)) (rows * nb)
      (y.1, a.2, x.2, y.2)
    else if qcFlag d 4 then
      let a := engineLoad r1.1 u p aux (4 * (if qcFlag d 3 then qcOutCols d else qcOutRows d))
      (a.1, a.2, [], [])
    else (r1.1, [], [], [])
  let slip := firstSlip r2.2.2.1 r2.2.2.2
  let raw := r1.2.mapIdx fun i row =>
    (rowCodes src cols row).mapIdx fun j c =>
      let v := decodeElem src (leAt d 38 1) c
      if isMx src then mxValue (r2.2.1.getD (i * nb + j / 32) 0).toNat v else v
  let turned := if qcFlag d 6 then transposeRows raw cols else raw
  let ws := turned.mapIdx fun i row => row.mapIdx fun j v =>
    v.mul (if qcFlag d 4 then fp32At r2.2.1 (4 * (if qcFlag d 3 then j else i)) else fp32At d 96)
  let rot := ws.map (rotateRow s u d)
  (r2.1,
    { ws := rot.map (·.1)
      limit := (List.range (qcOutRows d)).map fun i =>
        match slip with
        | some (b, _) => beforeSlip d i b
        | none => qcOutCols d
      slip := slip
      flags := rot.foldl (fun f x => f ||| x.2) 0 })

/-! ### Stage 5 and the ends (R134, R138, R139) -/

/-- The error sums of pairs of stage 4 input and decoded output (R138). -/
def errorSums (ps : List (ExactNum × ExactNum)) : Nat × Dyadic × Dyadic :=
  ps.foldl (fun r p =>
    if p.1.isFin && p.2.isFin then
      (r.1 + 1, dyAdd r.2.1 (p.2.add p.1.neg).square, dyAdd r.2.2 p.1.square)
    else r) (0, ⟨0, 0⟩, ⟨0, 0⟩)

/-- The tally updates of a conversion at its end. -/
def codecTallies (s : State) (d : List Byte) (ps : List (List (ExactNum × ExactNum))) : State :=
  let e := errorSums ps.flatten
  let s1 := engineTally s (leAt d 100 2) 2 e.1 e.2.1 e.2.2 0
  let cols := qcOutCols d
  tallyMax s1 (leAt d 102 2) (largest (ps.mapIdx fun i r => r.mapIdx fun j p => (p.1, i * cols + j)).flatten)

/-- The offset code an output element has in the sums stream (R103, R134). -/
def offsetInt (code c : Nat) : Int :=
  match elemOf code with
  | some (.sint n) => signedOf n c
  | some (.uint n) => (c % 2 ^ n : Nat) - (2 ^ (n - 1) : Nat)
  | _ => 0

/-- Writes the sums stream of complete segments (R134): `val i j` is the offset code of output element (i, j), none for an
element that was not produced. -/
def writeSums (s : State) (u : UnitId) (t : Task) (val : Nat → Nat → Option Int) : State :=
  let d := t.desc
  let kdim := qcFlag d 3
  let len := if kdim then qcOutRows d else qcOutCols d
  let n := if kdim then qcOutCols d else qcOutRows d
  if qcFlag d 2 then
    foldOver (fun sg s1 => foldOver (fun i s2 =>
      let vs := (List.range (min 128 (len - 128 * sg))).map fun k =>
        if kdim then val (128 * sg + k) i else val i (128 * sg + k)
      if vs.any Option.isNone then s2
      else engineStore s2 u (partOf t) (leAt d 88 8 + 2 * (sg * n + i))
        (leBytes 2 (unsignedOf 16 (vs.foldl (fun a v => a + v.getD 0) 0)))) (List.range n) s1) (List.range (ceilDiv len 128)) s
  else s

/-- Writes the scales and both tag planes of an MX target (R101, R144): `blocks` gives the scales of the blocks produced,
in block order; `rows` and `stride` are of the stored tensor. -/
def writeScales (s : State) (u : UnitId) (t : Task) (rows total : Nat) (scales : List Nat) : State :=
  let d := t.desc
  if isMx (qcDst d) then
    let tags := (List.range scales.length).map fun b => BitVec.ofNat 8 (leAt d 104 1 + b)
    let s1 := engineStore s u (partOf t) (leAt d 80 8) (scales.map (BitVec.ofNat 8))
    let s2 := engineStore s1 u (partOf t) (tagPlane (leAt d 72 8) (rows * leAt d 52 4)) tags
    engineStore s2 u (partOf t) (tagPlane (leAt d 80 8) total) tags
  else s

/-- Ends a conversion: a slip is recorded and ends it with SCALE_SLIP (R145), else it is DONE. -/
def codecEnd (s : State) (u : UnitId) (slip : Option (Nat × Nat × Nat)) (flags : Nat) : State :=
  match slip with
  | some (b, x, y) =>
    let w : Word := putField (putField (putField 0 63 32 b) 31 24 x) 23 16 y
    finishBad (setReg s u 0x100 w) u 0x01 b flags
  | none => finishOk s u flags

/-- Elements converted. -/
def countElements (s : State) (u : UnitId) (limit : List Nat) : State := bump64 s u 0x110 (limit.foldl (· + ·) 0)

/-- CONVERT (R124 to R150): reads, converts and writes the whole tensor, or what lies before a slip. -/
def convertRun (u : UnitId) (t : Task) (s : State) : State :=
  let d := t.desc
  let r := readSource s u t
  let src := r.2
  let code := qcDst d
  let rows := (src.ws.zip src.limit).map fun x => (x.1.take x.2, quantRow d (x.1.take x.2))
  let flags := rows.foldl (fun f x => f ||| x.2.1.flags) src.flags
  let padded (q : Quantised × List Nat) : List Nat :=
    if isMx code then q.1.codes ++ List.replicate (32 * q.2.length - q.1.codes.length) 0 else q.1.codes
  let s1 := writeRows r.1 u (partOf t) (leAt d 72 8) (leAt d 52 4) (rows.map fun x => packRow code (padded x.2))
  let s2 := writeScales s1 u t (qcOutRows d) (qcOutRows d * rowBlocks (qcOutCols d)) (rows.flatMap fun x => x.2.2)
  let s3 := writeSums s2 u t fun i j =>
    ((rows.getD i ([], ⟨[], 0, [], 0⟩, [])).2.1.codes[j]?).map (offsetInt code)
  let s4 := codecTallies s3 d (rows.map fun x => x.1.zip x.2.1.outs)
  codecEnd (countElements s4 u src.limit) u src.slip flags

/-! ### PRUNE24 (R243) -/

/-- Rank of a position in its group: a NaN above every number, then the greater magnitude, then the lower position. -/
def outranks (a b : ExactNum × Nat) : Bool :=
  if a.1.isNan || b.1.isNan then (a.1.isNan && (!b.1.isNan || decide (a.2 < b.2)))
  else if b.1.abs.lt a.1.abs then true
  else if a.1.abs.lt b.1.abs then false
  else decide (a.2 < b.2)

/-- The two kept positions of a group, ascending. -/
def keptPositions (ws : List ExactNum) : List Nat :=
  let ps := ws.mapIdx fun i w => (w, i)
  (ps.filter fun p => decide ((ps.filter fun q => outranks q p).length < 2)).map (·.2)

/-- The metadata row of kept positions: one 4-bit field per group (R158). -/
def metaRow (kept : List (List Nat)) : List Byte :=
  packRow 0x09 (kept.map fun p => p.getD 0 0 + 4 * p.getD 1 0)

/-- One pruned row: kept positions by group, kept values, quantised codes with scales, and the decoded output of every
dense position. -/
def pruneRow (d : List Byte) (ws : List ExactNum) : List (List Nat) × Quantised × List Nat :=
  let kept := (List.range (ws.length / 4)).map fun g => keptPositions ((ws.drop (4 * g)).take 4)
  let pos := kept.mapIdx fun g ps => ps.map fun p => 4 * g + p
  let code := qcDst d
  let pick (l : List Nat) : List ExactNum := l.map fun i => ws.getD i .zero
  let q : Quantised × List Nat :=
    if isMx code then
      let bs := (List.range (rowBlocks ws.length)).map fun b =>
        quantBlock code (qcFlag d 0) (qcFlag d 1) (pick ((pos.drop (8 * b)).take 8).flatten)
      (⟨bs.flatMap (·.codes), 0, bs.flatMap (·.outs), bs.foldl (fun f b => f ||| b.flags) 0⟩, bs.map (·.scale))
    else (quantPlain code (leAt d 39 1) (qcFlag d 0) (pick pos.flatten), [])
  let outs := (List.range ws.length).map fun i =>
    match pos.flatten.idxOf? i with
    | some k => q.1.outs.getD k .zero
    | none => .zero
  (kept, { q.1 with outs := outs }, q.2)

/-- PRUNE24 (R243): the 2:4 form of the tensor with its metadata. -/
def pruneRun (u : UnitId) (t : Task) (s : State) : State :=
  let d := t.desc
  let r := readSource s u t
  let src := r.2
  let code := qcDst d
  let rows := (src.ws.zip src.limit).map fun x => (x.1.take x.2, pruneRow d (x.1.take x.2))
  let flags := rows.foldl (fun f x => f ||| x.2.2.1.flags) src.flags
  let padded (x : List (List Nat) × Quantised × List Nat) : List Nat :=
    if isMx code then x.2.1.codes ++ List.replicate (16 * x.2.2.length - x.2.1.codes.length) 0 else x.2.1.codes
  let s1 := writeRows r.1 u (partOf t) (leAt d 72 8) (leAt d 52 4) (rows.map fun x => packRow code (padded x.2))
  let s2 := writeRows s1 u (partOf t) (leAt d 112 8) (leAt d 120 4) (rows.map fun x => metaRow x.2.1)
  let s3 := writeScales s2 u t (qcOutRows d) (qcOutRows d * rowBlocks (qcOutCols d)) (rows.flatMap fun x => x.2.2.2)
  let s4 := writeSums s3 u t fun i j =>
    match rows[i]? with
    | none => none
    | some x =>
      if j < x.1.length then
        let g := x.2.1.getD (j / 4) []
        some (match g.idxOf? (j % 4) with
          | some k => offsetInt code (x.2.2.1.codes.getD (2 * (j / 4) + k) 0)
          | none => 0)
      else none
  let s5 := codecTallies s4 d (rows.map fun x => x.1.zip x.2.2.1.outs)
  let s6 := bump64 s5 u 0x208 (rows.foldl (fun n x => n + x.2.1.length) 0)
  codecEnd (countElements s6 u src.limit) u src.slip flags

/-! ### COMPRESS (R244 to R246) -/

/-- `x` rounded up to a multiple of 16. -/
def pad16 (n : Nat) : Nat := roundUp n 16

/-- Bytes padded with zeros to a multiple of 16. -/
def padTo16 (bs : List Byte) : List Byte := bs ++ zeros (pad16 bs.length - bs.length)

/-- Rows of bits, 16 bytes a row, bit c of a row at bit c mod 8 of byte c / 8. -/
def bitmapRow (bits : List Bool) : List Byte :=
  leBytes 16 ((bits.mapIdx fun c b => bit b * 2 ^ c).foldl (· + ·) 0)

/-- The body of a tile in one form, from its rows of codes and which codes are zero. -/
def tileBody (code form : Nat) (rows : List (List (Nat × Bool))) : List Byte :=
  let all := rows.flatten
  let vals := padTo16 (packRow code ((all.filter fun e => !e.2).map (·.1)))
  match form with
  | 0 => padTo16 (packRow code (all.map (·.1)))
  | 1 =>
    let counts := rows.map fun r => (r.filter fun e => !e.2).length
    let ptrs := (List.range (rows.length + 1)).map fun i => (counts.take i).foldl (· + ·) 0
    let idx := rows.flatMap fun r => (r.mapIdx fun c e => (c, e.2)).filterMap fun e => if e.2 then none else some e.1
    padTo16 (ptrs.flatMap (leBytes 2)) ++ padTo16 (idx.map (BitVec.ofNat 8)) ++ vals
  | _ => (rows.flatMap fun r => bitmapRow (r.map fun e => !e.2)) ++ vals

/-- The form emitted: the smallest body, RAW before BITMAP before CSR among equals (R246). -/
def chooseForm (code mask : Nat) (rows : List (List (Nat × Bool))) : Nat :=
  let size (f : Nat) : Nat := (tileBody code f rows).length
  let a := if mask.testBit 1 && decide (size 2 < size 0) then 2 else 0
  if mask.testBit 0 && decide (size 1 < size a) then 1 else a

/-- A tile record (R245). -/
def tileRecord (code form tile : Nat) (rows : List (List (Nat × Bool))) : List Byte :=
  let body := tileBody code form rows
  leBytes 1 form ++ leBytes 1 code ++ leBytes 1 (rows.length - 1) ++ leBytes 1 ((rows.headD []).length - 1) ++
    leBytes 4 body.length ++ leBytes 2 ((rows.flatten.filter fun e => !e.2).length) ++ zeros 2 ++ leBytes 4 tile ++ body

/-- An element the compressor drops (R244). -/
def isZeroCode (code zp c : Nat) : Bool :=
  match elemOf code with
  | some (.uint n) => c = zp % 2 ^ n
  | _ => (decodeElem code 0 c).isZero

/-- What the compressor has emitted so far: the state, the next byte offset, tiles, dense and emitted bytes, and the tile
at which LIMIT stopped it. -/
structure Emitted where
  s : State
  off : Nat := 0
  tiles : Nat := 0
  dense : Nat := 0
  bytes : Nat := 0
  stop : Option Nat := none

/-- Emits one tile, unless an earlier one has stopped the task or LIMIT stops this one (R246). -/
def emitTile (u : UnitId) (t : Task) (tile : Nat) (rows : List (List (Nat × Bool))) (e : Emitted) : Emitted :=
  let d := t.desc
  if e.stop.isSome then e
  else
    let form := chooseForm (qcDst d) (leAt d 105 1) rows
    let rec_ := tileRecord (qcDst d) form tile rows
    if leAt d 112 8 < e.off + rec_.length then { e with stop := some tile }
    else
      let s1 := engineStore e.s u (partOf t) (leAt d 72 8 + e.off) rec_
      let s2 := engineStore s1 u (partOf t) (leAt d 80 8 + 8 * tile) (leBytes 8 e.off)
      let s3 := bump64 s2 u (match form with | 0 => 0x210 | 1 => 0x218 | _ => 0x220) 1
      let dn := (tileBody (qcDst d) 0 rows).length
      let s4 := bump64 (bump64 s3 u 0x228 dn) u 0x230 rec_.length
      { s := s4, off := e.off + rec_.length, tiles := e.tiles + 1, dense := e.dense + dn, bytes := e.bytes + rec_.length }

/-- COMPRESS (R244 to R246): converts and emits the tiles, all of them, those before a slip, or those within LIMIT. -/
def compressRun (u : UnitId) (t : Task) (s : State) : State :=
  let d := t.desc
  let r := readSource s u t
  let src := r.2
  let code := qcDst d
  let cols := qcOutCols d
  let rows := (src.ws.zip src.limit).map fun x => (x.1.take x.2, quantRow d (x.1.take x.2))
  let flags := rows.foldl (fun f x => f ||| x.2.1.flags) src.flags
  let nt := ceilDiv cols 128
  let cell (tile : Nat) : List (List (Nat × Bool)) :=
    ((rows.drop (128 * (tile / nt))).take 128).map fun x =>
      ((x.2.1.codes.drop (128 * (tile % nt))).take 128).map fun c => (c, isZeroCode code (leAt d 39 1) c)
  let whole (tile : Nat) : Bool := (cell tile).all fun row => row.length = min 128 (cols - 128 * (tile % nt))
  let tiles := (List.range (ceilDiv (qcOutRows d) 128 * nt)).takeWhile whole
  let e := foldOver (fun tile a => emitTile u t tile (cell tile) a) tiles { s := r.1 }
  let s1 := codecTallies e.s d (rows.map fun x => x.1.zip x.2.1.outs)
  let s2 := countElements (engineTally s1 (leAt d 106 2) 2 e.tiles ⟨e.dense, 0⟩ ⟨e.bytes, 0⟩ 0) u src.limit
  match e.stop with
  | some tile => finishBad s2 u 0x09 tile flags
  | none => codecEnd s2 u src.slip flags

/-! ### DECOMPRESS (R247) -/

/-- The rows of codes a record's body gives; `at_ k n` reads `n` bytes of the body at `k`, zeros beyond its end. -/
def expandBody (code form r c nnz : Nat) (at_ : Nat → Nat → List Byte) : List (List Nat) :=
  let n := elemBits code
  let val (base k : Nat) : Nat := natField (ofLE (at_ (base + k * n / 8) 5)) (k * n % 8 + n - 1) (k * n % 8)
  match form with
  | 0 => (List.range r).map fun i => (List.range c).map fun j => val 0 (i * c + j)
  | 1 =>
    let ptr (i : Nat) : Nat := min nnz (ofLE (at_ (2 * i) 2))
    let ib := pad16 (2 * (r + 1))
    let vb := ib + pad16 nnz
    (List.range r).map fun i =>
      let named := (List.range (ptr (i + 1) - ptr i)).map fun k => (ofLE (at_ (ib + ptr i + k) 1), val vb (ptr i + k))
      (List.range c).map fun j => ((named.reverse.find? fun e => e.1 = j).map (·.2)).getD 0
  | _ =>
    let bitsOf (i : Nat) : List Bool := (List.range 128).map fun j => (ofLE (at_ (16 * i) 16)).testBit j
    let before (i : Nat) : Nat := (((List.range i).flatMap bitsOf).filter id).length
    (List.range r).map fun i =>
      let bs := bitsOf i
      (List.range c).map fun j =>
        if bs.getD j false then val (16 * r) (before i + ((bs.take j).filter id).length) else 0

/-- What the expander has done: the state, and the tile whose header stopped it with its FORM byte. -/
structure Expanded where
  s : State
  stop : Option (Nat × Nat) := none

/-- Expands one tile into its own place of the dense output, unless its header differs from what its place expects. -/
def expandTile (u : UnitId) (t : Task) (tile : Nat) (e : Expanded) : Expanded :=
  let d := t.desc
  let p := partOf t
  let code := qcSrc d
  let nt := ceilDiv (qcCols d) 128
  let r := min 128 (qcRows d - 128 * (tile / nt))
  let c := min 128 (qcCols d - 128 * (tile % nt))
  if e.stop.isSome then e
  else
    let o := engineLoad e.s u p (leAt d 64 8 + 8 * tile) 8
    let off := ofLE o.2
    let room := leAt d 112 8 - off
    let hd := engineLoad o.1 u p (leAt d 56 8 + off) (min 16 room)
    let h := hd.2
    let form := leAt h 0 1
    if decide (2 < form) || leAt h 1 1 ≠ code || leAt h 2 1 ≠ r - 1 || leAt h 3 1 ≠ c - 1 || leAt h 12 4 ≠ tile then
      { s := hd.1, stop := some (tile, form) }
    else
      let b := engineLoad hd.1 u p (leAt d 56 8 + off + 16) (min (leAt h 4 4) (room - 16))
      let rows := expandBody code form r c (leAt h 8 2) fun k n => slice b.2 k n
      { s := writeRows b.1 u p (leAt d 72 8 + 128 * (tile / nt) * leAt d 52 4 + 128 * (tile % nt) * elemBits code / 8)
          (leAt d 52 4) (rows.map (packRow code)) }

/-- DECOMPRESS (R247). -/
def expandRun (u : UnitId) (t : Task) (s : State) : State :=
  let d := t.desc
  let tiles := List.range (ceilDiv (qcRows d) 128 * ceilDiv (qcCols d) 128)
  let e := foldOver (expandTile u t) tiles { s := s }
  match e.stop with
  | some (tile, form) => finishBad (setReg e.s u 0x238 (putField (putField 0 63 32 tile) 7 0 form)) u 0x0A tile 0
  | none => finishOk e.s u 0

/-! ### Meanings -/

/-- The OPs of a codec task. -/
def qcOps : List Nat := [0x01, 0x10, 0x11, 0x12]

/-- CONVERT (R124); a codec task of an undefined OP ends here with OPCODE (R562). -/
def execConvert (qc : Nat) (s : State) : Host.Outcome State Fault Refusal :=
  let u := unitQC qc
  .next (runFront (undefinedOp s u qcOps) u 0x01 (fun t => qcFaults 0x01 t.desc) (convertRun u))

/-- PRUNE24 (R243). -/
def execPrune24 (qc : Nat) (s : State) : Host.Outcome State Fault Refusal :=
  let u := unitQC qc
  .next (runFront s u 0x10 (fun t => qcFaults 0x10 t.desc ++ unitFault s u 0x10) (pruneRun u))

/-- COMPRESS (R244). -/
def execCompress (qc : Nat) (s : State) : Host.Outcome State Fault Refusal :=
  let u := unitQC qc
  .next (runFront s u 0x11 (fun t => qcFaults 0x11 t.desc ++ unitFault s u 0x11) (compressRun u))

/-- DECOMPRESS (R247). -/
def execDecompress (qc : Nat) (s : State) : Host.Outcome State Fault Refusal :=
  let u := unitQC qc
  .next (runFront s u 0x12 (fun t => expandFaults t.desc ++ unitFault s u 0x12) (expandRun u))

end Sys2Proof.Machine
end

