-- ==== Sys2Proof/Machine/Control.lean ====
section
/-! DEFINITION. The control cores (R313 to R316, R333, R334) and widen and retry (R140 to R143). Which usable pair of a
quarter evaluates, and whether its two cores agree, is not the device's to fix (R41, R333): both are operands. -/

namespace Sys2Proof.Machine

open Sys2Proof

/-! ### Error metrics (R140) -/

/-- A metric as an exact value; none is greater than every bound. -/
def metricOf (s : State) (absolute : Bool) (slot : Nat) : Option Frac :=
  let t := slotOf s.tally.live slot
  if bitOf t.w3 16 then none
  else if absolute then if t.w0 = 0 then some ⟨0, 1, 0⟩ else some ⟨t.w1, t.w0, slotScale t⟩
  else if t.w2 = 0 then (if t.w1 = 0 then some ⟨0, 1, 0⟩ else none)
  else some ⟨t.w1, t.w2, 0⟩

/-- A metric rounded to FP32, +infinity for one greater than every bound (R142). -/
def metricBits (m : Option Frac) : Nat :=
  match m with
  | none => (infCode fp32 false).1
  | some x => (finishMag fp32 false false (roundMag fp32 x)).1

/-- A metric is greater than a bound; nothing is greater than a NaN. -/
def exceeds (m : Option Frac) (bound : ExactNum) : Bool :=
  match bound, m with
  | .nan, _ => false
  | _, none => true
  | .inf neg, some _ => neg
  | .fin neg b e, some x =>
    if neg && b ≠ 0 then true
    else decide (b * x.den * pow2 (e - x.e) < x.num * pow2 (x.e - e))

/-- The larger of two metrics, as R140 orders them. -/
def maxMetric (a b : Option Frac) : Option Frac :=
  match a, b with
  | some x, some y => if x.num * y.den * pow2 (x.e - y.e) < y.num * x.den * pow2 (y.e - x.e) then some y else some x
  | _, _ => none

/-! ### Comparisons of a COND task (R313, R314) -/

/-- "x CMP VALUE" for numbers of an ordered type. -/
def compareInt (cmp : Nat) (x v : Int) : Bool :=
  match cmp with
  | 0 => x = v | 1 => x ≠ v | 2 => decide (x < v) | 3 => decide (x ≤ v) | 4 => decide (v < x) | 5 => decide (v ≤ x)
  | _ => false

/-- "x CMP VALUE" for FP32 values, a NaN on either side as FCMP gives it. -/
def compareNum (cmp : Nat) (x v : ExactNum) : Bool :=
  match cmp with
  | 0 => x.le v && v.le x
  | 1 => !(x.le v && v.le x)
  | 2 => x.lt v | 3 => x.le v | 4 => v.lt x | 5 => v.le x
  | _ => false

/-- "x CMP VALUE" in TYPE, from the 64-bit patterns (R314). -/
def condHolds (cmp ty x v : Nat) : Bool :=
  let bits := if ty = 2 then x &&& v else (x % 2 ^ 32) &&& (v % 2 ^ 32)
  if cmp = 6 then bits ≠ 0
  else if cmp = 7 then bits = 0
  else
    match ty with
    | 0 => compareInt cmp (signedOf 32 x) (signedOf 32 v)
    | 1 => compareNum cmp (numOf32 (x % 2 ^ 32)) (numOf32 (v % 2 ^ 32))
    | _ => compareInt cmp x v

/-- The owner of a COND task's PRED0, if its name was taken earlier in its epoch. -/
def condSource (s : State) (t : Task) : Option Name :=
  s.led.names.find? fun n => n.id = dPred t.desc 0 && n.next = t.cut && decide (n.owner < t.seq)

/-- The value x of a COND task and the type it is compared in; none when there is no value (R313, R314). -/
def condValue (s : State) (t : Task) : Option (Nat × Nat) :=
  let d := t.desc
  let slot := slotOf s.tally.live (leAt d 38 2)
  let ty := leAt d 35 1
  let src := (condSource s t).map fun n => (n, if n.owner = 0 then none else taskOf s n.owner)
  match leAt d 33 1 with
  | 0 =>
    match src with
    | some (_, some p) =>
      match p.summary with
      | some m => if m.valid.testBit (leAt d 36 1) then some (m.words.getD (leAt d 36 1) 0, ty) else none
      | none => none
    | _ => none
  | 1 => src.map fun p => (((p.2.bind fun x => x.ending).map fun e => e.flags).getD 0, 2)
  | 2 => src.map fun p => (((p.2.bind fun x => x.ending).map fun e => e.status).getD p.1.status, 2)
  | 3 => some (slot.w0, ty)
  | 4 => some (slot.w1, ty)
  | 5 => some (slot.w2, ty)
  | 6 => some (metricBits (metricOf s false (leAt d 38 2)), 1)
  | _ => some (metricBits (metricOf s true (leAt d 38 2)), 1)

/-! ### Which pair evaluates (R333) -/

/-- Usable pairs of a quarter. -/
def usablePairs (s : State) (q : Nat) : List UnitId :=
  ((List.range 2).map fun i => (⟨0x0D, q, i⟩ : UnitId)).filter (usable s)

/-- A pair may evaluate for a quarter: a usable one of the quarter, or, when it has none, the lowest-numbered usable pair
of the device. -/
def mayEvaluate (s : State) (q : Nat) (u : UnitId) : Bool :=
  if (usablePairs s q).isEmpty then ((unitsOf 0x0D).find? (usable s)) = some u else (usablePairs s q).contains u

/-- The two cores of a pair disagree, or its watchdog expires: a detected fault, and the pair is retired (R333, R334). -/
def pairFails (s : State) (u : UnitId) (errBit kind : Nat) : State :=
  let s1 := reportFault (raiseErr s u errBit) u kind
  let s2 := setF (setF s1 u 0x120 7 0 0) u 0x18 18 17 0
  retireUnit s2 u

/-- A COND task is evaluated (R314): OK, with the result in COND_TRUE, once every edge is satisfied; skipped when an edge
cannot be. -/
def evalCond (s : State) (seq : Nat) (u : UnitId) (agree : Bool) : State :=
  match ledgerTask s seq 2 with
  | none => s
  | some t =>
    if anyUnsat s t then settle (endWith s t .skipped 0xF0)
    else if !allSat s t || !mayEvaluate s (quarterOf t) u then s
    else if !agree then pairFails s u 16 0x04
    else
      let v := condValue s t
      let r := match v with
        | some (x, ty) => condHolds (leAt t.desc 34 1) ty x (leAt t.desc 40 8)
        | none => false
      let s1 := bump s u 0x100 31 0 1
      let s2 := if r then bump64 s1 u 0x108 1 else s1
      settle (endTask s2 t { verdict := .ok, condTrue := r, noValue := v.isNone })

/-! ### Widening (R141, R142) -/

/-- The next wider format of a code. -/
def widerFmt (code : Nat) : Option Nat :=
  match code with
  | 0x07 => some 0x03 | 0x05 => some 0x03 | 0x06 => some 0x03
  | 0x09 => some 0x08 | 0x0B => some 0x0A
  | 0x14 => some 0x10 | 0x12 => some 0x10 | 0x13 => some 0x10
  | 0x03 => some 0x01 | 0x04 => some 0x01 | 0x08 => some 0x01 | 0x0A => some 0x01
  | 0x10 => some 0x01 | 0x11 => some 0x01 | 0x15 => some 0x01
  | _ => none

/-- The widenable fields of a descriptor, lowest first: byte offset of the code and of its zero point (R127, R166). -/
def widenFields (d : List Byte) : List (Nat × Nat) :=
  let f := leAt d 35 1
  if dClass d = 6 ∧ (dOp d = 0x01 ∨ dOp d = 0x10) then (if f.testBit 5 then [(34, 39)] else [])
  else if dClass d = 1 ∧ dOp d = 0x01 then
    (if f.testBit 3 then [(33, 38)] else []) ++ (if f.testBit 4 then [(34, 39)] else [])
  else []

/-- A descriptor with its widenable codes replaced; a zero point that goes from 4 to 8 bits is multiplied by 16. -/
def widenDesc (d : List Byte) : List Byte :=
  (widenFields d).foldl (fun x f =>
    match widerFmt (leAt x f.1 1) with
    | some w =>
      let y := splice x f.1 (leBytes 1 w)
      if leAt x f.1 1 = 0x0B then splice y f.2 (leBytes 1 (leAt x f.2 1 * 16)) else y
    | none => x) d

/-- The tasks of a RETRY task's scope, in admission order. -/
def scopeOf (s : State) (seq : Nat) : List Task := s.led.tasks.filter fun t => t.scope = some seq

/-- The codes of every widenable field of a scope, in the order of R142. -/
def scopeCodes (ts : List Task) : List Nat := ts.flatMap fun t => (widenFields t.desc).map fun f => leAt t.desc f.1 1

/-- The slots a RETRY task names. -/
def retrySlots (d : List Byte) : List Nat := (List.range (leAt d 34 1)).map fun k => leAt d (48 + 2 * k) 2

/-- Re-admits a task of a scope in the attempt that follows (R142 step 4, R316): widened, its delay released, its outcome
forgotten; its place, its names and its log entry stay. -/
def readmit (t0 : Task) (s : State) : State :=
  match taskOf s t0.seq with
  | none => s
  | some t =>
    let s0 := bump64 s (unitLG (quarterOf t)) 0x138 1
    let r := admissionEnd s0 t.seq t.ring t.desc
    let t1 : Task := { t with
      desc := widenDesc t.desc, place := .waiting, ending := none, released := false, delay := none, summary := none
      pin := none, attempt := t.attempt + 1 }
    let p := pinTable r.1 t1
    let s1 := setTask p.1 p.2
    match r.2 with
    | some e => endTask s1 p.2 e
    | none => s1

/-- A WIDEN record (R326). -/
def widenRecord (s : State) (t : Task) (attempt old new metric : Nat) : List Byte :=
  leBytes 4 (dTaskId t.desc) ++ leBytes 1 2 ++ leBytes 1 0 ++ leBytes 1 attempt ++ leBytes 1 old ++ leBytes 1 new ++
    leBytes 1 (leAt t.desc 33 1) ++ leBytes 1 (quarterOf t) ++ leBytes 1 0xFF ++ leBytes 6 (openEpoch s) ++
    leBytes 2 (leAt t.desc 36 2) ++ leBytes 4 metric ++ slice t.desc 40 4 ++ zeros 4

/-- A RETRY task is evaluated when the last task of its scope has completed (R142): its scope is released, or every task
of it is re-admitted widened. -/
def evalRetry (s : State) (seq : Nat) (u : UnitId) (agree : Bool) : State :=
  match ledgerTask s seq 3 with
  | none => s
  | some t =>
    let ts := scopeOf s seq
    if !(ts.all fun x => x.ending.isSome) || !mayEvaluate s (quarterOf t) u then s
    else if !agree then pairFails s u 16 0x04
    else
      let s0 := bump s u 0x100 63 32 1
      let ms := (retrySlots t.desc).map (metricOf s (leAt t.desc 33 1 = 1))
      let above := ms.any fun m => exceeds m (numOf32 (leAt t.desc 40 4))
      let codes := scopeCodes ts
      if !above then settle (endTask s0 t { verdict := .ok })
      else if codes.isEmpty || codes.any (fun c => (widerFmt c).isNone) || decide (2 ≤ t.attempt) then
        settle (endTask s0 t { verdict := .ok, atWidest := true })
      else
        let s1 := foldOver (fun n r => setLive r n { slotOf r.tally.live n with w0 := 0, w1 := 0, w2 := 0 }) (retrySlots t.desc)
          (bump64 s0 u 0x110 1)
        let worst := metricBits (ms.tail.foldl maxMetric (ms.headD none))
        let old := codes.headD 0
        let s2 := queueRecord s1 (quarterOf t) t.ring
          (widenRecord s t (t.attempt + 1) old ((widerFmt old).getD old) worst)
        settle (foldOver readmit ts (setTask s2 { t with attempt := t.attempt + 1 }))

/-! ### Meanings -/

/-- COND (R314). -/
def execCond (seq cc : Nat) (agree : Bool) (s : State) : Host.Outcome State Fault Refusal :=
  .next (evalCond s seq (unitCC cc) agree)

/-- RETRY (R142). -/
def execRetry (seq cc : Nat) (agree : Bool) (s : State) : Host.Outcome State Fault Refusal :=
  .next (evalRetry s seq (unitCC cc) agree)

/-- CC_WATCHDOG (R334): the firmware watchdog of a pair that serves expires. -/
def execCcWatchdog (cc : Nat) (s : State) : Host.Outcome State Fault Refusal :=
  .next (if usable s (unitCC cc) then pairFails s (unitCC cc) 17 0x05 else s)

end Sys2Proof.Machine
end

