-- ==== Sys2Proof/Machine/Merge.lean ====
section
/-! DEFINITION. The merge engines (R221 to R231): keyed records summed on the dense path at a scratchpad bank, or on the
merge path through chunks and runs into a CSR operand. -/

namespace Sys2Proof.Machine

open Sys2Proof

/-! ### Descriptor fields (R224) -/

def meElems (d : List Byte) : Nat := leAt d 36 2
def meStreams (d : List Byte) : Nat := leAt d 38 2
def meRows (d : List Byte) : Nat := leAt d 40 4
def meCols (d : List Byte) : Nat := leAt d 44 4
def meKeyLo (d : List Byte) : Nat := leAt d 56 8
def meKeyHi (d : List Byte) : Nat := if leAt d 64 8 = 0 then 2 ^ 64 else leAt d 64 8
def meFloat (d : List Byte) : Bool := leAt d 33 1 = 0x00

/-- Bytes of a record: its key and its value (R227). -/
def meRecord (d : List Byte) : Nat := 8 + 4 * meElems d

/-- The dense path is taken (R226). -/
def meDense (s : State) (d : List Byte) : Bool :=
  !(leAt d 35 1).testBit 1 && decide (meRows d * meCols d * meElems d ≤ 16384) && inScratchpad s (leAt d 72 8) 1

/-! ### Checks (R231) -/

/-- Faults of the descriptor itself. -/
def meFaults (s : State) (d : List Byte) : List DescFault :=
  let dense := meDense s d
  let val := leAt d 33 1
  let out := leAt d 34 1
  faultIf (val ≠ 0x00 && val ≠ 0x0C) 0x02 33 ++
  faultIf (if dense then out ≠ val else (out ≠ 0x00 && out ≠ 0x01 && out ≠ 0x0C) || (out = 0x0C && val = 0x00)) 0x02 34 ++
  faultIf (decide (meElems d < 1 ∨ 256 < meElems d)) 0x07 36 ++
  faultIf (decide (meStreams d < 1 ∨ 32 < meStreams d)) 0x07 38 ++
  faultIf (meRows d = 0) 0x07 40 ++ faultIf (meCols d = 0) 0x07 44 ++
  alignFaults d [(48, 8), (72, 8), (112, 4)] ++
  (if dense then [] else alignFaults d [(80, 8), (88, 8), (96, 8)]) ++
  faultIf (dense && decide (leAt d 112 4 < meCols d * meElems d * 4)) 0x05 112 ++
  tileFaults d ([48, 72] ++ if dense then [] else [80, 88, 96])

/-- A stream of the table (R223). -/
structure Stream where
  keys : Nat
  vals : Nat
  count : Nat
  deriving DecidableEq, Repr

/-- The streams of a table read from memory. -/
def streamsOf (bytes : List Byte) (n : Nat) : List Stream :=
  (List.range n).map fun k => ⟨leAt bytes (32 * k) 8, leAt bytes (32 * k + 8) 8, leAt bytes (32 * k + 16) 8⟩

/-- Faults of the stream table, and the spill check of R227. -/
def streamFaults (s : State) (d : List Byte) (ss : List Stream) : List DescFault :=
  faultIf (ss.any fun x => x.keys % 64 ≠ 0 || x.vals % 64 ≠ 0) 0x04 48 ++
  faultIf (ss.any fun x => decide (2 ^ 40 < x.count)) 0x07 48 ++
  faultIf (ss.any fun x => isTileForm x.keys || isTileForm x.vals) 0x09 48 ++
  faultIf (!meDense s d && decide (leAt d 104 8 < 2 * (ss.foldl (fun n x => n + x.count) 0) * meRecord d)) 0x0B 104

/-! ### Records -/

/-- A record: its key and its elements, an FP32 element as its code and an INT32 element as its value. -/
structure Keyed where
  key : Nat
  vals : List Int
  deriving DecidableEq, Repr

/-- Reads the records of the streams, in stream order. -/
def readRecords (u : UnitId) (t : Task) : List Stream → State → State × List Keyed
  | [], s => (s, [])
  | x :: xs, s =>
    let n := meElems t.desc
    let k := engineLoad s u (partOf t) x.keys (8 * x.count)
    let v := engineLoad k.1 u (partOf t) x.vals (4 * n * x.count)
    let here := (List.range x.count).map fun i =>
      (⟨leAt k.2 (8 * i) 8, (List.range n).map fun e =>
        let c := leAt v.2 (4 * (n * i + e)) 4
        if meFloat t.desc then (c : Int) else signedOf 32 c⟩ : Keyed)
    let rest := readRecords u t xs v.1
    (rest.1, here ++ rest.2)

/-- A record is taken: its key lies in the task's range (R225). -/
def taken (d : List Byte) (r : Keyed) : Bool := decide (meKeyLo d ≤ r.key ∧ r.key < meKeyHi d)

/-- A taken record lies in the output (R225). -/
def inOutput (d : List Byte) (r : Keyed) : Bool :=
  let row0 := meKeyLo d / 2 ^ 32
  decide (row0 ≤ r.key / 2 ^ 32 ∧ r.key / 2 ^ 32 < row0 + meRows d ∧ r.key % 2 ^ 32 < meCols d)

/-- Records in the order in which their reads are answered: those named first, then the rest in stream order. -/
def answerOrder (order : List Nat) (rs : List Keyed) : List Keyed :=
  let named := order.eraseDups.filter fun k => decide (k < rs.length)
  (named ++ (List.range rs.length).filter fun k => !named.contains k).filterMap fun k => rs[k]?

/-! ### The dense path (R226) -/

/-- Adds every record into the tile (R36): the state and the flags. -/
def denseAdd (u : UnitId) (t : Task) : List Keyed → State → State × Nat
  | [], s => (s, 0)
  | r :: rs, s =>
    let d := t.desc
    let addr := leAt d 72 8 + (r.key / 2 ^ 32 - meKeyLo d / 2 ^ 32) * leAt d 112 4 + r.key % 2 ^ 32 * meElems d * 4
    let x := accumulateRow s u addr (meFloat d) (r.vals.map (unsignedOf 32))
    let rest := denseAdd u t rs x.1
    (rest.1, x.2 ||| rest.2)

/-! ### The merge path (R227) -/

/-- A run: sums by rising key, and the flags of its additions. -/
structure MergeRun where
  sums : Table (List Int)
  flags : Nat
  deriving DecidableEq, Repr

/-- The sum of two values of a key, element by element, with its flags (R225). -/
def addVals (float : Bool) (a b : List Int) : List Int × Nat :=
  if float then
    let r := (a.zip b).map fun p => fadd32 p.1.toNat p.2.toNat
    (r.map fun p => (p.1 : Int), r.foldl (fun f p => f ||| p.2) 0)
  else ((a.zip b).map fun p => p.1 + p.2, 0)

/-- Puts one record into a run. -/
def intoRun (float : Bool) (run : MergeRun) (key : Nat) (vals : List Int) : MergeRun :=
  match tblFind run.sums key with
  | some old =>
    let r := addVals float old vals
    ⟨tblInsert run.sums key r.1, run.flags ||| r.2⟩
  | none => ⟨tblInsert run.sums key vals, run.flags⟩

/-- A chunk sorted into a run, equal keys summed in arrival order (R227 step 2). -/
def chunkRun (float : Bool) (rs : List Keyed) : MergeRun := rs.foldl (fun m r => intoRun float m r.key r.vals) ⟨[], 0⟩

/-- Runs merged into one, equal keys summed in run order (R227 step 3). -/
def mergeRuns (float : Bool) (ms : List MergeRun) : MergeRun :=
  ms.foldl (fun m x => x.sums.foldl (fun m' e => intoRun float m' e.1 e.2) { m with flags := m.flags ||| x.flags }) ⟨[], 0⟩

/-- Consecutive groups of at most `n`, for at most `fuel` groups. -/
def groupsOf {α : Type} (n : Nat) : Nat → List α → List (List α)
  | 0, _ => []
  | f + 1, l => if l.isEmpty then [] else l.take n :: groupsOf n f (l.drop n)

/-- Passes of up to 32 runs until one is left. -/
def mergePasses (float : Bool) : Nat → List MergeRun → MergeRun
  | 0, ms => mergeRuns float ms
  | f + 1, ms =>
    match ms with
    | [] => ⟨[], 0⟩
    | [m] => m
    | _ => mergePasses float f ((groupsOf 32 ms.length ms).map (mergeRuns float))

/-- A sum converted to OUT_FMT: its bytes and its flags (R225). -/
def mergeOut (d : List Byte) (v : Int) : List Byte × Nat :=
  let sat := (leAt d 35 1).testBit 0
  match meFloat d, leAt d 34 1 with
  | true, 0x01 => let r := roundTo bf16 sat (numOf32 v.toNat); (leBytes 2 r.1, r.2)
  | true, _ => (leBytes 4 v.toNat, 0)
  | false, 0x01 => let r := roundTo bf16 sat (.ofInt v 0); (leBytes 2 r.1, r.2)
  | false, 0x00 => let r := to32 (.ofInt v 0); (leBytes 4 r.1, r.2)
  | false, _ =>
    let c := max (-(2 ^ 31)) (min (2 ^ 31 - 1) v)
    (leBytes 4 (unsignedOf 32 c), flagIf (c ≠ v) flagOverflow)

/-- The row pointers of the output (R218, R227 step 4). -/
def rowPointers (d : List Byte) (keys : List Nat) : List Byte :=
  (List.range (meRows d + 1)).flatMap fun i =>
    leBytes 8 ((keys.filter fun k => decide (k / 2 ^ 32 < meKeyLo d / 2 ^ 32 + i)).length)

/-- Counts the records of a task in its page and its tally slot. -/
def countRecords (s : State) (u : UnitId) (d : List Byte) (takenN written dropped : Nat) : State :=
  let s1 := bump64 (bump64 s u 0x108 takenN) u 0x118 dropped
  engineTally s1 (leAt d 120 2) 2 takenN ⟨written, 0⟩ ⟨dropped, 0⟩ 0

/-- REDUCE of a task whose checks have passed. -/
def reduceRecords (u : UnitId) (t : Task) (order : List Nat) (all : List Keyed) (rmax : Nat) (s : State) : State :=
  let d := t.desc
  let tk := (answerOrder order all).filter (taken d)
  let rs := tk.filter (inOutput d)
  let dropped := tk.length - rs.length
  if meDense s d then
    let r := denseAdd u t rs s
    let s1 := bump (countRecords r.1 u d tk.length rs.length dropped) u 0x120 31 0 1
    finishFront s1 u { verdict := .ok, detail := 1, flags := r.2 }
  else
    let c := 3145728 / meRecord d
    let runs := (groupsOf c (rs.length + 1) rs).map (chunkRun (meFloat d))
    let m := mergePasses (meFloat d) 16 runs
    let s0 := if runs.length ≤ 1 then s
      else engineStore s u (partOf t) (leAt d 96 8) ((List.range (2 * rmax * meRecord d)).map fun k =>
        Config.freeByte (s.freeCtr + k))
    let kept := m.sums.take (leAt d 116 4)
    let outs := kept.map fun e => e.2.map (mergeOut d)
    let flags := outs.foldl (fun f o => o.foldl (fun g x => g ||| x.2) f) m.flags
    let s1 := engineStore s0 u (partOf t) (leAt d 80 8) (kept.flatMap fun e => leBytes 4 e.1)
    let s2 := engineStore s1 u (partOf t) (leAt d 88 8) (outs.flatMap fun o => o.flatMap (·.1))
    let s3 := bump (bump64 (countRecords s2 u d tk.length kept.length dropped) u 0x110 kept.length) u 0x120 63 32 1
    let s4 := { s3 with freeCtr := s3.freeCtr + 2 * rmax * meRecord d }
    if kept.length < m.sums.length then
      finishBad (setReg s4 u 0x128 (BitVec.ofNat 64 m.sums.length)) u 0x0B 116 flags
    else
      finishFront (engineStore s4 u (partOf t) (leAt d 72 8) (rowPointers d (m.sums.map (·.1)))) u
        { verdict := .ok, detail := 2, flags := flags }

/-- REDUCE (R225 to R228): reads its table, checks it, and sums its records. -/
def reduceRun (u : UnitId) (order : List Nat) (t : Task) (s : State) : State :=
  let d := t.desc
  let n := if 32 < meStreams d then 0 else meStreams d
  let tb := engineLoad s u (partOf t) (leAt d 48 8) (32 * n)
  let ss := streamsOf tb.2 n
  match chooseFault (meFaults s d ++ streamFaults s d ss) with
  | some f => finishBad tb.1 u f.status f.detail 0
  | none =>
    let r := readRecords u t ss tb.1
    if r.1.rem.wait then r.1
    else reduceRecords u t order r.2 (ss.foldl (fun n x => n + x.count) 0) r.1

/-- REDUCE (R225); a merge task of an undefined OP ends here with OPCODE (R562). -/
def execReduce (engine : Nat) (order : List Nat) (s : State) : Host.Outcome State Fault Refusal :=
  let u := unitME engine
  .next (runFront (undefinedOp s u [0x01]) u 0x01 (fun _ => []) (reduceRun u order))

end Sys2Proof.Machine
end

