-- ==== Sys2Proof/Machine/VectorEngine.lean ====
section
/-! DEFINITION. The vector engines (R253 to R296): the check of a task, its slots and its program, memory instructions,
accumulator tiles, the program's run instruction by instruction, its summary, and how it ends. -/

namespace Sys2Proof.Machine

open Sys2Proof

/-! ### Descriptor and slots (R259, R260) -/

def veFlag (d : List Byte) (k : Nat) : Bool := (leAt d 33 1).testBit k
def veAcc (d : List Byte) : Bool := veFlag d 0
def veTwo (d : List Byte) : Bool := veAcc d && veFlag d 1
def veLen (d : List Byte) : Nat := leAt d 36 2
def veIters (d : List Byte) : Nat := leAt d 40 4

/-- The source task an iteration names, by its place, and the tile of it (R281). -/
def veSource (d : List Byte) (n : Nat) : Nat × Nat :=
  if veTwo d then (n % 2, n / 2) else (0, n)

/-- A source's task identifier. -/
def veSourceId (d : List Byte) (k : Nat) : Nat := leAt d (44 + 4 * k) 4

/-- A slot entry. -/
def slotAt (bs : List Byte) (k : Nat) : Slot :=
  ⟨leAt bs (32 * k) 8, leAt bs (32 * k + 8) 8, signedOf 64 (leAt bs (32 * k + 16) 8), signedOf 64 (leAt bs (32 * k + 24) 8)⟩

/-- Where a slot's window starts in an iteration (R260); FLAGS TWO_SRC alone decides the form. -/
def windowAt (d : List Byte) (sl : Slot) (n : Nat) : Nat :=
  if veFlag d 1 then unsignedOf 64 ((sl.base : Int) + (n / 2 : Nat) * sl.step + (n % 2 : Nat) * sl.alt)
  else unsignedOf 64 ((sl.base : Int) + n * sl.step)

/-- The iterations whose windows bound a moving window: the first two and the last two. -/
def endIters (n : Nat) : List Nat := [0, min 1 (n - 1), n - 2, n - 1]

/-- A window of a tile's local memory that a slot may not name (R258). -/
def slotForbidden (s : State) (u : UnitId) (a n : Nat) : Bool :=
  isTileForm a &&
    !(ownTile u a &&
      (decide (0x080000 ≤ natField a 21 0 ∧ natField a 21 0 + n ≤ 0x400000) ||
        (behaviourLevel s = 2 && decide (0x010000 ≤ natField a 21 0 ∧ natField a 21 0 + n ≤ 0x050000))))

/-- Faults of the descriptor and the slot table (R259, R260, R286). -/
def veFaults (s : State) (u : UnitId) (d : List Byte) (slots : List Slot) : List DescFault :=
  let used := slots.filter fun sl => sl.window ≠ 0
  alignFaults d [(56, 8), (64, 8), (72, 8)] ++
  faultIf (used.any fun sl => sl.base % 64 ≠ 0 || sl.step % 64 ≠ 0 || (veFlag d 1 && sl.alt % 64 ≠ 0)) 0x04 64 ++
  faultIf (decide (leAt d 34 2 < 1 ∨ 256 < leAt d 34 2)) 0x07 34 ++
  faultIf (decide (veLen d < 1 ∨ 4096 < veLen d)) 0x07 36 ++
  faultIf (veIters d = 0) 0x07 40 ++
  faultIf (used.any fun sl => (endIters (veIters d)).any fun n => slotForbidden s u (windowAt d sl n) sl.window) 0x09 64 ++
  faultIf (veAcc d && getF s u 0x100 0 0 = 0) 0x0C 33

/-- A STXADD whose slot is not in a scratchpad bank (R269). -/
def addSlotBad (s : State) (d : List Byte) (slots : List Slot) (w : Nat) : Bool :=
  vOpc w = 0x14 &&
    match slots[vSlot w]? with
    | some sl => sl.window ≠ 0 && (endIters (veIters d)).any fun n => !inScratchpad s (windowAt d sl n) sl.window
    | none => false

/-! ### The work of a vector task -/

/-- The vector task of an engine, if one has started. -/
def veRunOf (s : State) (u : UnitId) : Option VeRun :=
  match (engOf s u).work with
  | .ve r => some r
  | _ => none

/-- Writes it. -/
def setVeRun (s : State) (u : UnitId) (r : VeRun) : State := setEng s u { engOf s u with work := .ve r }

/-- The till that holds the front task. -/
def frontTill (s : State) (u : UnitId) : Nat :=
  let e := engOf s u
  ((e.till.find? fun x => e.tills.head? = some x.1).map fun x => x.2).getD 0

/-- Loads the program into the till's store, unless PROG_REUSE finds it there (R259). -/
def loadProgram (s : State) (u : UnitId) (t : Task) : State × List Nat :=
  let d := t.desc
  let till := frontTill s u
  let key := (till, leAt d 56 8, veLen d)
  let s1 :=
    if veFlag d 2 && (engOf s u).programs.contains key then s
    else
      let r := engineLoad s u (partOf t) (leAt d 56 8) (8 * veLen d)
      let s2 := tileWrite r.1 u (till * 0x8000) r.2
      setEng s2 u { engOf s2 u with programs := key :: (engOf s2 u).programs.filter fun x => x.1 ≠ till }
  let bs := tileRead s1 u (till * 0x8000) (8 * veLen d)
  (s1, (List.range (veLen d)).map fun k => leAt bs (8 * k) 8)

/-- The summary record (R290). -/
def summaryRecord (m : Summary) (status iters : Nat) : List Byte :=
  (m.words.map (leBytes 4)).flatten ++ leBytes 2 m.valid ++ leBytes 1 m.flags ++ leBytes 1 status ++ leBytes 4 iters ++ zeros 56

/-- A RUN task ends: its summary is formed, written where SUMMARY says, and handed to the ledger (R261, R290). -/
def veEnd (s : State) (u : UnitId) (t : Task) (r : VeRun) (status detail : Nat) : State :=
  let flags := r.flags.foldl (fun x y => x ||| y) 0 % 64
  let m : Summary := ⟨(List.range 16).map fun k => tblGet (fun _ => 0) r.words k, r.valid, flags⟩
  let s1 := if leAt t.desc 72 8 = 0 then s
    else engineStore s u (partOf t) (leAt t.desc 72 8) (summaryRecord m status r.iter)
  let s2 := setF (setEng s1 u { engOf s1 u with summary := some m }) u 0x18 20 20 0
  if status = 0 then finishOk s2 u flags else finishBad s2 u status detail flags

/-! ### Memory instructions (R268 to R270) -/

/-- Element size of a memory format. -/
def mfmtBytes (m : Nat) : Nat := if m = 0 ∨ m = 6 then 4 else if m = 1 ∨ m = 2 then 2 else 1

/-- The format code of R95 of a floating-point memory format. -/
def mfmtCode (m : Nat) : Nat := if m = 0 then 0x00 else m

/-- A lane from the bytes of its element. -/
def loadLane (m c : Nat) : Nat × Nat :=
  match m with
  | 0 => (c, 0)
  | 5 => (unsignedOf 32 (signedOf 8 c), 0)
  | 6 => (c, 0)
  | 7 => (c, 0)
  | _ => to32 (decodeElem (mfmtCode m) 0 c)

/-- An element's code from a lane. -/
def storeLane (m : Nat) (sat : Bool) (v : Nat) : Nat × Nat :=
  match m with
  | 0 => (v, 0)
  | 5 =>
    let x := max (-128) (min 127 (int32 v))
    (unsignedOf 8 x, flagIf (decide (x ≠ int32 v)) flagOverflow)
  | 6 => (v, 0)
  | 7 => (unsignedOf 8 (max 0 (min 255 (int32 v))), 0)
  | _ => encodeElem (mfmtCode m) 0 sat (numOf32 v)

/-- The offset of a lane's element inside its window: strided, or by the index register. -/
def laneOffset (r : VeRun) (w l : Nat) : Int :=
  let e := mfmtBytes (vMfmt w)
  if vOpc w = 0x10 ∨ vOpc w = 0x11 then 64 * (vOffset w : Int) + l * vEstride w * e
  else (vLane r (vVA w) l * e : Nat)

/-- Active lanes with the address of their elements; none where the element is not wholly inside the window. -/
def laneAddrs (d : List Byte) (r : VeRun) (w : Nat) : List (Nat × Option Nat) :=
  let e := mfmtBytes (vMfmt w)
  let sl := (r.slots[vSlot w]?).getD ⟨0, 0, 0, 0⟩
  let base := windowAt d sl r.iter
  (activeLanes r w).map fun l =>
    let o := laneOffset r w l
    (l, if 0 ≤ o ∧ o + e ≤ sl.window then some ((base + o.toNat) % 2 ^ 64) else none)

/-- Reads the distinct sectors of a list of addresses. -/
def readSectors (s : State) (u : UnitId) (part : Nat) (addrs : List Nat) : State × List (Nat × List Byte) :=
  let secs := (addrs.map fun a => a / 64 * 64).foldl (fun l a => if l.contains a then l else l ++ [a]) []
  secs.foldl (fun r a =>
    let x := engineLoad r.1 u part a 64
    (x.1, r.2 ++ [(a, x.2)])) (s, [])

/-- LD and LDX: an element outside the window reads 0 with RANGE. -/
def loadInstr (s : State) (u : UnitId) (t : Task) (r : VeRun) (w : Nat) : State × VeRun :=
  let e := mfmtBytes (vMfmt w)
  let lanes := laneAddrs t.desc r w
  let x := readSectors s u (partOf t) (lanes.filterMap fun y => y.2)
  let code (a : Nat) : Nat :=
    match x.2.find? fun y => y.1 = a / 64 * 64 with
    | some y => leAt y.2 (a % 64) e
    | none => 0
  (x.1, writeLanes r (vVD w) (lanes.map fun y =>
    match y.2 with
    | some a =>
      let v := loadLane (vMfmt w) (code a)
      (y.1, v.1, v.2)
    | none => (y.1, 0, flagRange)))

/-- Joins writes whose addresses follow one another. -/
def joinRuns : List (Nat × List Byte) → List (Nat × List Byte)
  | [] => []
  | (a, bs) :: rest =>
    match joinRuns rest with
    | (b, cs) :: more => if a + bs.length = b then (a, bs ++ cs) :: more else (a, bs) :: (b, cs) :: more
    | [] => [(a, bs)]

/-- ST and STX: an element outside the window is not written, with RANGE. -/
def storeInstr (s : State) (u : UnitId) (t : Task) (r : VeRun) (w : Nat) : State × VeRun :=
  let e := mfmtBytes (vMfmt w)
  let src := vReg r (vVD w)
  let outs := (laneAddrs t.desc r w).map fun y => (y.1, y.2, storeLane (vMfmt w) (vSat w) (src.getD y.1 0))
  let runs := joinRuns (outs.filterMap fun y => y.2.1.map fun a => (a, leBytes e y.2.2.1))
  let s1 := runs.foldl (fun x y => engineStore x u (partOf t) y.1 y.2) s
  (s1, flagLanes r (outs.map fun y => (y.1, if y.2.1.isSome then y.2.2.2 else flagRange)))

/-- STXADD: each lane's value joins its element under R36. -/
def opStxadd (s : State) (u : UnitId) (t : Task) (r : VeRun) (w : Nat) : State × VeRun :=
  let src := vReg r (vVD w)
  let x := (laneAddrs t.desc r w).foldl (fun (q : State × List (Nat × Nat)) y =>
    match y.2 with
    | some a =>
      let z := accumulateRow q.1 u a (vMfmt w = 0) [src.getD y.1 0]
      (z.1, q.2 ++ [(y.1, z.2)])
    | none => (q.1, q.2 ++ [(y.1, flagRange)])) (s, [])
  (x.1, flagLanes r x.2)

def opLd (s : State) (u : UnitId) (t : Task) (r : VeRun) (w : Nat) : State × VeRun := loadInstr s u t r w
def opLdx (s : State) (u : UnitId) (t : Task) (r : VeRun) (w : Nat) : State × VeRun := loadInstr s u t r w
def opSt (s : State) (u : UnitId) (t : Task) (r : VeRun) (w : Nat) : State × VeRun := storeInstr s u t r w
def opStx (s : State) (u : UnitId) (t : Task) (r : VeRun) (w : Nat) : State × VeRun := storeInstr s u t r w

/-! ### Accumulator tiles (R281 to R284) -/

/-- The two arrays coupled to a vector engine (R23). -/
def coupledArrays (u : UnitId) : List Nat := [2 * globalOf u, 2 * globalOf u + 1]

/-- The coupled array whose next tile is of a source task. -/
def headOf (s : State) (u : UnitId) (id : Nat) (p : Tile → Bool) : Option (Nat × Tile) :=
  (coupledArrays u).findSome? fun n =>
    match tilesOf s n with
    | x :: _ => if x.task = id && p x then some (n, x) else none
    | [] => none

/-- Releases the head tile of an array: it counts in VE TILES (R283, R296). -/
def veRelease (s : State) (u : UnitId) (n : Nat) : State := bump64 (releaseTile s n) u 0x128 1

/-- The index of a program's last ACCRD (R283). -/
def lastAccrd (prog : List Nat) : Option Nat :=
  ((prog.zipIdx).filter fun x => vOpc x.1 = 0x15).getLast?.map fun x => x.2

/-- ACCRD: a pair of rows of the bound tile; the last one of the program releases the tile (R282, R283). -/
def opAccrd (s : State) (u : UnitId) (_t : Task) (r : VeRun) (w : Nat) : State × VeRun :=
  match r.bound with
  | none => (s, writeLanes r (vVD w) ((activeLanes r w).map fun l => (l, 0, 0)))
  | some n =>
    let vals := ((tilesOf s n).head?.map fun x => x.vals).getD []
    let p := vOffset w % 64
    let r1 := writeLanes r (vVD w) ((activeLanes r w).map fun l =>
      (l, (vals.getD (2 * p + l / 128) []).getD (l % 128) 0, 0))
    if lastAccrd r.prog = some r.pc then (veRelease s u n, { r1 with bound := none }) else (s, r1)

/-! ### Reductions (R276) -/

/-- RED issues: its result is on its way to VD. -/
def opRed (s : State) (_u : UnitId) (_t : Task) (r : VeRun) (w : Nat) : State × VeRun :=
  (s, { r with reds := r.reds ++ [⟨vVD w, redLanes r w⟩] })

/-- The oldest reduction result is written. -/
def landRed (r : VeRun) : VeRun :=
  match r.reds with
  | [] => r
  | x :: rest => { (writeLanes r x.reg x.lanes) with reds := rest }

/-- Every reduction result is written, oldest first. -/
def landReds (r : VeRun) : VeRun := iter (fun _ x => landRed x) r.reds.length r

/-- Registers an instruction reads or writes, and FLAGRD the flags: it waits for a reduction into one of them (R262). -/
def waitsForRed (r : VeRun) (w : Nat) : Bool :=
  let op := vOpc w
  r.reds.any fun x =>
    op = 0x04 || op = 0x05 || x.reg = vVD w || x.reg = vVA w || (!vIsM w && (x.reg = vVB w || x.reg = vVC w)) ||
      (vMasked w && x.reg = vVM w)

/-! ### Instructions -/

/-- The form every instruction has here. -/
abbrev InstrFn := State → UnitId → Task → VeRun → Nat → State × VeRun

/-- An instruction that only touches lanes. -/
def pureInstr (f : VeRun → Nat → VeRun) : InstrFn := fun s _ _ r w => (s, f r w)

/-- NOP (R266). -/
def opNop : VeRun → Nat → VeRun := fun r _ => r

/-- SETVL (R254). -/
def opSetvl : VeRun → Nat → VeRun := fun r w => { r with vl := vImm w }

/-- LDI (R266). -/
def opLdi : VeRun → Nat → VeRun := fun r w => writeLanes r (vVD w) ((activeLanes r w).map fun l => (l, vImm w, 0))

/-- LANEID (R266). -/
def opLaneid : VeRun → Nat → VeRun := fun r w => elementwise r w fun l => (l, 0)

/-- FLAGRD (R279, R280). -/
def opFlagrd : VeRun → Nat → VeRun := fun r w => elementwise r w fun l => (r.flags.getD l 0 % 64, 0)

/-- SUMM (R289). -/
def opSumm : VeRun → Nat → VeRun := summUpdate

/-- FADD (R267). -/
def opFadd : VeRun → Nat → VeRun := lane2 fadd32

/-- FSUB (R267). -/
def opFsub : VeRun → Nat → VeRun := lane2 fsub32

/-- FMUL (R267). -/
def opFmul : VeRun → Nat → VeRun := lane2 fmul32

/-- FMA (R267). -/
def opFma : VeRun → Nat → VeRun := lane3 fma32

/-- FMIN (R267). -/
def opFmin : VeRun → Nat → VeRun := lane2 (fminmax false)

/-- FMAX (R267). -/
def opFmax : VeRun → Nat → VeRun := lane2 (fminmax true)

/-- FABS (R266, R98). -/
def opFabs : VeRun → Nat → VeRun := lane1 (fsign ExactNum.abs)

/-- FNEG (R266, R98). -/
def opFneg : VeRun → Nat → VeRun := lane1 (fsign ExactNum.neg)

/-- FDIV (R118, R266). -/
def opFdiv : VeRun → Nat → VeRun := lane2 fun a b => divTo fp32 (numOf32 a) (numOf32 b)

/-- FSQRT (R118, R266). -/
def opFsqrt : VeRun → Nat → VeRun := lane1 fun a => sqrtTo fp32 (numOf32 a)

/-- FCMP (R267). -/
def opFcmp : VeRun → Nat → VeRun := fun r w => lane2 (fcmpLane (vFunc w)) r w

/-- SEL (R266). -/
def opSel : VeRun → Nat → VeRun := lane3 fun a b c => (if c ≠ 0 then a else b, 0)

/-- EXP (R119). -/
def opExp : VeRun → Nat → VeRun := lane1 (approx 0x30)

/-- EXP2 (R119). -/
def opExp2 : VeRun → Nat → VeRun := lane1 (approx 0x31)

/-- LOG (R119). -/
def opLog : VeRun → Nat → VeRun := lane1 (approx 0x32)

/-- LOG2 (R119). -/
def opLog2 : VeRun → Nat → VeRun := lane1 (approx 0x33)

/-- RCP (R119). -/
def opRcp : VeRun → Nat → VeRun := lane1 (approx 0x34)

/-- RSQRT (R119). -/
def opRsqrt : VeRun → Nat → VeRun := lane1 (approx 0x35)

/-- TANH (R119). -/
def opTanh : VeRun → Nat → VeRun := lane1 (approx 0x36)

/-- SIGMOID (R119). -/
def opSigmoid : VeRun → Nat → VeRun := lane1 (approx 0x37)

/-- ERF (R119). -/
def opErf : VeRun → Nat → VeRun := lane1 (approx 0x38)

/-- IADD (R267). -/
def opIadd : VeRun → Nat → VeRun := lane2 fun a b => wrap32 (int32 a + int32 b)

/-- ISUB (R267). -/
def opIsub : VeRun → Nat → VeRun := lane2 fun a b => wrap32 (int32 a - int32 b)

/-- IMUL (R267). -/
def opImul : VeRun → Nat → VeRun := lane2 fun a b => wrap32 (int32 a * int32 b)

/-- IMIN (R266). -/
def opImin : VeRun → Nat → VeRun := lane2 fun a b => (if int32 a ≤ int32 b then a else b, 0)

/-- IMAX (R266). -/
def opImax : VeRun → Nat → VeRun := lane2 fun a b => (if int32 a ≤ int32 b then b else a, 0)

/-- AND (R266). -/
def opAnd : VeRun → Nat → VeRun := lane2 fun a b => (a &&& b, 0)

/-- OR (R266). -/
def opOr : VeRun → Nat → VeRun := lane2 fun a b => (a ||| b, 0)

/-- XOR (R266). -/
def opXor : VeRun → Nat → VeRun := lane2 fun a b => (a ^^^ b, 0)

/-- SHL (R266). -/
def opShl : VeRun → Nat → VeRun := lane2 fun a b => (a * 2 ^ (b % 32), 0)

/-- SHR (R266). -/
def opShr : VeRun → Nat → VeRun := lane2 fun a b => (a / 2 ^ (b % 32), 0)

/-- SRA (R266). -/
def opSra : VeRun → Nat → VeRun := lane2 fun a b => (unsignedOf 32 (int32 a / (2 ^ (b % 32) : Nat)), 0)

/-- ICMP (R266). -/
def opIcmp : VeRun → Nat → VeRun := fun r w => lane2 (icmpLane (vFunc w)) r w

/-- CVTFI (R267). -/
def opCvtfi : VeRun → Nat → VeRun := fun r w => lane1 (cvtfiLane (vFmt w)) r w

/-- CVTIF (R267). -/
def opCvtif : VeRun → Nat → VeRun := lane1 fun a => to32 (.ofInt (int32 a) 0)

/-- QNT (R267). -/
def opQnt : VeRun → Nat → VeRun := fun r w => lane1 (qntLane (vFmt w) (vFunc w % 2 = 1)) r w

/-- PERM (R271). -/
def opPerm : VeRun → Nat → VeRun := permLanes

/-- CMPRS (R271). -/
def opCmprs : VeRun → Nat → VeRun := packLanes

/-- EXPND (R271). -/
def opExpnd : VeRun → Nat → VeRun := unpackLanes

/-- SCAN (R273). -/
def opScan : VeRun → Nat → VeRun := scanLanes

/-- SMAX (R277, R278). -/
def opSmax : VeRun → Nat → VeRun := smaxLanes

/-- The instruction of an opcode. -/
def instrOf (op : Nat) : InstrFn :=
  match op with
  | 0x00 => pureInstr opNop
  | 0x01 => pureInstr opSetvl
  | 0x02 => pureInstr opLdi
  | 0x03 => pureInstr opLaneid
  | 0x04 => pureInstr opFlagrd
  | 0x05 => pureInstr opSumm
  | 0x10 => opLd
  | 0x11 => opSt
  | 0x12 => opLdx
  | 0x13 => opStx
  | 0x14 => opStxadd
  | 0x15 => opAccrd
  | 0x20 => pureInstr opFadd
  | 0x21 => pureInstr opFsub
  | 0x22 => pureInstr opFmul
  | 0x23 => pureInstr opFma
  | 0x24 => pureInstr opFmin
  | 0x25 => pureInstr opFmax
  | 0x26 => pureInstr opFabs
  | 0x27 => pureInstr opFneg
  | 0x28 => pureInstr opFdiv
  | 0x29 => pureInstr opFsqrt
  | 0x2A => pureInstr opFcmp
  | 0x2B => pureInstr opSel
  | 0x30 => pureInstr opExp
  | 0x31 => pureInstr opExp2
  | 0x32 => pureInstr opLog
  | 0x33 => pureInstr opLog2
  | 0x34 => pureInstr opRcp
  | 0x35 => pureInstr opRsqrt
  | 0x36 => pureInstr opTanh
  | 0x37 => pureInstr opSigmoid
  | 0x38 => pureInstr opErf
  | 0x40 => pureInstr opIadd
  | 0x41 => pureInstr opIsub
  | 0x42 => pureInstr opImul
  | 0x43 => pureInstr opImin
  | 0x44 => pureInstr opImax
  | 0x45 => pureInstr opAnd
  | 0x46 => pureInstr opOr
  | 0x47 => pureInstr opXor
  | 0x48 => pureInstr opShl
  | 0x49 => pureInstr opShr
  | 0x4A => pureInstr opSra
  | 0x4B => pureInstr opIcmp
  | 0x50 => pureInstr opCvtfi
  | 0x51 => pureInstr opCvtif
  | 0x52 => pureInstr opQnt
  | 0x60 => pureInstr opPerm
  | 0x61 => pureInstr opCmprs
  | 0x62 => pureInstr opExpnd
  | 0x70 => pureInstr opScan
  | 0x80 => opRed
  | 0x90 => pureInstr opSmax
  | _ => pureInstr fun r _ => r

/-- Issues the next instruction of a program: its effect, the next index, INSTRUCTIONS and LANE_OPS (R262, R296). -/
def issue (s : State) (u : UnitId) (t : Task) (r : VeRun) (f : InstrFn) : State :=
  let w := r.prog.getD r.pc 0
  let x := f s u t r w
  let s1 := bump64 (bump64 x.1 u 0x118 1) u 0x120 (if vOpc w ≤ 1 then 0 else (activeLanes r w).length)
  setVeRun s1 u { x.2 with pc := r.pc + 1 }

/-! ### The course of a task (R257, R261, R281, R284) -/

/-- Starts a RUN task: its check, its program and its first state; a fault ends it with no output (R257, R261). -/
def veStart (s : State) (u : UnitId) (t : Task) : State :=
  let d := t.desc
  let a := engineLoad s u (partOf t) (leAt d 64 8) 256
  let slots := (List.range 8).map (slotAt a.2)
  let okLen := decide (1 ≤ veLen d ∧ veLen d ≤ 4096)
  let b := if okLen then loadProgram a.1 u t else (a.1, [])
  let faults := (veFaults b.1 u d slots).map fun x => (x, (none : Option Nat))
  let more := (b.2.mapIdx fun k w =>
    (instrFaults (veAcc d) k w ++ faultIf (addSlotBad b.1 d slots w) 0x09 64).map fun x =>
      (x, if x.status = 0x09 then none else some k)).flatten
  let key (x : DescFault × Option Nat) : Nat := (x.1.status * 2 ^ 16 + x.1.detail) * 2 ^ 16 + (x.2.map (· + 1)).getD 0
  match leastBy key (faults ++ more) with
  | some x =>
    let s1 := match x.2 with
      | some k => setF b.1 u 0x110 11 0 k
      | none => b.1
    finishBad s1 u x.1.status x.1.detail 0
  | none => setVeRun b.1 u { prog := b.2, flags := zeroLanes, vl := leAt d 34 2, slots := slots }

/-- The next tile of source k is taken: bound, or released at once. -/
def takeTile (r : VeRun) (k : Nat) (x : Tile) : VeRun :=
  { r with counts := tblSet (fun _ => 0) r.counts k x.count
           taken := tblSet (fun _ => 0) r.taken k (tblGet (fun _ => 0) r.taken k + 1) }

/-- Starts an iteration: it binds its tile where the task takes tiles (R281, R283, R284). It answers whether anything
happened. -/
def beginIter (s : State) (u : UnitId) (t : Task) (r : VeRun) : State × Bool :=
  let d := t.desc
  if !veAcc d then (setVeRun s u { r with begun := true, pc := 0 }, true)
  else
    let k := veSource d r.iter
    let count := tblGet (fun _ => 0) r.counts k.1
    if count ≠ 0 ∧ count ≤ k.2 then (veEnd s u t r 0x0B (r.iter % 256), true)
    else
      match headOf s u (veSourceId d k.1) fun x => x.marker.isSome || x.number = k.2 with
      | none => (setF s u 0x18 20 20 1, false)
      | some (n, x) =>
        match x.marker with
        | some st => (veEnd (setTiles s n ((tilesOf s n).drop 1)) u t r 0x0A st, true)
        | none =>
          let s1 := setF s u 0x18 20 20 0
          let r1 := { (takeTile r k.1 x) with begun := true, pc := 0 }
          if (lastAccrd r.prog).isSome then (setVeRun s1 u { r1 with bound := some n }, true)
          else (setVeRun (veRelease s1 u n) u r1, true)

/-- A source whose every tile has been taken. -/
def sourceDone (r : VeRun) (k : Nat) : Bool :=
  tblGet (fun _ => 0) r.counts k ≠ 0 && decide (tblGet (fun _ => 0) r.counts k ≤ tblGet (fun _ => 0) r.taken k)

/-- After the last iteration: tiles that remain of a source are discarded as they arrive, and the task then ends (R284). -/
def endIters_ (s : State) (u : UnitId) (t : Task) (r0 : VeRun) : State × Bool :=
  let d := t.desc
  let r := landReds r0
  let sources := if veAcc d then (if veTwo d then [0, 1] else [0]) else []
  match sources.find? fun k => !sourceDone r k with
  | none => (if r.dropped then veEnd s u t r 0x0B (veIters d % 256) else veEnd s u t r 0 0, true)
  | some k =>
    match headOf s u (veSourceId d k) fun _ => true with
    | none => (setF s u 0x18 20 20 1, false)
    | some (n, x) =>
      if x.marker.isSome then
        let c := max 1 (tblGet (fun _ => 0) r.taken k)
        (setVeRun (setTiles s n ((tilesOf s n).drop 1)) u
          { r with dropped := true, counts := tblSet (fun _ => 0) r.counts k c, taken := tblSet (fun _ => 0) r.taken k c }, true)
      else (setVeRun (veRelease s u n) u { (takeTile r k x) with dropped := true }, true)

/-- One step of a RUN task by itself: an iteration starts, an instruction issues, or the task ends. It answers whether
anything happened; an access that waits leaves everything as it was. -/
def veStep (s : State) (u : UnitId) : State × Bool :=
  match frontTask s u 1 with
  | none => (s, false)
  | some t =>
    match veRunOf s u with
    | none => (s, false)
    | some r =>
      let go (f : State → State × Bool) : State × Bool :=
        let s0 := { s with rem := { s.rem with wait := false, full := none } }
        let x := f s0
        if x.1.rem.wait then (noteWait (orWait s fun y => (f y).1) u x.1, false) else (setF x.1 u 0x18 19 18 0, x.2)
      if r.begun then
        if r.pc < r.prog.length then
          let w := r.prog.getD r.pc 0
          go fun x => (issue x u t (landReds r) (instrOf (vOpc w)), true)
        else (setVeRun s u { r with begun := false, iter := r.iter + 1 }, true)
      else if r.iter < veIters t.desc then go fun x => beginIter x u t r
      else go fun x => endIters_ x u t r

/-- Steps a task until it ends or waits. -/
def veLoop (u : UnitId) : Nat → State → State
  | 0, s => s
  | n + 1, s =>
    let x := veStep s u
    if x.2 then veLoop u n x.1 else x.1

/-- The most steps a task takes before it ends or waits. -/
def veFuel (s : State) (u : UnitId) : Nat :=
  match runningTask s u with
  | some t => (veIters t.desc + 1) * (veLen t.desc + 3) + 16
  | none => 0

/-- RUN: starts the engine's task, or takes it on, until it ends or waits (R261). -/
def runTask (s : State) (u : UnitId) : State :=
  match frontTask s u 1 with
  | none => s
  | some t =>
    let s1 := if (veRunOf s u).isSome then s else engineWork s u fun x => veStart x u t
    veLoop u (veFuel s1 u) s1

/-- One instruction by itself: the next of the program when it has this opcode and does not wait for a reduction. -/
def oneInstr (s : State) (ve op : Nat) (f : InstrFn) : State :=
  let u := unitVE ve
  match frontTask s u 1, veRunOf s u with
  | some t, some r =>
    let w := r.prog.getD r.pc 0
    if r.begun && decide (r.pc < r.prog.length) && vOpc w = op && !waitsForRed r w then
      engineWork s u fun x => issue x u t r f
    else s
  | _, _ => s

/-- The oldest reduction result of an engine is written (R276). -/
def redResult (s : State) (ve : Nat) : State :=
  let u := unitVE ve
  match frontTask s u 1, veRunOf s u with
  | some _, some r => if r.reds.isEmpty then s else setVeRun s u (landRed r)
  | _, _ => s

/-- An array hands its end marker; a vector task that waits for the array's next tile meets it at once (R284). -/
def endMarker (s : State) (n : Nat) : State :=
  let s1 := handMarker s n
  let u := unitVE (n / 2)
  match frontTask s1 u 1, veRunOf s1 u with
  | some t, some r =>
    if veAcc t.desc && !r.begun && decide (r.iter < veIters t.desc) &&
        (headOf s1 u (veSourceId t.desc (veSource t.desc r.iter).1) fun x => x.marker.isSome).isSome then
      engineWork s1 u fun x => (beginIter x u t r).1
    else s1
  | _, _ => s1

/-! ### Meanings -/

/-- RUN (R257 to R261, R281 to R286, R290, R292). -/
def execRun (ve : Nat) (s : State) : Host.Outcome State Fault Refusal :=
  .next (runTask (undefinedOp s (unitVE ve) [1, 2]) (unitVE ve))

/-- END_MARKER (R284). -/
def execEndMarker (ma : Nat) (s : State) : Host.Outcome State Fault Refusal := .next (endMarker s ma)

/-- RED_RESULT (R276). -/
def execRedResult (ve : Nat) (s : State) : Host.Outcome State Fault Refusal := .next (redResult s ve)

/-- NOP (R266): the next instruction of the program, where it is one. -/
def execNop (ve : Nat) (s : State) : Host.Outcome State Fault Refusal :=
  .next (oneInstr s ve 0x00 (pureInstr opNop))

/-- SETVL (R254): the next instruction of the program, where it is one. -/
def execSetvl (ve : Nat) (s : State) : Host.Outcome State Fault Refusal :=
  .next (oneInstr s ve 0x01 (pureInstr opSetvl))

/-- LDI (R266): the next instruction of the program, where it is one. -/
def execLdi (ve : Nat) (s : State) : Host.Outcome State Fault Refusal :=
  .next (oneInstr s ve 0x02 (pureInstr opLdi))

/-- LANEID (R266): the next instruction of the program, where it is one. -/
def execLaneid (ve : Nat) (s : State) : Host.Outcome State Fault Refusal :=
  .next (oneInstr s ve 0x03 (pureInstr opLaneid))

/-- FLAGRD (R279, R280): the next instruction of the program, where it is one. -/
def execFlagrd (ve : Nat) (s : State) : Host.Outcome State Fault Refusal :=
  .next (oneInstr s ve 0x04 (pureInstr opFlagrd))

/-- SUMM (R289): the next instruction of the program, where it is one. -/
def execSumm (ve : Nat) (s : State) : Host.Outcome State Fault Refusal :=
  .next (oneInstr s ve 0x05 (pureInstr opSumm))

/-- LD (R268 to R270): the next instruction of the program, where it is one. -/
def execLd (ve : Nat) (s : State) : Host.Outcome State Fault Refusal :=
  .next (oneInstr s ve 0x10 (opLd))

/-- ST (R268 to R270): the next instruction of the program, where it is one. -/
def execSt (ve : Nat) (s : State) : Host.Outcome State Fault Refusal :=
  .next (oneInstr s ve 0x11 (opSt))

/-- LDX (R268 to R270): the next instruction of the program, where it is one. -/
def execLdx (ve : Nat) (s : State) : Host.Outcome State Fault Refusal :=
  .next (oneInstr s ve 0x12 (opLdx))

/-- STX (R268 to R270): the next instruction of the program, where it is one. -/
def execStx (ve : Nat) (s : State) : Host.Outcome State Fault Refusal :=
  .next (oneInstr s ve 0x13 (opStx))

/-- STXADD (R269): the next instruction of the program, where it is one. -/
def execStxadd (ve : Nat) (s : State) : Host.Outcome State Fault Refusal :=
  .next (oneInstr s ve 0x14 (opStxadd))

/-- ACCRD (R282, R283): the next instruction of the program, where it is one. -/
def execAccrd (ve : Nat) (s : State) : Host.Outcome State Fault Refusal :=
  .next (oneInstr s ve 0x15 (opAccrd))

/-- FADD (R267): the next instruction of the program, where it is one. -/
def execFadd (ve : Nat) (s : State) : Host.Outcome State Fault Refusal :=
  .next (oneInstr s ve 0x20 (pureInstr opFadd))

/-- FSUB (R267): the next instruction of the program, where it is one. -/
def execFsub (ve : Nat) (s : State) : Host.Outcome State Fault Refusal :=
  .next (oneInstr s ve 0x21 (pureInstr opFsub))

/-- FMUL (R267): the next instruction of the program, where it is one. -/
def execFmul (ve : Nat) (s : State) : Host.Outcome State Fault Refusal :=
  .next (oneInstr s ve 0x22 (pureInstr opFmul))

/-- FMA (R267): the next instruction of the program, where it is one. -/
def execFma (ve : Nat) (s : State) : Host.Outcome State Fault Refusal :=
  .next (oneInstr s ve 0x23 (pureInstr opFma))

/-- FMIN (R267): the next instruction of the program, where it is one. -/
def execFmin (ve : Nat) (s : State) : Host.Outcome State Fault Refusal :=
  .next (oneInstr s ve 0x24 (pureInstr opFmin))

/-- FMAX (R267): the next instruction of the program, where it is one. -/
def execFmax (ve : Nat) (s : State) : Host.Outcome State Fault Refusal :=
  .next (oneInstr s ve 0x25 (pureInstr opFmax))

/-- FABS (R266, R98): the next instruction of the program, where it is one. -/
def execFabs (ve : Nat) (s : State) : Host.Outcome State Fault Refusal :=
  .next (oneInstr s ve 0x26 (pureInstr opFabs))

/-- FNEG (R266, R98): the next instruction of the program, where it is one. -/
def execFneg (ve : Nat) (s : State) : Host.Outcome State Fault Refusal :=
  .next (oneInstr s ve 0x27 (pureInstr opFneg))

/-- FDIV (R118, R266): the next instruction of the program, where it is one. -/
def execFdiv (ve : Nat) (s : State) : Host.Outcome State Fault Refusal :=
  .next (oneInstr s ve 0x28 (pureInstr opFdiv))

/-- FSQRT (R118, R266): the next instruction of the program, where it is one. -/
def execFsqrt (ve : Nat) (s : State) : Host.Outcome State Fault Refusal :=
  .next (oneInstr s ve 0x29 (pureInstr opFsqrt))

/-- FCMP (R267): the next instruction of the program, where it is one. -/
def execFcmp (ve : Nat) (s : State) : Host.Outcome State Fault Refusal :=
  .next (oneInstr s ve 0x2A (pureInstr opFcmp))

/-- SEL (R266): the next instruction of the program, where it is one. -/
def execSel (ve : Nat) (s : State) : Host.Outcome State Fault Refusal :=
  .next (oneInstr s ve 0x2B (pureInstr opSel))

/-- EXP (R119): the next instruction of the program, where it is one. -/
def execExp (ve : Nat) (s : State) : Host.Outcome State Fault Refusal :=
  .next (oneInstr s ve 0x30 (pureInstr opExp))

/-- EXP2 (R119): the next instruction of the program, where it is one. -/
def execExp2 (ve : Nat) (s : State) : Host.Outcome State Fault Refusal :=
  .next (oneInstr s ve 0x31 (pureInstr opExp2))

/-- LOG (R119): the next instruction of the program, where it is one. -/
def execLog (ve : Nat) (s : State) : Host.Outcome State Fault Refusal :=
  .next (oneInstr s ve 0x32 (pureInstr opLog))

/-- LOG2 (R119): the next instruction of the program, where it is one. -/
def execLog2 (ve : Nat) (s : State) : Host.Outcome State Fault Refusal :=
  .next (oneInstr s ve 0x33 (pureInstr opLog2))

/-- RCP (R119): the next instruction of the program, where it is one. -/
def execRcp (ve : Nat) (s : State) : Host.Outcome State Fault Refusal :=
  .next (oneInstr s ve 0x34 (pureInstr opRcp))

/-- RSQRT (R119): the next instruction of the program, where it is one. -/
def execRsqrt (ve : Nat) (s : State) : Host.Outcome State Fault Refusal :=
  .next (oneInstr s ve 0x35 (pureInstr opRsqrt))

/-- TANH (R119): the next instruction of the program, where it is one. -/
def execTanh (ve : Nat) (s : State) : Host.Outcome State Fault Refusal :=
  .next (oneInstr s ve 0x36 (pureInstr opTanh))

/-- SIGMOID (R119): the next instruction of the program, where it is one. -/
def execSigmoid (ve : Nat) (s : State) : Host.Outcome State Fault Refusal :=
  .next (oneInstr s ve 0x37 (pureInstr opSigmoid))

/-- ERF (R119): the next instruction of the program, where it is one. -/
def execErf (ve : Nat) (s : State) : Host.Outcome State Fault Refusal :=
  .next (oneInstr s ve 0x38 (pureInstr opErf))

/-- IADD (R267): the next instruction of the program, where it is one. -/
def execIadd (ve : Nat) (s : State) : Host.Outcome State Fault Refusal :=
  .next (oneInstr s ve 0x40 (pureInstr opIadd))

/-- ISUB (R267): the next instruction of the program, where it is one. -/
def execIsub (ve : Nat) (s : State) : Host.Outcome State Fault Refusal :=
  .next (oneInstr s ve 0x41 (pureInstr opIsub))

/-- IMUL (R267): the next instruction of the program, where it is one. -/
def execImul (ve : Nat) (s : State) : Host.Outcome State Fault Refusal :=
  .next (oneInstr s ve 0x42 (pureInstr opImul))

/-- IMIN (R266): the next instruction of the program, where it is one. -/
def execImin (ve : Nat) (s : State) : Host.Outcome State Fault Refusal :=
  .next (oneInstr s ve 0x43 (pureInstr opImin))

/-- IMAX (R266): the next instruction of the program, where it is one. -/
def execImax (ve : Nat) (s : State) : Host.Outcome State Fault Refusal :=
  .next (oneInstr s ve 0x44 (pureInstr opImax))

/-- AND (R266): the next instruction of the program, where it is one. -/
def execAnd (ve : Nat) (s : State) : Host.Outcome State Fault Refusal :=
  .next (oneInstr s ve 0x45 (pureInstr opAnd))

/-- OR (R266): the next instruction of the program, where it is one. -/
def execOr (ve : Nat) (s : State) : Host.Outcome State Fault Refusal :=
  .next (oneInstr s ve 0x46 (pureInstr opOr))

/-- XOR (R266): the next instruction of the program, where it is one. -/
def execXor (ve : Nat) (s : State) : Host.Outcome State Fault Refusal :=
  .next (oneInstr s ve 0x47 (pureInstr opXor))

/-- SHL (R266): the next instruction of the program, where it is one. -/
def execShl (ve : Nat) (s : State) : Host.Outcome State Fault Refusal :=
  .next (oneInstr s ve 0x48 (pureInstr opShl))

/-- SHR (R266): the next instruction of the program, where it is one. -/
def execShr (ve : Nat) (s : State) : Host.Outcome State Fault Refusal :=
  .next (oneInstr s ve 0x49 (pureInstr opShr))

/-- SRA (R266): the next instruction of the program, where it is one. -/
def execSra (ve : Nat) (s : State) : Host.Outcome State Fault Refusal :=
  .next (oneInstr s ve 0x4A (pureInstr opSra))

/-- ICMP (R266): the next instruction of the program, where it is one. -/
def execIcmp (ve : Nat) (s : State) : Host.Outcome State Fault Refusal :=
  .next (oneInstr s ve 0x4B (pureInstr opIcmp))

/-- CVTFI (R267): the next instruction of the program, where it is one. -/
def execCvtfi (ve : Nat) (s : State) : Host.Outcome State Fault Refusal :=
  .next (oneInstr s ve 0x50 (pureInstr opCvtfi))

/-- CVTIF (R267): the next instruction of the program, where it is one. -/
def execCvtif (ve : Nat) (s : State) : Host.Outcome State Fault Refusal :=
  .next (oneInstr s ve 0x51 (pureInstr opCvtif))

/-- QNT (R267): the next instruction of the program, where it is one. -/
def execQnt (ve : Nat) (s : State) : Host.Outcome State Fault Refusal :=
  .next (oneInstr s ve 0x52 (pureInstr opQnt))

/-- PERM (R271): the next instruction of the program, where it is one. -/
def execPerm (ve : Nat) (s : State) : Host.Outcome State Fault Refusal :=
  .next (oneInstr s ve 0x60 (pureInstr opPerm))

/-- CMPRS (R271): the next instruction of the program, where it is one. -/
def execCmprs (ve : Nat) (s : State) : Host.Outcome State Fault Refusal :=
  .next (oneInstr s ve 0x61 (pureInstr opCmprs))

/-- EXPND (R271): the next instruction of the program, where it is one. -/
def execExpnd (ve : Nat) (s : State) : Host.Outcome State Fault Refusal :=
  .next (oneInstr s ve 0x62 (pureInstr opExpnd))

/-- SCAN (R273): the next instruction of the program, where it is one. -/
def execScan (ve : Nat) (s : State) : Host.Outcome State Fault Refusal :=
  .next (oneInstr s ve 0x70 (pureInstr opScan))

/-- RED (R274, R276): the next instruction of the program, where it is one. -/
def execRed (ve : Nat) (s : State) : Host.Outcome State Fault Refusal :=
  .next (oneInstr s ve 0x80 (opRed))

/-- SMAX (R277, R278): the next instruction of the program, where it is one. -/
def execSmax (ve : Nat) (s : State) : Host.Outcome State Fault Refusal :=
  .next (oneInstr s ve 0x90 (pureInstr opSmax))

end Sys2Proof.Machine
end

