-- ==== Sys2Proof/Machine/Pooling.lean ====
section
/-! DEFINITION. Weighted pooling on a vector engine (R287, R288). -/

namespace Sys2Proof.Machine

open Sys2Proof

def wpCsr (d : List Byte) : Bool := (leAt d 35 1).testBit 0
def wpSat (d : List Byte) : Bool := (leAt d 35 1).testBit 1
def wpElems (d : List Byte) : Nat := leAt d 36 2
def wpSegs (d : List Byte) : Nat := leAt d 40 4
def wpBag (d : List Byte) : Nat := leAt d 44 4
def wpCount (d : List Byte) : Nat := leAt d 88 8

/-- Faults of a WPOOL descriptor (R287, R292). -/
def wpFaults (d : List Byte) : List DescFault :=
  let rf := leAt d 33 1
  let f := leAt d 34 1
  faultIf (decide (0x04 < rf)) 0x02 33 ++ faultIf (decide (1 < f)) 0x02 34 ++
  alignFaults d ((if wpCsr d then [(48, 8)] else []) ++ [(56, 8), (64, 8), (72, 8), (80, 4), (84, 4)]) ++
  faultIf (decide (leAt d 80 4 < wpElems d * wholeBytes rf)) 0x05 80 ++
  faultIf (decide (leAt d 84 4 < wpElems d * wholeBytes f)) 0x05 84 ++
  faultIf (decide (wpElems d < 1 ∨ 4096 < wpElems d)) 0x07 36 ++
  faultIf (wpSegs d = 0) 0x07 40 ++
  faultIf (!wpCsr d && decide (wpBag d < 1 ∨ 65536 < wpBag d)) 0x07 44 ++
  faultIf (decide (wpCount d < 1 ∨ 2 ^ 32 < wpCount d)) 0x07 88

/-- The positions of a segment, clamped as R193 and R194 clamp them. -/
def wpSegment (s : State) (u : UnitId) (t : Task) (k : Nat) : State × Nat × Nat :=
  let d := t.desc
  let clamp (lo hi : Nat) : Nat × Nat := (min lo (wpCount d), max (min lo (wpCount d)) (min hi (wpCount d)))
  if wpCsr d then
    let r := engineLoad s u (partOf t) (leAt d 48 8 + 8 * k) 16
    (r.1, clamp (leAt r.2 0 8) (leAt r.2 8 8))
  else (s, clamp (k * wpBag d) ((k + 1) * wpBag d))

/-- One position: a fused multiply-add of its weight and its row into the running sums, each rounded once. -/
def wpPosition (u : UnitId) (t : Task) (r : State × List (Nat × Nat)) (p : Nat) : State × List (Nat × Nat) :=
  let d := t.desc
  let f := leAt d 33 1
  let row := engineLoad r.1 u (partOf t) (leAt d 56 8 + p * leAt d 80 4) (wpElems d * wholeBytes f)
  let w := engineLoad row.1 u (partOf t) (leAt d 64 8 + 4 * p) 4
  let xs := rowCodes f (wpElems d) row.2
  (w.1, (r.2.zip xs).map fun q =>
    let z := to32 (((fp32At w.2 0).mul (decodeElem f 0 q.2)).add (numOf32 q.1.1))
    (z.1, q.1.2 ||| z.2))

/-- One segment: its sums, converted and written; an empty one writes +0 and gives EMPTY. -/
def wpSegmentRun (u : UnitId) (t : Task) (r : State × Nat) (k : Nat) : State × Nat :=
  let d := t.desc
  let sg := wpSegment r.1 u t k
  let ps := (List.range (sg.2.2 - sg.2.1)).map fun j => sg.2.1 + j
  let sums := ps.foldl (wpPosition u t) (sg.1, List.replicate (wpElems d) (0, 0))
  let outs := sums.2.map fun x =>
    if leAt d 34 1 = 1 then
      let b := roundTo bf16 (wpSat d) (numOf32 x.1)
      (leBytes 2 b.1, x.2 ||| b.2)
    else (leBytes 4 x.1, x.2)
  (engineStore sums.1 u (partOf t) (leAt d 72 8 + k * leAt d 84 4) (outs.map (·.1)).flatten,
    outs.foldl (fun f x => f ||| x.2) (r.2 ||| flagIf ps.isEmpty flagEmpty))

/-- WPOOL (R288): STATUS WPOOL reads 1 while it runs. -/
def wpoolRun (u : UnitId) (t : Task) (s : State) : State :=
  let r := (List.range (wpSegs t.desc)).foldl (wpSegmentRun u t) (s, 0)
  finishOk (setF r.1 u 0x18 21 21 1) u r.2

/-! ### Meanings -/

/-- WPOOL (R287, R288). -/
def execWpool (ve : Nat) (s : State) : Host.Outcome State Fault Refusal :=
  .next (runFront s (unitVE ve) 2 (fun t => wpFaults t.desc) (wpoolRun (unitVE ve)))

end Sys2Proof.Machine
end

