-- ==== Sys2Proof/Machine/Predict.lean ====
section
/-! DEFINITION. The predictor engines (R234 to R241): a network of one to three layers scores neuron groups for each token,
and the groups selected are written as index lists. Which tokens mismatch their residue check is an operand. -/

namespace Sys2Proof.Machine

open Sys2Proof

/-! ### Descriptor fields (R239) -/

def peLayers (d : List Byte) : Nat := leAt d 34 1
def peUnion (d : List Byte) : Bool := (leAt d 35 1).testBit 0
def peThreshold (d : List Byte) : Bool := (leAt d 35 1).testBit 1
def peGroup (d : List Byte) : Nat := leAt d 36 2
def peK (d : List Byte) : Nat := leAt d 38 2
def peTokens (d : List Byte) : Nat := leAt d 40 4
def peMaxOut (d : List Byte) : Nat := leAt d 92 4

/-- Bytes of the weight area of an engine's local memory (R234). -/
def weightArea : Nat := 1572864

/-- A layer as its header gives it (R235): where its block starts, its widths, its weight format and its multiplier. -/
structure Layer where
  at_ : Nat
  ins : Nat
  outs : Nat
  fmt : Nat
  scale : Nat
  deriving DecidableEq, Repr

/-- Bytes of a layer's block. -/
def Layer.bytes (l : Layer) : Nat := 64 + l.outs * roundUp l.ins 64

/-- Faults of the descriptor itself (R241); `g` is OUT of the last layer. -/
def peFaults (d : List Byte) : List DescFault :=
  faultIf (!([0x01, 0x03, 0x08].contains (leAt d 33 1))) 0x02 33 ++
  faultIf (decide (peLayers d < 1 ∨ 3 < peLayers d)) 0x07 34 ++
  faultIf (decide (peGroup d < 1 ∨ 64 < peGroup d)) 0x07 36 ++
  faultIf (decide (peK d < 1 ∨ 1024 < peK d ∨ peMaxOut d < peK d)) 0x07 38 ++
  faultIf (decide (peTokens d < 1 ∨ 65536 < peTokens d)) 0x07 40 ++
  alignFaults d [(44, 4), (48, 8), (56, 8), (64, 8), (80, 8)] ++
  (if peUnion d then [] else alignFaults d [(72, 8)]) ++
  tileFaults d ([48, 56, 64, 80] ++ if peUnion d then [] else [72])

/-- The loaded weights are used again (R239 REUSE). -/
def peReuse (s : State) (u : UnitId) (d : List Byte) : Bool :=
  (leAt d 35 1).testBit 2 && getF s u 0x18 20 20 = 1 && (getReg s u 0x128).toNat = leAt d 56 8

/-- Reads bytes of the weight blocks: from memory, or from the weights already loaded. -/
def weightRead (s : State) (u : UnitId) (t : Task) (off n : Nat) : State × List Byte :=
  if peReuse s u t.desc then (s, tileRead s u off n) else engineLoad s u (partOf t) (leAt t.desc 56 8 + off) n

/-- The layers of a task, read header after header. -/
def readLayers (u : UnitId) (t : Task) : Nat → Nat → State → State × List Layer
  | 0, _, s => (s, [])
  | n + 1, off, s =>
    let h := weightRead s u t off 64
    let l : Layer := ⟨off, leAt h.2 0 2, leAt h.2 2 2, leAt h.2 4 1, leAt h.2 8 4⟩
    let rest := readLayers u t n (off + l.bytes) h.1
    (rest.1, l :: rest.2)

/-- Widths in range and chained (R235). -/
def widthsBad (ls : List Layer) : Bool :=
  (ls.any fun l => decide (l.outs < 1 ∨ 1024 < l.outs)) ||
    (match ls with
      | [] => true
      | l :: _ => decide (l.ins < 32 ∨ 4096 < l.ins) || l.ins % 32 ≠ 0) ||
    (ls.zip (ls.drop 1)).any fun p => p.2.ins ≠ p.1.outs

/-- Faults of the weight headers (R241). -/
def layerFaults (d : List Byte) (ls : List Layer) : List DescFault :=
  let g := ((ls.getLast?).map fun l => l.outs).getD 0
  faultIf (ls.any fun l => l.fmt ≠ 0x03 && l.fmt ≠ 0x08) 0x02 4 ++
  faultIf (widthsBad ls || decide (weightArea < ls.foldl (fun n l => n + l.bytes) 0)) 0x07 56 ++
  faultIf (decide (peMaxOut d < 1 ∨ g < peMaxOut d)) 0x07 92

/-! ### The network (R236) -/

/-- A dot product drained to FP32, in groups of 32 K-steps (R105, R106, R110). -/
def dotDrain (fa fb : Nat) (as bs : List ExactNum) : Nat × Nat :=
  let int := isIntFmt fa && isIntFmt fb
  let c := (List.range (ceilDiv as.length 32)).foldl (fun c g =>
    let x := expand fa ((as.drop (32 * g)).take 32)
    let y := expand fb ((bs.drop (32 * g)).take 32)
    if int then addPairsInt c (x.zip y) else addGroup c x y 0) ({} : Accum)
  to32 c.value

/-- What a layer other than the last passes on for one output: clipped at 0, scaled, and narrowed to FP8 E4M3. -/
def hiddenOut (scale c : Nat) : Nat × Nat :=
  let v := numOf32 c
  let x := if v.isNan then v else if v.isNeg then ExactNum.zero else v
  let m := to32 (x.mul (numOf32 scale))
  let r := roundTo e4m3 false (numOf32 m.1)
  (r.1, m.2 ||| r.2)

/-- The group scores of one token, as FP32 codes, with the flags of the network. -/
def scoresOf (s : State) (u : UnitId) (ls : List Layer) (fmt0 : Nat) (input : List ExactNum) : List Nat × Nat :=
  let step (acc : List ExactNum × Nat × List Nat × Nat) (p : Layer × Bool) : List ExactNum × Nat × List Nat × Nat :=
    let l := p.1
    let outs := (List.range l.outs).map fun j =>
      let w := tileRead s u (l.at_ + 64 + j * roundUp l.ins 64) l.ins
      dotDrain acc.2.1 l.fmt acc.1 ((rowCodes l.fmt l.ins w).map (decodeElem l.fmt 0))
    let f := outs.foldl (fun f o => f ||| o.2) acc.2.2.2
    if p.2 then ([], 0, outs.map (·.1), f)
    else
      let hs := outs.map fun o => hiddenOut l.scale o.1
      (hs.map fun h => decodeFloat e4m3 h.1, 0x03, [], hs.foldl (fun f h => f ||| h.2) f)
  let r := (ls.mapIdx fun i l => (l, decide (i + 1 = ls.length))).foldl step (input, fmt0, [], 0)
  (r.2.2.1, r.2.2.2)

/-! ### Selection (R237, R238) -/

/-- Whether group `i` ranks before group `j`: a higher score, then a lower index; a NaN below every number. -/
def ranksBefore (ss : List Nat) (i j : Nat) : Bool :=
  let a := numOf32 (ss.getD i 0)
  let b := numOf32 (ss.getD j 0)
  if a.isNan then b.isNan && decide (i < j)
  else if b.isNan then true
  else b.lt a || (a.le b && b.le a && decide (i < j))

/-- The `k` groups of highest rank among some, ascending. -/
def topGroups (before : Nat → Nat → Bool) (k : Nat) (gs : List Nat) : List Nat :=
  gs.filter fun i => decide ((gs.filter fun j => before j i).length < k)

/-- The groups one token selects, and whether it truncated (R237). -/
def selectGroups (d : List Byte) (ss : List Nat) : List Nat × Bool :=
  let all := List.range ss.length
  let top (k : Nat) (gs : List Nat) : List Nat := topGroups (ranksBefore ss) k gs
  if peThreshold d then
    let above := all.filter fun i => (numOf32 (leAt d 88 4)).lt (numOf32 (ss.getD i 0))
    if above.length < peK d then (top (peK d) all, false)
    else if peMaxOut d < above.length then (top (peMaxOut d) above, true)
    else (above, false)
  else (top (peK d) all, false)

/-- The union of the tokens' groups: at most MAX_OUT, those most tokens selected first, and whether it truncated (R238). -/
def unionGroups (d : List Byte) (sel : List (List Nat)) : List Nat × Bool :=
  let gs := (List.range 1024).filter fun g => sel.any fun x => x.contains g
  let votes (g : Nat) : Nat := (sel.filter fun x => x.contains g).length
  let before (i j : Nat) : Bool := decide (votes j < votes i) || (votes i = votes j && decide (i < j))
  if peMaxOut d < gs.length then (topGroups before (peMaxOut d) gs, true) else (gs, false)

/-- The neurons a group names, as index bytes (R237). -/
def groupNames (d : List Byte) (g : Nat) : List Byte := (List.range (peGroup d)).flatMap fun k => leBytes 4 (g * peGroup d + k)

/-- Writes the index lists (R238): the state and how many indices were written, padding apart. -/
def writeLists (s : State) (u : UnitId) (t : Task) (sel : List (List Nat)) : State × Nat :=
  let d := t.desc
  let put (s : State) (a : Nat) (bs : List Byte) : State := engineStore s u (partOf t) a bs
  let counted (s : State) (n : Nat) : State := if leAt d 80 8 = 0 then s else put s (leAt d 80 8) (leBytes 8 n)
  if peUnion d then
    let gs := (unionGroups d sel).1
    let pad := List.replicate ((peMaxOut d - gs.length) * peGroup d) (leBytes 4 0xFFFFFFFF)
    (counted (put s (leAt d 64 8) (gs.flatMap (groupNames d) ++ pad.flatten)) (gs.length * peGroup d), gs.length * peGroup d)
  else
    let n := (sel.map List.length).foldl (· + ·) 0 * peGroup d
    let s1 := put s (leAt d 64 8) (sel.flatMap fun gs => gs.flatMap (groupNames d))
    let ptrs := (List.range (sel.length + 1)).flatMap fun i =>
      leBytes 8 (((sel.take i).map List.length).foldl (· + ·) 0 * peGroup d)
    (counted (put s1 (leAt d 72 8) ptrs) n, n)

/-- Reads the tokens' activations. -/
def readTokens (s : State) (u : UnitId) (t : Task) (ins : Nat) : State × List (List ExactNum) :=
  let d := t.desc
  let fmt := leAt d 33 1
  let r := readRows s u (partOf t) (leAt d 48 8) (leAt d 44 4) (rowBytes fmt ins) (peTokens d)
  (r.1, r.2.map fun row => (rowCodes fmt ins row).map (decodeElem fmt 0))

/-- PREDICT of a task whose checks have passed and whose weights are loaded: `once` are the tokens that were computed again
and passed, and `twice` the first token that mismatched twice, which ends the task (R236). -/
def predictTokens (u : UnitId) (t : Task) (ls : List Layer) (once : List Nat) (twice : Option Nat) (s : State) : State :=
  let d := t.desc
  let r := readTokens s u t ((ls.head?.map fun l => l.ins).getD 0)
  if r.1.rem.wait then r.1
  else
    match twice.filter fun k => decide (k < peTokens d) with
    | some tok =>
      let s1 := bump (bump r.1 u 0x120 63 32 1) u 0x120 31 0 ((once.filter fun k => decide (k < tok)).length)
      finishBad (reportFault s1 u 0x01) u 0x08 tok 0
    | none =>
      let sc := r.2.map (scoresOf r.1 u ls (leAt d 33 1))
      let sel := sc.map fun x => selectGroups d x.1
      let cut := (sel.filter fun x => x.2).length + bit (peUnion d && (unionGroups d (sel.map (·.1))).2)
      let w := writeLists r.1 u t (sel.map (·.1))
      let picked := (sel.map fun x => x.1.length).foldl (· + ·) 0
      let s1 := bump64 (bump64 (bump64 w.1 u 0x108 (peTokens d)) u 0x110 picked) u 0x118 cut
      let s2 := bump s1 u 0x120 31 0 (once.filter fun k => decide (k < peTokens d)).length
      let s3 := engineTally s2 (leAt d 96 2) 2 (peTokens d) ⟨picked, 0⟩ ⟨w.2, 0⟩ 0
      finishFront s3 u { verdict := .ok, status := if cut = 0 then 0 else 1, flags := sc.foldl (fun f x => f ||| x.2) 0 }

/-- PREDICT (R235 to R238): checks the weight headers, loads the weights unless they are reused, and predicts. -/
def predictRun (u : UnitId) (once : List Nat) (twice : Option Nat) (t : Task) (s : State) : State :=
  let d := t.desc
  let l := readLayers u t (if 3 < peLayers d then 0 else peLayers d) 0 s
  if l.1.rem.wait then l.1
  else
    match chooseFault (peFaults d ++ if l.2.isEmpty then [] else layerFaults d l.2) with
    | some f => finishBad l.1 u f.status f.detail 0
    | none =>
      if peReuse s u d then predictTokens u t l.2 once twice l.1
      else
        let n := l.2.foldl (fun n x => n + x.bytes) 0
        let w := engineLoad l.1 u (partOf t) (leAt d 56 8) n
        let s1 := setF (setReg (tileWrite w.1 u 0 w.2) u 0x128 (BitVec.ofNat 64 (leAt d 56 8))) u 0x18 20 20 1
        if w.1.rem.wait then w.1 else predictTokens u t l.2 once twice s1

/-- PREDICT (R236); a predictor task of an undefined OP ends here with OPCODE (R562). -/
def execPredict (engine : Nat) (once : List Nat) (twice : Option Nat) (s : State) : Host.Outcome State Fault Refusal :=
  let u := unitPE engine
  .next (runFront (undefinedOp s u [0x01]) u 0x01 (fun _ => []) (predictRun u once twice))

end Sys2Proof.Machine
end

