-- ==== Sys2Proof/Machine/Dispatch.lean ====
section
/-! DEFINITION. exec: one arm per command, each one direct call of its meaning. -/

namespace Sys2Proof.Machine

open Sys2Proof

def exec (i : Instr) (s : State) : Host.Outcome State Fault Refusal :=
  match i with
  | .registerWrite off size val => Sys2Proof.Machine.execRegisterWrite off size val s
  | .badAccess write off size => Sys2Proof.Machine.execBadAccess write off size s
  | .rcRead off size => Sys2Proof.Machine.execRcRead off size s
  | .assay u => Sys2Proof.Machine.execAssay u s
  | .disableCheck u => Sys2Proof.Machine.execDisableCheck u s
  | .assayDone u => Sys2Proof.Machine.execAssayDone u s
  | .reset u => Sys2Proof.Machine.execReset u s
  | .resetComplete u => Sys2Proof.Machine.execResetComplete u s
  | .timeLatch => Sys2Proof.Machine.execTimeLatch s
  | .load => Sys2Proof.Machine.execLoad s
  | .compareWrite value => Sys2Proof.Machine.execCompareWrite value s
  | .compare => Sys2Proof.Machine.execCompare s
  | .syncInterval => Sys2Proof.Machine.execSyncInterval s
  | .holdover errEst => Sys2Proof.Machine.execHoldover errEst s
  | .tallyWrite slot word value => Sys2Proof.Machine.execTallyWrite slot word value s
  | .tallyUpdate upd => Sys2Proof.Machine.execTallyUpdate upd s
  | .tallySnapshot slot => Sys2Proof.Machine.execTallySnapshot slot s
  | .snapValid => Sys2Proof.Machine.execSnapValid s
  | .clearAll => Sys2Proof.Machine.execClearAll s
  | .clearComplete => Sys2Proof.Machine.execClearComplete s
  | .tblQuery ge table => Sys2Proof.Machine.execTblQuery ge table s
  | .tblQueryDone ge => Sys2Proof.Machine.execTblQueryDone ge s
  | .invalidate bank => Sys2Proof.Machine.execInvalidate bank s
  | .invDone bank => Sys2Proof.Machine.execInvDone bank s
  | .retrain port => Sys2Proof.Machine.execRetrain port s
  | .read => Sys2Proof.Machine.execRead s
  | .write => Sys2Proof.Machine.execWrite s
  | .stage => Sys2Proof.Machine.execStage s
  | .discardStaged => Sys2Proof.Machine.execDiscardStaged s
  | .undefinedEntryOp op => Sys2Proof.Machine.execUndefinedEntryOp op s
  | .flush => Sys2Proof.Machine.execFlush s
  | .enable => Sys2Proof.Machine.execEnable s
  | .disable => Sys2Proof.Machine.execDisable s
  | .sqTail ring tail => Sys2Proof.Machine.execSqTail ring tail s
  | .cqHead ring head => Sys2Proof.Machine.execCqHead ring head s
  | .errHead head => Sys2Proof.Machine.execErrHead head s
  | .msixUnmask vector => Sys2Proof.Machine.execMsixUnmask vector s
  | .decoderCommit n ways base size => Sys2Proof.Machine.execDecoderCommit n ways base size s
  | .epochStart => Sys2Proof.Machine.execEpochStart s
  | .epochStop => Sys2Proof.Machine.execEpochStop s
  | .close => Sys2Proof.Machine.execClose s
  | .cfgLock => Sys2Proof.Machine.execCfgLock s
  | .updateBegin c => Sys2Proof.Machine.execUpdateBegin c s
  | .updateData c => Sys2Proof.Machine.execUpdateData c s
  | .updateEnd c => Sys2Proof.Machine.execUpdateEnd c s
  | .updateAbort c => Sys2Proof.Machine.execUpdateAbort c s
  | .profileWrite c => Sys2Proof.Machine.execProfileWrite c s
  | .profileSelectNext c => Sys2Proof.Machine.execProfileSelectNext c s
  | .profileRead c => Sys2Proof.Machine.execProfileRead c s
  | .clearBootCount c => Sys2Proof.Machine.execClearBootCount c s
  | .enterStrongbox c => Sys2Proof.Machine.execEnterStrongbox c s
  | .fuseSvn c => Sys2Proof.Machine.execFuseSvn c s
  | .revokeSlot c => Sys2Proof.Machine.execRevokeSlot c s
  | .diagTrain c bad => Sys2Proof.Machine.execDiagTrain c bad s
  | .diagPort c lanes => Sys2Proof.Machine.execDiagPort c lanes s
  | .recordRead c => Sys2Proof.Machine.execRecordRead c s
  | .undefinedMcOp op c => Sys2Proof.Machine.execUndefinedMcOp op c s
  | .mctpRequest m => Sys2Proof.Machine.execMctpRequest m s
  | .sessionTimeout => Sys2Proof.Machine.execSessionTimeout s
  | .doeObject o => Sys2Proof.Machine.execDoeObject o s
  | .ideFail mem => Sys2Proof.Machine.execIdeFail mem s
  | .cxlMemRead hpa ecc => Sys2Proof.Machine.execCxlMemRead hpa ecc s
  | .cxlMemWrite hpa data => Sys2Proof.Machine.execCxlMemWrite hpa data s
  | .submissionLineSnoop addr line => Sys2Proof.Machine.execSubmissionLineSnoop addr line s
  | .auxPowerUp identityOk => Sys2Proof.Machine.execAuxPowerUp identityOk s
  | .auxPowerLoss => Sys2Proof.Machine.execAuxPowerLoss s
  | .pwrGood => Sys2Proof.Machine.execPwrGood s
  | .pwrGoodDeassert => Sys2Proof.Machine.execPwrGoodDeassert s
  | .p54Undervoltage value => Sys2Proof.Machine.execP54Undervoltage value s
  | .p54Overvoltage value => Sys2Proof.Machine.execP54Overvoltage value s
  | .perstRelease pins => Sys2Proof.Machine.execPerstRelease pins s
  | .perstAssert => Sys2Proof.Machine.execPerstAssert s
  | .cxlReset => Sys2Proof.Machine.execCxlReset s
  | .functionLevelReset => Sys2Proof.Machine.execFunctionLevelReset s
  | .cxlLinkTrained width speed => Sys2Proof.Machine.execCxlLinkTrained width speed s
  | .imageVerify readOk => Sys2Proof.Machine.execImageVerify readOk s
  | .memoryTraining stack bad => Sys2Proof.Machine.execMemoryTraining stack bad s
  | .profileApply => Sys2Proof.Machine.execProfileApply s
  | .deviceReady => Sys2Proof.Machine.execDeviceReady s
  | .bootRestart => Sys2Proof.Machine.execBootRestart s
  | .bootWatchdog => Sys2Proof.Machine.execBootWatchdog s
  | .recordWrite torn => Sys2Proof.Machine.execRecordWrite torn s
  | .compaction => Sys2Proof.Machine.execCompaction s
  | .descriptorFetch ring linkError => Sys2Proof.Machine.execDescriptorFetch ring linkError s
  | .admission ring => Sys2Proof.Machine.execAdmission ring s
  | .tableSwitch ring => Sys2Proof.Machine.execTableSwitch ring s
  | .ctxSet ring => Sys2Proof.Machine.execCtxSet ring s
  | .join seq => Sys2Proof.Machine.execJoin seq s
  | .mark seq => Sys2Proof.Machine.execMark seq s
  | .cond seq cc agree => Sys2Proof.Machine.execCond seq cc agree s
  | .retry seq cc agree => Sys2Proof.Machine.execRetry seq cc agree s
  | .delayTick q list time => Sys2Proof.Machine.execDelayTick q list time s
  | .deadlineExpiry seq => Sys2Proof.Machine.execDeadlineExpiry seq s
  | .taskDispatch q => Sys2Proof.Machine.execTaskDispatch q s
  | .taskComplete u => Sys2Proof.Machine.execTaskComplete u s
  | .completionRecord ring linkOk => Sys2Proof.Machine.execCompletionRecord ring linkOk s
  | .statusLineWrite ring linkOk => Sys2Proof.Machine.execStatusLineWrite ring linkOk s
  | .ringCoalesce ring => Sys2Proof.Machine.execRingCoalesce ring s
  | .errorRecord => Sys2Proof.Machine.execErrorRecord s
  | .tableDrained table version => Sys2Proof.Machine.execTableDrained table version s
  | .matmul ma => Sys2Proof.Machine.execMatmul ma s
  | .pin ma => Sys2Proof.Machine.execPin ma s
  | .rowTileCheck ma bad => Sys2Proof.Machine.execRowTileCheck ma bad s
  | .residueRecompute ma bad => Sys2Proof.Machine.execResidueRecompute ma bad s
  | .partnerRun ma bad => Sys2Proof.Machine.execPartnerRun ma bad s
  | .convert qc => Sys2Proof.Machine.execConvert qc s
  | .prune24 qc => Sys2Proof.Machine.execPrune24 qc s
  | .compress qc => Sys2Proof.Machine.execCompress qc s
  | .decompress qc => Sys2Proof.Machine.execDecompress qc s
  | .gather ge => Sys2Proof.Machine.execGather ge s
  | .poolSum ge => Sys2Proof.Machine.execPoolSum ge s
  | .poolMean ge => Sys2Proof.Machine.execPoolMean ge s
  | .unique ge => Sys2Proof.Machine.execUnique ge s
  | .scatter ge => Sys2Proof.Machine.execScatter ge s
  | .coalesceProbe ge => Sys2Proof.Machine.execCoalesceProbe ge s
  | .coalesceEntryFilled ge => Sys2Proof.Machine.execCoalesceEntryFilled ge s
  | .fragmentTake ge => Sys2Proof.Machine.execFragmentTake ge s
  | .splitSlotDecrement ge => Sys2Proof.Machine.execSplitSlotDecrement ge s
  | .reduce engine order => Sys2Proof.Machine.execReduce engine order s
  | .predict engine once twice => Sys2Proof.Machine.execPredict engine once twice s
  | .run ve => Sys2Proof.Machine.execRun ve s
  | .wpool ve => Sys2Proof.Machine.execWpool ve s
  | .tileHandoff ma => Sys2Proof.Machine.execTileHandoff ma s
  | .endMarker ma => Sys2Proof.Machine.execEndMarker ma s
  | .nop ve => Sys2Proof.Machine.execNop ve s
  | .setvl ve => Sys2Proof.Machine.execSetvl ve s
  | .ldi ve => Sys2Proof.Machine.execLdi ve s
  | .laneid ve => Sys2Proof.Machine.execLaneid ve s
  | .flagrd ve => Sys2Proof.Machine.execFlagrd ve s
  | .summ ve => Sys2Proof.Machine.execSumm ve s
  | .ld ve => Sys2Proof.Machine.execLd ve s
  | .st ve => Sys2Proof.Machine.execSt ve s
  | .ldx ve => Sys2Proof.Machine.execLdx ve s
  | .stx ve => Sys2Proof.Machine.execStx ve s
  | .stxadd ve => Sys2Proof.Machine.execStxadd ve s
  | .accrd ve => Sys2Proof.Machine.execAccrd ve s
  | .fadd ve => Sys2Proof.Machine.execFadd ve s
  | .fsub ve => Sys2Proof.Machine.execFsub ve s
  | .fmul ve => Sys2Proof.Machine.execFmul ve s
  | .fma ve => Sys2Proof.Machine.execFma ve s
  | .fmin ve => Sys2Proof.Machine.execFmin ve s
  | .fmax ve => Sys2Proof.Machine.execFmax ve s
  | .fabs ve => Sys2Proof.Machine.execFabs ve s
  | .fneg ve => Sys2Proof.Machine.execFneg ve s
  | .fdiv ve => Sys2Proof.Machine.execFdiv ve s
  | .fsqrt ve => Sys2Proof.Machine.execFsqrt ve s
  | .fcmp ve => Sys2Proof.Machine.execFcmp ve s
  | .sel ve => Sys2Proof.Machine.execSel ve s
  | .exp ve => Sys2Proof.Machine.execExp ve s
  | .exp2 ve => Sys2Proof.Machine.execExp2 ve s
  | .log ve => Sys2Proof.Machine.execLog ve s
  | .log2 ve => Sys2Proof.Machine.execLog2 ve s
  | .rcp ve => Sys2Proof.Machine.execRcp ve s
  | .rsqrt ve => Sys2Proof.Machine.execRsqrt ve s
  | .tanh ve => Sys2Proof.Machine.execTanh ve s
  | .sigmoid ve => Sys2Proof.Machine.execSigmoid ve s
  | .erf ve => Sys2Proof.Machine.execErf ve s
  | .iadd ve => Sys2Proof.Machine.execIadd ve s
  | .isub ve => Sys2Proof.Machine.execIsub ve s
  | .imul ve => Sys2Proof.Machine.execImul ve s
  | .imin ve => Sys2Proof.Machine.execImin ve s
  | .imax ve => Sys2Proof.Machine.execImax ve s
  | .and ve => Sys2Proof.Machine.execAnd ve s
  | .or ve => Sys2Proof.Machine.execOr ve s
  | .xor ve => Sys2Proof.Machine.execXor ve s
  | .shl ve => Sys2Proof.Machine.execShl ve s
  | .shr ve => Sys2Proof.Machine.execShr ve s
  | .sra ve => Sys2Proof.Machine.execSra ve s
  | .icmp ve => Sys2Proof.Machine.execIcmp ve s
  | .cvtfi ve => Sys2Proof.Machine.execCvtfi ve s
  | .cvtif ve => Sys2Proof.Machine.execCvtif ve s
  | .qnt ve => Sys2Proof.Machine.execQnt ve s
  | .perm ve => Sys2Proof.Machine.execPerm ve s
  | .cmprs ve => Sys2Proof.Machine.execCmprs ve s
  | .expnd ve => Sys2Proof.Machine.execExpnd ve s
  | .scan ve => Sys2Proof.Machine.execScan ve s
  | .red ve => Sys2Proof.Machine.execRed ve s
  | .redResult ve => Sys2Proof.Machine.execRedResult ve s
  | .smax ve => Sys2Proof.Machine.execSmax ve s
  | .exchange cl => Sys2Proof.Machine.execExchange cl s
  | .migrate cl => Sys2Proof.Machine.execMigrate cl s
  | .allReduce co => Sys2Proof.Machine.execAllReduce co s
  | .allGather co => Sys2Proof.Machine.execAllGather co s
  | .reduceScatter co => Sys2Proof.Machine.execReduceScatter co s
  | .barrier co => Sys2Proof.Machine.execBarrier co s
  | .peerStall co => Sys2Proof.Machine.execPeerStall co s
  | .batchNs batch => Sys2Proof.Machine.execBatchNs batch s
  | .rtsRetry cl => Sys2Proof.Machine.execRtsRetry cl s
  | .readReq => Sys2Proof.Machine.execReadReq s
  | .readRsp => Sys2Proof.Machine.execReadRsp s
  | .writeReq => Sys2Proof.Machine.execWriteReq s
  | .writeAck => Sys2Proof.Machine.execWriteAck s
  | .exchData => Sys2Proof.Machine.execExchData s
  | .exchAck => Sys2Proof.Machine.execExchAck s
  | .rts => Sys2Proof.Machine.execRts s
  | .cts => Sys2Proof.Machine.execCts s
  | .collData => Sys2Proof.Machine.execCollData s
  | .collAck => Sys2Proof.Machine.execCollAck s
  | .commitVote => Sys2Proof.Machine.execCommitVote s
  | .commitCommit => Sys2Proof.Machine.execCommitCommit s
  | .commitAbort => Sys2Proof.Machine.execCommitAbort s
  | .commitStart => Sys2Proof.Machine.execCommitStart s
  | .slow => Sys2Proof.Machine.execSlow s
  | .sync errEst rate => Sys2Proof.Machine.execSync errEst rate s
  | .delayReq => Sys2Proof.Machine.execDelayReq s
  | .delayRsp => Sys2Proof.Machine.execDelayRsp s
  | .inval => Sys2Proof.Machine.execInval s
  | .invalAck => Sys2Proof.Machine.execInvalAck s
  | .replicaInstall => Sys2Proof.Machine.execReplicaInstall s
  | .dataFrame port f => Sys2Proof.Machine.execDataFrame port f s
  | .idleFrame port f => Sys2Proof.Machine.execIdleFrame port f s
  | .identityFrame port frame => Sys2Proof.Machine.execIdentityFrame port frame s
  | .linkTraining port lanes => Sys2Proof.Machine.execLinkTraining port lanes s
  | .linkSilence port => Sys2Proof.Machine.execLinkSilence port s
  | .retrainingComplete port ok => Sys2Proof.Machine.execRetrainingComplete port ok s
  | .serWindow port lane m => Sys2Proof.Machine.execSerWindow port lane m s
  | .laneRepair port => Sys2Proof.Machine.execLaneRepair port s
  | .stackAccess req ecc => Sys2Proof.Machine.execStackAccess req ecc s
  | .scrubRead stack sector ecc => Sys2Proof.Machine.execScrubRead stack sector ecc s
  | .rowRemap stack => Sys2Proof.Machine.execRowRemap stack s
  | .pageRetire stack pages => Sys2Proof.Machine.execPageRetire stack pages s
  | .vaultAccess req ue => Sys2Proof.Machine.execVaultAccess req ue s
  | .accumulate bank offset seq float values => Sys2Proof.Machine.execAccumulate bank offset seq float values s
  | .cacheAccess req ue => Sys2Proof.Machine.execCacheAccess req ue s
  | .cacheFill addr victim pathBusy => Sys2Proof.Machine.execCacheFill addr victim pathBusy s
  | .mergeDrain bank ue => Sys2Proof.Machine.execMergeDrain bank ue s
  | .sensorSample readings => Sys2Proof.Machine.execSensorSample readings s
  | .thermalTrip sensor value => Sys2Proof.Machine.execThermalTrip sensor value s
  | .powerMeasure watts mv centiamps auxMv auxMw => Sys2Proof.Machine.execPowerMeasure watts mv centiamps auxMv auxMw s
  | .capStep => Sys2Proof.Machine.execCapStep s
  | .juncThrottle q => Sys2Proof.Machine.execJuncThrottle q s
  | .capUnmet => Sys2Proof.Machine.execCapUnmet s
  | .ccWatchdog cc => Sys2Proof.Machine.execCcWatchdog cc s
  | .closeInstant => Sys2Proof.Machine.execCloseInstant s
  | .drainComplete => Sys2Proof.Machine.execDrainComplete s
  | .faultReport unit kind => Sys2Proof.Machine.execFaultReport unit kind s
  | .fabricDrain => Sys2Proof.Machine.execFabricDrain s
  | .restore q => Sys2Proof.Machine.execRestore q s
  | .diagnosis failed => Sys2Proof.Machine.execDiagnosis failed s
  | .resumeLimit => Sys2Proof.Machine.execResumeLimit s
  | .p54WithinRange => Sys2Proof.Machine.execP54WithinRange s
  | .lossOfDeskew port => Sys2Proof.Machine.execLossOfDeskew port s
  | .lossOfLock port lane => Sys2Proof.Machine.execLossOfLock port lane s
  | .loopbackSelftest failed => Sys2Proof.Machine.execLoopbackSelftest failed s
  | .mcFirmwareWatchdog => Sys2Proof.Machine.execMcFirmwareWatchdog s

end Sys2Proof.Machine
end

