-- ==== Sys2Proof/Machine/Tick.lean ====
section
/-! DEFINITION. The tick: one nanosecond of device time, and what happens by itself as time passes. It is what a step does
when no command waits. -/

namespace Sys2Proof.Machine

open Sys2Proof

/-- The codeword interval of 25.6 ns that an instant lies in (R378). -/
def codeword (t : Nat) : Nat := 5 * t / 128

/-- Records of a ring whose coalescing time is over are signalled (R486). -/
def coalesceDue (n : Nat) (s : State) : State :=
  let r := ringOf s n
  if r.unsignalled ≠ 0 ∧ r.firstAt + 1000 * coalUs r ≤ now s then coalesce s n else s

/-- Batches whose first entry is BATCH_NS old are sent (R410). -/
def batchesDue (s : State) : State :=
  foldOver (fun b t => if !b.sent && decide (b.firstAt + getF t (unitCL b.q) 0x100 47 32 ≤ now t) then batchTimeout t b.id else t)
    s.fab.batches s

/-- The epoch's close instant, when it has come (R443). -/
def closeDue (s : State) : State := if phase s = 1 ∧ closeAt s ≤ now s then closeInstant s else s

/-- One nanosecond: TIME counts with its compare (R80, R84); delays and deadlines (R318, R320); requests for remote memory
go into batches (R409, R410); the commit tree, ring pairs that drain (R483) and interrupts that coalesce (R486); MC ends the
command that runs (R522); and at each codeword boundary every port sends a frame (R378, R387). Without the auxiliary supply nothing runs. -/
def tick (s : State) : State :=
  if s.pw.auxUp = false then s
  else
    let s1 := timeStepped (timeUpTo s (now s + 1))
    let s2 := batchesDue (collect s1)
    let s3 := closeDue (epochPoll s2)
    let rings := s3.hi.rings.map fun e => e.1
    let s4 := foldOver (fun n t => drainCheck n (coalesceDue n t)) rings s3
    let s5 := mcRunOn s4
    if codeword (now s) = codeword (now s + 1) then s5 else sendFrames s5

end Sys2Proof.Machine
end

