-- ==== Sys2Proof/Safety.lean ====
section
/-! DEFINITION. The terms claims use: runs, the canonical form of what a state stores by address, and the identity of the
module. -/

namespace Sys2Proof.Machine

open Sys2Proof

/-- What a state stores by address is in canonical form: device memory, host memory and the registers. -/
structure Canonical (s : State) : Prop where
  mem : Memory.wf s.mem = true
  host : Memory.wf s.host = true
  regs : tblWf (regDefault s.variant) s.regs = true

/-- The two states are of one module (R6, R8, R501): its variant, its serial number, its fused key hashes and its device secret. -/
structure SameModule (s t : State) : Prop where
  variant : t.variant = s.variant
  serial : t.serial = s.serial
  keys : t.mc.keys = s.mc.keys
  secret : t.mc.secret = s.mc.secret

/-- A run: any number of steps, each of which answers a next state. -/
inductive Runs : State → State → Prop where
  | refl (s : State) : Runs s s
  | step {s t u : State} : Runs s t → step t = .next u → Runs s u

/-- The parts of a state. -/
inductive Part where
  | pending | variant | serial | regs | hostRead | absentAssays | disableChecks | tb | tally | mem | poison
  | wraps | host | vb | hs | reply | rem | led | eng | vq | frags | splitUse | hi | esc | dir | fab | mc | pw
  | flashDue | locks | freeCtr
  deriving DecidableEq, Repr

/-- A part is the same in two states. -/
def Part.same (s t : State) : Part → Prop
  | .pending => t.pending = s.pending
  | .variant => t.variant = s.variant
  | .serial => t.serial = s.serial
  | .regs => t.regs = s.regs
  | .hostRead => t.hostRead = s.hostRead
  | .absentAssays => t.absentAssays = s.absentAssays
  | .disableChecks => t.disableChecks = s.disableChecks
  | .tb => t.tb = s.tb
  | .tally => t.tally = s.tally
  | .mem => t.mem = s.mem
  | .poison => t.poison = s.poison
  | .wraps => t.wraps = s.wraps
  | .host => t.host = s.host
  | .vb => t.vb = s.vb
  | .hs => t.hs = s.hs
  | .reply => t.reply = s.reply
  | .rem => t.rem = s.rem
  | .led => t.led = s.led
  | .eng => t.eng = s.eng
  | .vq => t.vq = s.vq
  | .frags => t.frags = s.frags
  | .splitUse => t.splitUse = s.splitUse
  | .hi => t.hi = s.hi
  | .esc => t.esc = s.esc
  | .dir => t.dir = s.dir
  | .fab => t.fab = s.fab
  | .mc => t.mc = s.mc
  | .pw => t.pw = s.pw
  | .flashDue => t.flashDue = s.flashDue
  | .locks => t.locks = s.locks
  | .freeCtr => t.freeCtr = s.freeCtr

/-- Nothing but the listed parts differs between two states. -/
def Only (ps : List Part) (s t : State) : Prop := ∀ p, p ∉ ps → p.same s t

/-- Every register reads as before, but for those listed: offsets by page. -/
def RegsKept (changed : List (UnitId × List Nat)) (s t : State) : Prop :=
  ∀ u off, isUnit u = true → off < 0x1000 → (∀ e ∈ changed, e.1 = u → off ∉ e.2) → getReg t u off = getReg s u off
/-- Commands whose effect may store to device memory, on some states and operands, or restart the device. -/
def storesMem : Instr → Bool
  | .resetComplete .. | .cxlMemRead .. | .cxlMemWrite .. | .auxPowerLoss .. | .pwrGoodDeassert .. | .p54Undervoltage ..
  | .p54Overvoltage .. | .perstRelease .. | .perstAssert .. | .cxlReset .. | .imageVerify .. | .memoryTraining ..
  | .profileApply .. | .bootRestart .. | .bootWatchdog .. | .admission .. | .tableSwitch .. | .ctxSet ..
  | .taskDispatch .. | .taskComplete .. | .matmul .. | .pin .. | .rowTileCheck .. | .residueRecompute ..
  | .partnerRun .. | .convert .. | .prune24 .. | .compress .. | .decompress .. | .gather .. | .poolSum ..
  | .poolMean .. | .unique .. | .scatter .. | .coalesceProbe .. | .coalesceEntryFilled .. | .fragmentTake ..
  | .splitSlotDecrement .. | .reduce .. | .predict .. | .run .. | .wpool .. | .endMarker .. | .nop .. | .setvl ..
  | .ldi .. | .laneid .. | .flagrd .. | .summ .. | .ld .. | .st .. | .ldx .. | .stx .. | .stxadd .. | .accrd ..
  | .fadd .. | .fsub .. | .fmul .. | .fma .. | .fmin .. | .fmax .. | .fabs .. | .fneg .. | .fdiv .. | .fsqrt ..
  | .fcmp .. | .sel .. | .exp .. | .exp2 .. | .log .. | .log2 .. | .rcp .. | .rsqrt .. | .tanh .. | .sigmoid ..
  | .erf .. | .iadd .. | .isub .. | .imul .. | .imin .. | .imax .. | .and .. | .or .. | .xor .. | .shl .. | .shr ..
  | .sra .. | .icmp .. | .cvtfi .. | .cvtif .. | .qnt .. | .perm .. | .cmprs .. | .expnd .. | .scan .. | .red ..
  | .smax .. | .exchange .. | .migrate .. | .allReduce .. | .allGather .. | .reduceScatter .. | .barrier ..
  | .readReq .. | .writeReq .. | .exchData .. | .rts .. | .cts .. | .collData .. | .collAck .. | .commitVote ..
  | .commitCommit .. | .commitAbort .. | .replicaInstall .. | .stackAccess .. | .vaultAccess .. | .accumulate ..
  | .cacheAccess .. | .mergeDrain .. | .sensorSample .. | .thermalTrip .. | .drainComplete .. | .restore ..
  | .diagnosis .. | .loopbackSelftest .. | .mcFirmwareWatchdog .. => true
  | .registerWrite .. | .badAccess .. | .rcRead .. | .assay .. | .disableCheck .. | .assayDone .. | .reset ..
  | .timeLatch .. | .load .. | .compareWrite .. | .compare .. | .syncInterval .. | .holdover .. | .tallyWrite ..
  | .tallyUpdate .. | .tallySnapshot .. | .snapValid .. | .clearAll .. | .clearComplete .. | .tblQuery ..
  | .tblQueryDone .. | .invalidate .. | .invDone .. | .retrain .. | .read .. | .write .. | .stage ..
  | .discardStaged .. | .undefinedEntryOp .. | .flush .. | .enable .. | .disable .. | .sqTail .. | .cqHead ..
  | .errHead .. | .msixUnmask .. | .decoderCommit .. | .epochStart .. | .epochStop .. | .close .. | .cfgLock ..
  | .updateBegin .. | .updateData .. | .updateEnd .. | .updateAbort .. | .profileWrite .. | .profileSelectNext ..
  | .profileRead .. | .clearBootCount .. | .enterStrongbox .. | .fuseSvn .. | .revokeSlot .. | .diagTrain ..
  | .diagPort .. | .recordRead .. | .undefinedMcOp .. | .mctpRequest .. | .sessionTimeout .. | .doeObject ..
  | .ideFail .. | .submissionLineSnoop .. | .auxPowerUp .. | .pwrGood .. | .functionLevelReset .. | .cxlLinkTrained ..
  | .deviceReady .. | .recordWrite .. | .compaction .. | .descriptorFetch .. | .join .. | .mark .. | .cond ..
  | .retry .. | .delayTick .. | .deadlineExpiry .. | .completionRecord .. | .statusLineWrite .. | .ringCoalesce ..
  | .errorRecord .. | .tableDrained .. | .tileHandoff .. | .redResult .. | .peerStall .. | .batchNs .. | .rtsRetry ..
  | .readRsp .. | .writeAck .. | .exchAck .. | .commitStart .. | .slow .. | .sync .. | .delayReq .. | .delayRsp ..
  | .inval .. | .invalAck .. | .dataFrame .. | .idleFrame .. | .identityFrame .. | .linkTraining .. | .linkSilence ..
  | .retrainingComplete .. | .serWindow .. | .laneRepair .. | .scrubRead .. | .rowRemap .. | .pageRetire ..
  | .cacheFill .. | .powerMeasure .. | .capStep .. | .juncThrottle .. | .capUnmet .. | .ccWatchdog ..
  | .closeInstant .. | .faultReport .. | .fabricDrain .. | .resumeLimit .. | .p54WithinRange .. | .lossOfDeskew ..
  | .lossOfLock .. => false

/-- Commands whose effect may write host memory, on some states and operands. -/
def writesHost : Instr → Bool
  | .updateBegin .. | .updateData .. | .updateEnd .. | .updateAbort .. | .profileWrite .. | .profileSelectNext ..
  | .profileRead .. | .clearBootCount .. | .enterStrongbox .. | .fuseSvn .. | .revokeSlot .. | .diagTrain ..
  | .diagPort .. | .recordRead .. | .undefinedMcOp .. | .mctpRequest .. | .submissionLineSnoop ..
  | .completionRecord .. | .statusLineWrite .. | .errorRecord .. => true
  | .registerWrite .. | .badAccess .. | .rcRead .. | .assay .. | .disableCheck .. | .assayDone .. | .reset ..
  | .resetComplete .. | .timeLatch .. | .load .. | .compareWrite .. | .compare .. | .syncInterval .. | .holdover ..
  | .tallyWrite .. | .tallyUpdate .. | .tallySnapshot .. | .snapValid .. | .clearAll .. | .clearComplete ..
  | .tblQuery .. | .tblQueryDone .. | .invalidate .. | .invDone .. | .retrain .. | .read .. | .write .. | .stage ..
  | .discardStaged .. | .undefinedEntryOp .. | .flush .. | .enable .. | .disable .. | .sqTail .. | .cqHead ..
  | .errHead .. | .msixUnmask .. | .decoderCommit .. | .epochStart .. | .epochStop .. | .close .. | .cfgLock ..
  | .sessionTimeout .. | .doeObject .. | .ideFail .. | .cxlMemRead .. | .cxlMemWrite .. | .auxPowerUp ..
  | .auxPowerLoss .. | .pwrGood .. | .pwrGoodDeassert .. | .p54Undervoltage .. | .p54Overvoltage .. | .perstRelease ..
  | .perstAssert .. | .cxlReset .. | .functionLevelReset .. | .cxlLinkTrained .. | .imageVerify .. | .memoryTraining ..
  | .profileApply .. | .deviceReady .. | .bootRestart .. | .bootWatchdog .. | .recordWrite .. | .compaction ..
  | .descriptorFetch .. | .admission .. | .tableSwitch .. | .ctxSet .. | .join .. | .mark .. | .cond .. | .retry ..
  | .delayTick .. | .deadlineExpiry .. | .taskDispatch .. | .taskComplete .. | .ringCoalesce .. | .tableDrained ..
  | .matmul .. | .pin .. | .rowTileCheck .. | .residueRecompute .. | .partnerRun .. | .convert .. | .prune24 ..
  | .compress .. | .decompress .. | .gather .. | .poolSum .. | .poolMean .. | .unique .. | .scatter ..
  | .coalesceProbe .. | .coalesceEntryFilled .. | .fragmentTake .. | .splitSlotDecrement .. | .reduce .. | .predict ..
  | .run .. | .wpool .. | .tileHandoff .. | .endMarker .. | .nop .. | .setvl .. | .ldi .. | .laneid .. | .flagrd ..
  | .summ .. | .ld .. | .st .. | .ldx .. | .stx .. | .stxadd .. | .accrd .. | .fadd .. | .fsub .. | .fmul .. | .fma ..
  | .fmin .. | .fmax .. | .fabs .. | .fneg .. | .fdiv .. | .fsqrt .. | .fcmp .. | .sel .. | .exp .. | .exp2 ..
  | .log .. | .log2 .. | .rcp .. | .rsqrt .. | .tanh .. | .sigmoid .. | .erf .. | .iadd .. | .isub .. | .imul ..
  | .imin .. | .imax .. | .and .. | .or .. | .xor .. | .shl .. | .shr .. | .sra .. | .icmp .. | .cvtfi .. | .cvtif ..
  | .qnt .. | .perm .. | .cmprs .. | .expnd .. | .scan .. | .red .. | .redResult .. | .smax .. | .exchange ..
  | .migrate .. | .allReduce .. | .allGather .. | .reduceScatter .. | .barrier .. | .peerStall .. | .batchNs ..
  | .rtsRetry .. | .readReq .. | .readRsp .. | .writeReq .. | .writeAck .. | .exchData .. | .exchAck .. | .rts ..
  | .cts .. | .collData .. | .collAck .. | .commitVote .. | .commitCommit .. | .commitAbort .. | .commitStart ..
  | .slow .. | .sync .. | .delayReq .. | .delayRsp .. | .inval .. | .invalAck .. | .replicaInstall .. | .dataFrame ..
  | .idleFrame .. | .identityFrame .. | .linkTraining .. | .linkSilence .. | .retrainingComplete .. | .serWindow ..
  | .laneRepair .. | .stackAccess .. | .scrubRead .. | .rowRemap .. | .pageRetire .. | .vaultAccess .. | .accumulate ..
  | .cacheAccess .. | .cacheFill .. | .mergeDrain .. | .sensorSample .. | .thermalTrip .. | .powerMeasure ..
  | .capStep .. | .juncThrottle .. | .capUnmet .. | .ccWatchdog .. | .closeInstant .. | .drainComplete ..
  | .faultReport .. | .fabricDrain .. | .restore .. | .diagnosis .. | .resumeLimit .. | .p54WithinRange ..
  | .lossOfDeskew .. | .lossOfLock .. | .loopbackSelftest .. | .mcFirmwareWatchdog .. => false

end Sys2Proof.Machine
end

