-- ==== Sys2Proof/Certificates/Slice0/Obligations.lean ====
section
/-! DEFINITION. The statements about the block that the provers are asked to settle. Each docstring names the rules of the
spec it comes from. -/

open Sys2Proof Sys2Proof.Machine

/-- When a command stands at the front of the queue, a step is exec of that command on the state with the rest of the queue.
(00_scope.md) -/
def Obligations.StepRunsFront : Prop :=
  ∀ (c : Instr) (rest : List Instr) (s : State), s.pending = c :: rest → Machine.step s = Machine.exec c { s with pending := rest }

/-- On an empty queue a step answers the tick, one nanosecond of device time (the model's choice, log entry 4): TIME is one
nanosecond further in the next state (wrapping at 2^64), and without the auxiliary supply the state is unchanged. (R80,
02_register_pages.md) -/
def Obligations.IdleStepTicks : Prop :=
  ∀ s : State, s.pending = [] →
    ∃ t, Machine.step s = .next t ∧ (s.pw.auxUp = false → t = s) ∧
      (s.pw.auxUp = true → t.tb.time = (s.tb.time + 1) % 2 ^ 64)

/-- In the reset state no command waits, and device memory, host memory and the registers are in canonical form. Every page
reads CTRL, ASSAY, ERR_SUMMARY, INT_STATUS, INT_MASK and ERR_COUNT as 0, so that no block is enabled, no check has finished
and no interrupt is enabled; TB SYNC_CFG holds INTERVAL 125, ALARM_NS 20 and ROLE 0, and TB ERR_EST 0xFFFF. (R55, R60, R61,
R62, R69, R79) -/
def Obligations.ResetState : Prop :=
  State.reset.pending = [] ∧ Canonical State.reset ∧
    (∀ u off, isUnit u = true → off ∈ [0x10, 0x20, 0x28, 0x30, 0x38, 0x40] → getReg State.reset u off = 0) ∧
    getF State.reset unitTB 0x120 31 16 = 125 ∧ getF State.reset unitTB 0x120 15 8 = 20 ∧ getF State.reset unitTB 0x120 1 0 = 0 ∧
    getF State.reset unitTB 0x140 15 0 = 0xFFFF

/-- Whatever command a step runs, and whatever a tick does: if device memory, host memory and the registers are in canonical
form before the step (addresses strictly rising, no entry equal to what an unlisted address reads as), they are after it.
(02_register_pages.md, 10_vault_hbm.md) -/
def Obligations.StepKeepsCanonical : Prop :=
  ∀ s t : State, Canonical s → Machine.step s = .next t → Canonical t

/-- No step changes what a module is: its variant, its serial number, its fused key hashes and its device secret (R6, R8,
R501). A step leaves of the queue all but the command it ran. (R6, R8, R501) -/
def Obligations.StepKeepsModule : Prop :=
  ∀ s t : State, Machine.step s = .next t → SameModule s t ∧ t.pending = s.pending.tail

/-- A command that is not among those that write device memory or restart the device (storesMem) leaves every byte of device
memory as it was; one that is not among those that write host memory (writesHost: records, status lines, error records,
buffers of management commands, and the host's own write) leaves every byte of host memory as it was. (10_vault_hbm.md,
13_host_interface.md) -/
def Obligations.MemoryFrames : Prop :=
  ∀ (c : Instr) (s t : State), Machine.exec c s = .next t →
    (storesMem c = false → ∀ a, rawByte t a = rawByte s a) ∧ (writesHost c = false → ∀ a, hostByte t a = hostByte s a)

/-! ### Registers and checks -/

/-- While BAR0 answers, an access that is malformed (neither 64 bits aligned to 8 bytes nor 32 bits aligned to 4) or whose
address is reserved completes: a read returns 0, a write is ignored. Either sets DEV ERR_SUMMARY BAD_ACCESS and records
whether it was a write, its size code and its offset in DEV BAD_ACCESS_ADDR. Nothing else changes but DEV INT_STATUS ERROR
with the interrupt it may raise. The same holds when the access comes as RC_READ or REGISTER_WRITE. While BAR0 answers, a
64-bit read of ERR_COUNT of a present unit returns both counts and clears both; a 32-bit read of either half returns that
half's count and clears only it. No other register changes. (R46, R47, R78, R17, R50, R62) -/
def Obligations.AccessesAreAnsweredOrRecorded : Prop :=
  (∀ (s : State) (write : Bool) (off size val : Nat), linkUp s = true → (wellAligned off size = false ∨ answers off = false) →
      ∃ t, Machine.exec (.badAccess write off size) s = .next t ∧
        Machine.exec (if write then .registerWrite off size val else .rcRead off size) s = .next t ∧
        getF t unitDEV 0x28 16 16 = 1 ∧ getF t unitDEV 0x158 29 29 = bit write ∧ getF t unitDEV 0x158 28 26 = sizeCode size ∧
        getF t unitDEV 0x158 25 0 = off % 2 ^ 26 ∧ t.hostRead = (if write then s.hostRead else 0) ∧
        RegsKept [(unitDEV, [0x28, 0x30, 0x158])] s t ∧ Only [.regs, .hi, .hostRead] s t) ∧
  (∀ (s : State) (u : UnitId), linkUp s = true → present s u = true →
      (∃ t, Machine.exec (.rcRead (pageOf u + 0x40) 8) s = .next t ∧ t.hostRead = getReg s u 0x40 ∧ getReg t u 0x40 = 0 ∧
        RegsKept [(u, [0x40])] s t ∧ Only [.regs, .hostRead] s t) ∧
      (∃ t, Machine.exec (.rcRead (pageOf u + 0x40) 4) s = .next t ∧ t.hostRead.toNat = getF s u 0x40 31 0 ∧
        getF t u 0x40 31 0 = 0 ∧ getF t u 0x40 63 32 = getF s u 0x40 63 32 ∧ RegsKept [(u, [0x40])] s t ∧
        Only [.regs, .hostRead] s t) ∧
      (∃ t, Machine.exec (.rcRead (pageOf u + 0x44) 4) s = .next t ∧ t.hostRead.toNat = getF s u 0x40 63 32 ∧
        getF t u 0x40 63 32 = 0 ∧ getF t u 0x40 31 0 = getF s u 0x40 31 0 ∧ RegsKept [(u, [0x40])] s t ∧
        Only [.regs, .hostRead] s t))

/-- A 64-bit write to a register without behaviour of its own, on a present page that takes writes (an engine's, a ledger's,
a codec's, a port's but its CMD, or the power page's), gives every writable field that is not locked the bits written for it
and leaves every locked field as it was. ERR_SUMMARY LOCKED_WRITE is set after it exactly when it was set before or the
write carried for at least one locked field a value that differs from the field's own. (R59, R51) -/
def Obligations.PlainWriteActsFieldByField : Prop :=
  ∀ (s : State) (u : UnitId) (off v : Nat), commandable s u = true → off < 0x1000 → off % 8 = 0 → 0x100 ≤ off → v < 2 ^ 64 →
    u.ty ∈ [0x01, 0x03, 0x04, 0x05, 0x06, 0x07, 0x08, 0x09, 0x0D, 0x0E, 0x25] →
    ∃ t, Machine.exec (.registerWrite (pageOf u + off) 8 v) s = .next t ∧
      (∀ f ∈ fieldsAt u.ty off, f.acc = .rw →
        getF t u off f.hi f.lo = if fieldLocked s u off f then getF s u off f.hi f.lo else natField v f.hi f.lo) ∧
      (getF t u 0x28 2 2 = 1 ↔ getF s u 0x28 2 2 = 1 ∨
        ∃ f ∈ fieldsAt u.ty off, f.acc = .rw ∧ fieldLocked s u off f = true ∧ getF s u off f.hi f.lo ≠ natField v f.hi f.lo) ∧
      RegsKept [(u, [off, 0x28, 0x30])] s t ∧ Only [.regs, .hi] s t

/-- On a present page that is neither DEV nor MC, in no reset and with no check running: writing ENABLE = 1 while it reads 0
starts an assay, and writing ENABLE = 0 while it reads 1 starts a disable check. STATUS ASSAY_BUSY then reads 1, ENABLE
reads as before, and no other register changes. When a check on a present page finishes, ASSAY_BUSY reads 0, SEQUENCE has
incremented (wrapping after 0xFFFF) and INT_STATUS ASSAY_DONE is set. With no finding the check passes: REASON reads 0 and
ENABLE reads 1 after an assay, 0 after a disable check. Otherwise it refuses: REASON is that of the finding R70 puts first,
ENABLE is as before, INT_STATUS ASSAY_REFUSED is set and DEV ASSAY_LAST holds the page's offset and the reason. In strongbox
mode an assay of a page other than DEV, MC, PW and TB refuses with reason 0x0701. (R56, R65, R69, R70, R72, R78) -/
def Obligations.ChecksStartAndFinish : Prop :=
  (∀ (s : State) (u : UnitId), linkUp s = true → present s u = true → u ≠ unitDEV → u ≠ unitMC → resetting s u = false →
      assayBusy s u = false →
      (enabled s u = false → ∃ t, Machine.exec (.assay u) s = .next t ∧ assayBusy t u = true ∧ enabled t u = false ∧
        RegsKept [(u, [0x18])] s t ∧ Only [.regs] s t) ∧
      (enabled s u = true → ∃ t, Machine.exec (.disableCheck u) s = .next t ∧ assayBusy t u = true ∧ enabled t u = true ∧
        t.disableChecks = u :: s.disableChecks ∧ RegsKept [(u, [0x18])] s t ∧
        Only [.regs, .disableChecks] s t)) ∧
  (∀ (s : State) (u : UnitId), present s u = true → assayBusy s u = true →
      ∃ t, Machine.exec (.assayDone u) s = .next t ∧ assayBusy t u = false ∧
        getF t u 0x20 31 16 = (getF s u 0x20 31 16 + 1) % 2 ^ 16 ∧ getF t u 0x30 0 0 = 1 ∧
        (let off := s.disableChecks.contains u
         let fs := if off then disableFindings s u else assayFindings s u
         (fs = [] → getF t u 0x20 15 0 = 0 ∧ enabled t u = !off) ∧
         (fs ≠ [] → ∃ f ∈ fs, (∀ g ∈ fs, findingRank f ≤ findingRank g) ∧ getF t u 0x20 15 0 = f.reason % 2 ^ 16 ∧
           enabled t u = enabled s u ∧ getF t u 0x30 1 1 = 1 ∧ getF t unitDEV 0x150 57 32 = pageOf u ∧
           getF t unitDEV 0x150 15 0 = f.reason % 2 ^ 16 ∧
           RegsKept [(u, [0x18, 0x20, 0x30]), (unitDEV, [0x150])] s t) ∧
         (strongbox s = true → off = false → u ∉ [unitDEV, unitMC, unitPW, unitTB] → getF t u 0x20 15 0 = 0x0701 ∧
           enabled t u = enabled s u)))

/-- RESET written to a present page (neither DEV nor MC) in no reset and with no check running: while ENABLE reads 1, or
while a lock group of the profile holds the page, it only sets ERR_SUMMARY LOCKED_WRITE; otherwise CTRL RESET reads 1. When
the reset completes, every register of an engine's, ledger's, control core's, escrow or power page reads its reset value,
but for those R57 keeps, and STATUS RETIRED reads as before. No other page changes. A reset of an engine leaves it no
recorded context and, of device memory, clears only an array's pinned area or a vector engine's scratch area at its
behaviour level. (R57, R163, R258, R325, R512) -/
def Obligations.BlockReset : Prop :=
  (∀ (s : State) (u : UnitId), linkUp s = true → present s u = true → u ≠ unitDEV → u ≠ unitMC → resetting s u = false →
    assayBusy s u = false →
    ∃ t, Machine.exec (.reset u) s = .next t ∧
      (enabled s u = true ∨ pageLocked s u = true → getF t u 0x28 2 2 = 1 ∧ resetting t u = false ∧
        RegsKept [(u, [0x28, 0x30])] s t) ∧
      (enabled s u = false → pageLocked s u = false → resetting t u = true ∧ getReg t u 0x38 = 0 ∧
        RegsKept [(u, [0x10, 0x38])] s t)) ∧
  (∀ (s : State) (u : UnitId), present s u = true → resetting s u = true →
    u.ty ∈ [0x02, 0x03, 0x04, 0x05, 0x06, 0x07, 0x08, 0x09, 0x0B, 0x0D, 0x0E, 0x25] →
    ∃ t, Machine.exec (.resetComplete u) s = .next t ∧ resetting t u = false ∧ retired t u = retired s u ∧
      (∀ off, off < 0x1000 → off ≠ 0x18 →
        getReg t u off = if keptByReset u off then getReg s u off else regReset s.variant u off) ∧
      (∀ u' off, isUnit u' = true → off < 0x1000 → u' ≠ u → getReg t u' off = getReg s u' off)) ∧
  (∀ (s : State) (u : UnitId), present s u = true → resetting s u = true → 1 ≤ u.ty → u.ty ≤ 8 →
    let inside (lo hi a : Nat) : Prop := tileAddr u lo ≤ a ∧ a < tileAddr u hi
    ∃ t, Machine.exec (.resetComplete u) s = .next t ∧ (engOf t u).ctx = none ∧
      (∀ a, (u.ty = 1 ∧ inside 0x280000 0x400000 a) ∨ (u.ty = 3 ∧ inside 0x80000 0x400000 a) ∨
          (u.ty = 3 ∧ behaviourLevel s = 2 ∧ inside 0x10000 0x50000 a) → rawByte t a = 0) ∧
      (∀ a, ¬((u.ty = 1 ∧ inside 0x280000 0x400000 a) ∨ (u.ty = 3 ∧ inside 0x80000 0x400000 a) ∨
          (u.ty = 3 ∧ behaviourLevel s = 2 ∧ inside 0x10000 0x50000 a)) → rawByte t a = rawByte s a))

/-! ### Time -/

/-- A LOAD of a page that takes writes: while TB ENABLE reads 0, TIME becomes SET_VALUE, whether that lies before or after
the present TIME; while ENABLE reads 1 it is ignored and sets ERR_SUMMARY LOCKED_WRITE. (R81) -/
def Obligations.LoadMovesTimeOnlyWhileDisabled : Prop :=
  ∀ s : State, commandable s unitTB = true →
    ∃ t, Machine.exec .load s = .next t ∧
      (enabled s unitTB = false → t.tb.time = (getReg s unitTB 0x110).toNat) ∧
      (enabled s unitTB = true → t.tb = s.tb ∧ getF t unitTB 0x28 2 2 = 1 ∧ RegsKept [(unitTB, [0x28, 0x30])] s t ∧
        Only [.regs, .hi] s t)

/-- While BAR0 answers, a 32-bit read of TIME [31:0] returns the low half and copies TIME [63:32] of the same instant into
TIME_LATCH_HI; a 32-bit read of TIME [63:32] returns the current high half and latches nothing. Neither changes anything
else. (R83) -/
def Obligations.TimeLatchCopiesHighHalf : Prop :=
  ∀ s : State, linkUp s = true → s.tb.time < 2 ^ 64 →
    (∃ t, Machine.exec .timeLatch s = .next t ∧ Machine.exec (.rcRead (pageOf unitTB + 0x100) 4) s = .next t ∧
      t.hostRead.toNat = s.tb.time % 2 ^ 32 ∧ (getReg t unitTB 0x108).toNat = s.tb.time / 2 ^ 32 ∧
      RegsKept [(unitTB, [0x108])] s t ∧ Only [.regs, .hostRead] s t) ∧
    (∃ t, Machine.exec (.rcRead (pageOf unitTB + 0x104) 4) s = .next t ∧ t.hostRead.toNat = s.tb.time / 2 ^ 32 ∧
      Only [.hostRead] s t)

/-- A write of COMPARE to a page that takes writes stores the value. 0 disables the compare. A value at or below TIME sets
INT_STATUS COMPARE at once and leaves the compare unarmed; a later one arms it without an event. When TIME reaches an armed
COMPARE, INT_STATUS COMPARE sets and the compare is no longer armed, so that it does not set again; an unarmed compare does
nothing. On an enabled follower HOLDOVER sets SYNC_STATUS HOLDOVER; TIME is not below the instant four intervals after the
last sync message and never steps back; the error bound does not shrink, LOCKED reads 1 exactly while it is at most
ALARM_NS, and a bound that has risen above ALARM_NS after lock sets ALARM. (R84, R82, R421) -/
def Obligations.ComparesAndHoldover : Prop :=
  ((∀ (s : State) (v : Nat), commandable s unitTB = true → v < 2 ^ 64 →
      ∃ t, Machine.exec (.compareWrite v) s = .next t ∧ (getReg t unitTB 0x150).toNat = v ∧ t.tb.time = s.tb.time ∧
        (t.tb.armed = true ↔ s.tb.time < v) ∧
        (0 < v → v ≤ s.tb.time → getF t unitTB 0x30 16 16 = 1) ∧
        (v = 0 ∨ s.tb.time < v → getReg t unitTB 0x30 = getReg s unitTB 0x30) ∧
        RegsKept [(unitTB, [0x150, 0x30])] s t ∧ Only [.regs, .tb, .hi] s t) ∧
    (∀ s : State, s.tb.armed = true → s.tb.time < (getReg s unitTB 0x150).toNat →
      ∃ t, Machine.exec .compare s = .next t ∧ getF t unitTB 0x30 16 16 = 1 ∧ t.tb.armed = false ∧
        t.tb.time = (getReg s unitTB 0x150).toNat ∧ RegsKept [(unitTB, [0x30])] s t ∧
        Only [.regs, .tb, .hi] s t ∧ Machine.exec .compare t = .next t)) ∧
  (∀ (s : State) (e : Nat), enabled s unitTB = true → getF s unitTB 0x120 1 0 = 2 → s.tb.time < 2 ^ 64 →
      s.tb.lastSync + 4 * (getF s unitTB 0x120 31 16 * 1000) < 2 ^ 64 →
      ∃ t, Machine.exec (.holdover e) s = .next t ∧ getF t unitTB 0x130 1 1 = 1 ∧
        t.tb.time = max s.tb.time (s.tb.lastSync + 4 * (getF s unitTB 0x120 31 16 * 1000)) ∧
        getF t unitTB 0x140 15 0 = min (max e (getF s unitTB 0x140 15 0)) 0xFFFF ∧
        (getF t unitTB 0x130 0 0 = 1 ↔ max e (getF s unitTB 0x140 15 0) ≤ getF s unitTB 0x120 15 8) ∧
        (s.tb.lockedOnce = true → getF s unitTB 0x120 15 8 < max e (getF s unitTB 0x140 15 0) → getF t unitTB 0x130 3 3 = 1) ∧
        RegsKept [(unitTB, [0x30, 0x130, 0x140])] s t ∧ Only [.regs, .tb, .hi] s t)

/-! ### Tallies -/

/-- While BAR0 answers, outside strongbox mode and with no clear running, a write of W0, W1 or W2 of a slot other than the
null slot stores the value in the live view; a write of W3 gives KIND and SCALE their values in both views, and in the live
view clears MISMATCH and SAT where it carries a 1 and keeps EPOCH. Every other word and slot of both views stays, and
nothing outside the tally store changes. A write to the null slot changes nothing. (R85, R86, R90) -/
def Obligations.TallyWritesChangeOneWord : Prop :=
  ∀ (s : State) (n w v : Nat), linkUp s = true → strongbox s = false → s.tally.clearing = false → n < 65536 → w < 4 → v < 2 ^ 64 →
    ∃ t, Machine.exec (.tallyWrite n w v) s = .next t ∧ Only [.tally] s t ∧
      (∀ m, m ≠ n → slotOf t.tally.live m = slotOf s.tally.live m ∧ slotOf t.tally.committed m = slotOf s.tally.committed m) ∧
      (n = 0 → t = s) ∧
      (0 < n →
        let a := slotOf s.tally.live n
        let b := slotOf t.tally.live n
        let c := slotOf s.tally.committed n
        let d := slotOf t.tally.committed n
        (w = 0 → b = { a with w0 := v } ∧ d = c) ∧ (w = 1 → b = { a with w1 := v } ∧ d = c) ∧
        (w = 2 → b = { a with w2 := v } ∧ d = c) ∧
        (w = 3 → b = { a with w3 := b.w3 } ∧ d = { c with w3 := d.w3 } ∧ field b.w3 15 0 = v % 2 ^ 16 ∧
          field d.w3 15 0 = v % 2 ^ 16 ∧ field d.w3 63 16 = field c.w3 63 16 ∧ field b.w3 63 32 = field a.w3 63 32 ∧
          (field b.w3 16 16 = 1 ↔ field a.w3 16 16 = 1 ∧ v.testBit 16 = false) ∧
          (field b.w3 17 17 = 1 ↔ field a.w3 17 17 = 1 ∧ v.testBit 17 = false)))

/-- With no clear running, an update to the null slot changes nothing. An update whose kind is not the slot's, or to a slot
of kind 0, is discarded: it sets MISMATCH in W3 and DEV ERR_SUMMARY TALLY_KIND. A matching one adds its count to W0; for
kind 2 it adds its two quantities, in units of the slot's scale, to W1 and W2; for kind 3 it replaces W1 and W2 by its value
and element when that value is not below W1. The words stop at 2^64 - 1, which sets SAT and DEV ERR_SUMMARY TALLY_SAT. An
applied update stamps the epoch. Every other slot, and the committed view, stays. (R85, R86, R87, R88, R89) -/
def Obligations.TallyUpdateMatchesKind : Prop :=
  ∀ (s : State) (u : TallyUpd), s.tally.clearing = false → u.slot < 65536 →
    ∃ t, Machine.exec (.tallyUpdate u) s = .next t ∧ Only [.regs, .hi, .tally] s t ∧ RegsKept [(unitDEV, [0x28, 0x30])] s t ∧
      t.tally.committed = s.tally.committed ∧ (∀ m, m ≠ u.slot → slotOf t.tally.live m = slotOf s.tally.live m) ∧
      (u.slot = 0 → t = s) ∧
      (u.slot ≠ 0 →
        let a := slotOf s.tally.live u.slot
        let b := slotOf t.tally.live u.slot
        let x := toUnits u.a (slotScale a)
        let y := toUnits u.b (slotScale a)
        ((u.kind ≠ slotKind a ∨ u.kind = 0 ∨ 3 < u.kind) →
          b = { a with w3 := b.w3 } ∧ field b.w3 17 17 = 1 ∧ getF t unitDEV 0x28 17 17 = 1) ∧
        (u.kind = slotKind a → 1 ≤ u.kind → u.kind ≤ 3 →
          b.w0 = min (a.w0 + u.count) (2 ^ 64 - 1) ∧ field b.w3 63 32 = openEpoch s % 2 ^ 32 ∧ field b.w3 15 0 = field a.w3 15 0 ∧
          (u.kind = 1 → b.w1 = a.w1 ∧ b.w2 = a.w2) ∧
          (u.kind = 2 → b.w1 = min (a.w1 + x) (2 ^ 64 - 1) ∧ b.w2 = min (a.w2 + y) (2 ^ 64 - 1)) ∧
          (u.kind = 3 → (a.w1 ≤ min x (2 ^ 64 - 1) → b.w1 = min x (2 ^ 64 - 1) ∧ b.w2 = u.ident % 2 ^ 64) ∧
            (min x (2 ^ 64 - 1) < a.w1 → b.w1 = a.w1 ∧ b.w2 = a.w2)) ∧
          (2 ^ 64 - 1 < a.w0 + u.count → field b.w3 16 16 = 1 ∧ getF t unitDEV 0x28 18 18 = 1)))

/-- While BAR0 answers, a write of TALLY_SNAP_IDX names the slot and clears SNAP_VALID. When the snapshot completes with no
clear running, TALLY_SNAP_W0 to W3 hold the four words of that slot of the live view and SNAP_VALID sets. (R92) -/
def Obligations.TallySnapshotIsCoherent : Prop :=
  (∀ (s : State) (n : Nat), linkUp s = true → n < 65536 →
    ∃ t, Machine.exec (.tallySnapshot n) s = .next t ∧ t.tally.snap = some n ∧ getF t unitDEV 0x188 15 0 = n ∧
      getF t unitDEV 0x188 63 63 = 0 ∧ RegsKept [(unitDEV, [0x188])] s t ∧ Only [.regs, .tally] s t) ∧
  (∀ (s : State) (n : Nat), s.tally.snap = some n → s.tally.clearing = false →
    ∃ t, Machine.exec .snapValid s = .next t ∧ t.tally.snap = none ∧ getF t unitDEV 0x188 63 63 = 1 ∧
      (let a := slotOf s.tally.live n
       getReg t unitDEV 0x190 = BitVec.ofNat 64 a.w0 ∧ getReg t unitDEV 0x198 = BitVec.ofNat 64 a.w1 ∧
       getReg t unitDEV 0x1A0 = BitVec.ofNat 64 a.w2 ∧ getReg t unitDEV 0x1A8 = a.w3) ∧
      t.tally.live = s.tally.live ∧ RegsKept [(unitDEV, [0x188, 0x190, 0x198, 0x1A0, 0x1A8])] s t ∧ Only [.regs, .tally] s t)

/-- While BAR0 answers, CLEAR_ALL starts a clear, shown by TALLY_CTRL bit 1; while one runs it only sets LOCKED_WRITE. While
a clear runs an update is held and changes no slot. When it completes, every slot of both views is zero and then the held
updates are applied in the order in which they arrived. (R93) -/
def Obligations.TallyClearHoldsUpdates : Prop :=
  (∀ s : State, linkUp s = true →
    ∃ t, Machine.exec .clearAll s = .next t ∧
      (s.tally.clearing = false → t.tally = { s.tally with clearing := true } ∧ getF t unitDEV 0x180 1 1 = 1 ∧
        RegsKept [(unitDEV, [0x180])] s t) ∧
      (s.tally.clearing = true → t.tally = s.tally ∧ getF t unitDEV 0x28 2 2 = 1 ∧ RegsKept [(unitDEV, [0x28, 0x30])] s t)) ∧
  (∀ (s : State) (u : TallyUpd), s.tally.clearing = true →
    ∃ t, Machine.exec (.tallyUpdate u) s = .next t ∧ t.tally = { s.tally with held := s.tally.held ++ [.update u] } ∧
      Only [.tally] s t) ∧
  (∀ (s : State) (us : List TallyUpd), s.tally.clearing = true → s.tally.held = us.map .update →
    ∃ t0, t0.tally.clearing = false ∧ (∀ n, slotOf t0.tally.live n = {} ∧ slotOf t0.tally.committed n = {}) ∧
      getF t0 unitDEV 0x180 1 1 = 0 ∧ Only [.regs, .tally] s t0 ∧ RegsKept [(unitDEV, [0x180])] s t0 ∧
      Machine.exec .clearComplete s = .next (us.foldl tallyUpdate t0))

/-! ### Tables, banks and the directory -/

/-- A write of TBL_QUERY on a present gather page that takes writes names the table and clears VALID. When the query
completes, the page's query registers show the entry: whether it has a current version, that version's base, number, rows
and row bytes, its reference count, how many versions drain, and VALID sets. No other register changes. INVALIDATE of a bank
whose page takes writes: while the bank is enabled it only sets LOCKED_WRITE; otherwise STATUS INVALIDATING reads 1. When
the invalidation completes the bank holds no line, TAGS_VALID and INVALIDATING read 0 and INT_STATUS INV_DONE is set; the
bytes of memory and the merging buffer stay. (R216, R364) -/
def Obligations.TableQueriesAndInvalidations : Prop :=
  (∀ (s : State) (g n : Nat), commandable s (unitGE g) = true → n < 1024 →
    ∃ t, Machine.exec (.tblQuery g n) s = .next t ∧ getF t (unitGE g) 0x180 63 63 = 0 ∧ getF t (unitGE g) 0x180 9 0 = n ∧
      RegsKept [(unitGE g, [0x180])] s t ∧ Only [.regs] s t) ∧
  (∀ (s : State) (g : Nat), present s (unitGE g) = true →
    ∃ t, Machine.exec (.tblQueryDone g) s = .next t ∧ getF t (unitGE g) 0x180 63 63 = 1 ∧
      (let e := tblEntry s (getF s (unitGE g) 0x180 9 0)
       getF t (unitGE g) 0x190 32 32 = bit e.current.isSome ∧ getF t (unitGE g) 0x1B8 49 48 = e.draining.length % 4 ∧
       ∀ v, e.current = some v →
        getReg t (unitGE g) 0x188 = BitVec.ofNat 64 v.base ∧ getF t (unitGE g) 0x190 63 48 = v.version % 2 ^ 16 ∧
        getF t (unitGE g) 0x190 31 0 = v.rows % 2 ^ 32 ∧ getReg t (unitGE g) 0x1A8 = BitVec.ofNat 64 v.rowBytes ∧
        getF t (unitGE g) 0x1B0 63 32 = v.refs % 2 ^ 32) ∧
      RegsKept [(unitGE g, [0x180, 0x188, 0x190, 0x1A0, 0x1A8, 0x1B0, 0x1B8])] s t ∧ Only [.regs] s t) ∧
  (∀ (s : State) (b : Nat), b < 16 → commandable s (unitVB b) = true →
    ∃ t, Machine.exec (.invalidate b) s = .next t ∧ Only [.regs, .hi] s t ∧
      (enabled s (unitVB b) = true → getF t (unitVB b) 0x28 2 2 = 1 ∧ RegsKept [(unitVB b, [0x28, 0x30])] s t) ∧
      (enabled s (unitVB b) = false → getF t (unitVB b) 0x18 24 24 = 1 ∧ RegsKept [(unitVB b, [0x18])] s t)) ∧
  (∀ (s : State) (b : Nat), b < 16 → getF s (unitVB b) 0x18 24 24 = 1 →
    ∃ t, Machine.exec (.invDone b) s = .next t ∧ (bankOf t b).lines = [] ∧ (bankOf t b).buf = (bankOf s b).buf ∧
      getF t (unitVB b) 0x18 25 24 = 0 ∧ getF t (unitVB b) 0x30 18 18 = 1 ∧ (∀ c, c ≠ b → bankOf t c = bankOf s c) ∧
      RegsKept [(unitVB b, [0x18, 0x30])] s t ∧ Only [.regs, .hi, .vb] s t)

/-- While the directory page takes writes: READ copies the two words of the entry ENTRY_IDX names and its load counters into
the entry registers, with DONE 1 and RESULT 0. DISCARD_STAGED empties the queue of staged changes, and STAGED and
STAGED_COUNT read 0. An OP of 0, 5, 6 or 7 changes nothing and completes with RESULT 3. None of them changes an entry.
REPL_CMD FLUSH frees every hot-row replica: the table is empty and REPL_VALID and REPL_FULL read 0. (R402, R404, R408, R425)
-/
def Obligations.DirectoryReadAndDiscard : Prop :=
  ∀ s : State, commandable s unitPD = true →
    (∃ t, Machine.exec .read s = .next t ∧
      (let e := dirEntry s (getF s unitPD 0x108 17 0)
       getReg t unitPD 0x110 = e.w0 ∧ getReg t unitPD 0x118 = e.w1 ∧ getF t unitPD 0x128 31 0 = e.cur % 2 ^ 32 ∧
       getF t unitPD 0x128 63 32 = e.last % 2 ^ 32) ∧
      getF t unitPD 0x120 63 63 = 1 ∧ getF t unitPD 0x120 11 8 = 0 ∧
      RegsKept [(unitPD, [0x110, 0x118, 0x120, 0x128])] s t ∧ Only [.regs] s t) ∧
    (∃ t, Machine.exec .discardStaged s = .next t ∧ t.fab.staged = [] ∧ getF t unitPD 0x18 16 16 = 0 ∧ getReg t unitPD 0x188 = 0 ∧
      getF t unitPD 0x120 63 63 = 1 ∧ getF t unitPD 0x120 11 8 = 0 ∧ RegsKept [(unitPD, [0x18, 0x120, 0x188])] s t ∧
      Only [.regs, .fab] s t) ∧
    (∀ op, op ∈ [0, 5, 6, 7] → ∃ t, Machine.exec (.undefinedEntryOp op) s = .next t ∧ getF t unitPD 0x120 63 63 = 1 ∧
      getF t unitPD 0x120 11 8 = 3 ∧ RegsKept [(unitPD, [0x120])] s t ∧ Only [.regs] s t) ∧
    (∃ t, Machine.exec .flush s = .next t ∧ t.rem = { s.rem with replicas := [] } ∧ getReg t unitPD 0x160 = 0 ∧
      getF t unitPD 0x18 17 17 = 0 ∧ RegsKept [(unitPD, [0x18, 0x160])] s t ∧ Only [.regs, .rem] s t)

/-- While the directory page takes writes: a WRITE with RESULT 0 stores the two words in the entry ENTRY_IDX names, whose
load counters stay, and a STAGE with RESULT 0 appends the change to the queue; with any other RESULT nothing but RESULT
changes. No other entry changes. A WRITE to a valid entry while an epoch is open is refused as BUSY (4). Of a valid change,
a field out of range gives 3; a WRITE that passes the other checks and would overlap another valid entry gives 1, and a
STAGE that passes them with 4,096 changes staged gives 5. A WRITE that makes an entry invalid has RESULT 0 unless it is
BUSY. (R401, R402, R404) -/
def Obligations.DirectoryChanges : Prop :=
  ∀ s : State, commandable s unitPD = true →
    let i := getF s unitPD 0x108 17 0
    let w0 := getReg s unitPD 0x110
    let w1 := getReg s unitPD 0x118
    (∃ t, Machine.exec .write s = .next t ∧ getF t unitPD 0x120 63 63 = 1 ∧ t.fab = s.fab ∧
      (getF t unitPD 0x120 11 8 = 0 → dirEntry t i = { dirEntry s i with w0 := w0, w1 := w1 }) ∧
      (getF t unitPD 0x120 11 8 ≠ 0 → t.dir = s.dir) ∧ (∀ j, j ≠ i → dirEntry t j = dirEntry s j) ∧
      (openEpoch s ≠ 0 → bitOf (dirEntry s i).w0 63 = true → getF t unitPD 0x120 11 8 = 4) ∧
      (openEpoch s = 0 → bitOf w0 63 = true → entryRange s w0 w1 = true → getF t unitPD 0x120 11 8 = 3) ∧
      (openEpoch s = 0 → bitOf w0 63 = true → entryRange s w0 w1 = false → entryAlign s w0 w1 = false →
        wouldOverlap s i w0 w1 = true → getF t unitPD 0x120 11 8 = 1) ∧
      (openEpoch s = 0 → bitOf w0 63 = false → getF t unitPD 0x120 11 8 = 0) ∧
      RegsKept [(unitPD, [0x120])] s t ∧ Only [.regs, .dir] s t) ∧
    (∃ t, Machine.exec .stage s = .next t ∧ getF t unitPD 0x120 63 63 = 1 ∧ t.dir = s.dir ∧
      (getF t unitPD 0x120 11 8 = 0 → t.fab.staged = s.fab.staged ++ [(i, w0, w1)] ∧ getF t unitPD 0x18 16 16 = 1) ∧
      (getF t unitPD 0x120 11 8 ≠ 0 → t.fab.staged = s.fab.staged) ∧
      (bitOf w0 63 = true → entryRange s w0 w1 = true → getF t unitPD 0x120 11 8 = 3) ∧
      (bitOf w0 63 = false → 4096 ≤ s.fab.staged.length → getF t unitPD 0x120 11 8 = 5) ∧
      (bitOf w0 63 = false → s.fab.staged.length < 4096 → getF t unitPD 0x120 11 8 = 0) ∧
      RegsKept [(unitPD, [0x18, 0x120, 0x188])] s t ∧ Only [.regs, .fab] s t)

/-! ### The host interface -/

/-- While the host interface's page takes writes, RING_CMD ENABLE completes with RESULT 0 exactly when the device is not in
strongbox mode, HI is enabled, the pair reads disabled, both ring sizes lie between 2^6 and 2^16, COAL_CNT is not 0, the
status line is aligned to 64 bytes and both rings to 4 KiB, and the vector lies within TABLE_SIZE. Then the pair is enabled
with its four pointers at RING_START; otherwise the pair is as it was. With HI enabled outside strongbox mode DISABLE
completes with RESULT 0, and a pair that is not disabled drains: it reads DRAINING, holds no fetched descriptor and keeps
its pointers. No other pair changes. (R476, R483, R495) -/
def Obligations.RingEnableChecksConfiguration : Prop :=
  ∀ s : State, commandable s unitHI = true →
    let n := getF s unitHI 0x100 7 0
    let r := ringOf s n
    (∃ t, Machine.exec .enable s = .next t ∧ getF t unitHI 0x108 63 63 = 1 ∧
      (getF t unitHI 0x108 31 16 = 0 ↔ strongbox s = false ∧ enabled s unitHI = true ∧ r.state = 0 ∧ 6 ≤ sqLog2 r ∧ sqLog2 r ≤ 16 ∧
        6 ≤ cqLog2 r ∧ cqLog2 r ≤ 16 ∧ coalCount r ≠ 0 ∧ r.stat.toNat % 64 = 0 ∧ r.sq.toNat % 4096 = 0 ∧ r.cq.toNat % 4096 = 0 ∧
        ringVector r < getF s unitHI 0x1C0 11 0) ∧
      (getF t unitHI 0x108 31 16 = 0 →
        let c := r.start.toNat % 2 ^ 32
        (ringOf t n).state = 1 ∧ (ringOf t n).sqHead = c ∧ (ringOf t n).sqTail = c ∧ (ringOf t n).cqTail = c ∧
        (ringOf t n).cqHead = c ∧ (ringOf t n).cfg = r.cfg ∧ (ringOf t n).sq = r.sq ∧ (ringOf t n).cq = r.cq ∧
        (ringOf t n).stat = r.stat) ∧
      (getF t unitHI 0x108 31 16 ≠ 0 → ringOf t n = r) ∧ (∀ m, m < 256 → m ≠ n → ringOf t m = ringOf s m) ∧
      RegsKept [(unitHI, [0x108])] s t ∧ Only [.regs, .hi] s t) ∧
    (enabled s unitHI = true → strongbox s = false →
      ∃ t, Machine.exec .disable s = .next t ∧ getF t unitHI 0x108 63 63 = 1 ∧ getF t unitHI 0x108 31 16 = 0 ∧
      (r.state ≠ 0 → (ringOf t n).state = 2 ∧ (ringOf t n).fetched = [] ∧ (ringOf t n).sqHead = r.sqHead ∧
        (ringOf t n).sqTail = r.sqTail ∧ (ringOf t n).cqTail = r.cqTail ∧ (ringOf t n).cqHead = r.cqHead) ∧
      (r.state = 0 → ringOf t n = r) ∧ (∀ m, m < 256 → m ≠ n → ringOf t m = ringOf s m) ∧
      RegsKept [(unitHI, [0x108])] s t ∧ Only [.regs, .hi] s t)

/-- While BAR2 answers (the device ready, the link trained) and the pair is not disabled: an SQ_TAIL value that is neither
behind the latched tail nor more than the ring size ahead of SQ_HEAD becomes the latched tail, and a CQ_HEAD value that is
neither behind CQ_HEAD nor ahead of CQ_TAIL becomes CQ_HEAD. Any other value changes no pointer; it sets DB_RANGE in the
pair's status line and HI ERR_SUMMARY DB_RANGE. To a disabled pair nothing is delivered. (R478) -/
def Obligations.DoorbellsInRangeAreTaken : Prop :=
  ∀ (s : State) (n v : Nat), linkUp s = true → deviceReady s = true → n < 256 → v < 2 ^ 32 →
    let r := ringOf s n
    (∃ t, Machine.exec (.sqTail n v) s = .next t ∧ (∀ m, m < 256 → m ≠ n → ringOf t m = ringOf s m) ∧
      (r.state = 0 → t = s) ∧
      (r.state ≠ 0 → ahead v r.sqHead ≤ 2 ^ sqLog2 r → ahead r.sqTail r.sqHead ≤ ahead v r.sqHead →
        ringOf t n = { r with sqTail := v, dbRange := false, lineDue := true } ∧ Only [.hi] s t) ∧
      (r.state ≠ 0 → 2 ^ sqLog2 r < ahead v r.sqHead ∨ ahead v r.sqHead < ahead r.sqTail r.sqHead →
        ringOf t n = { r with dbRange := true, lineDue := true } ∧ getF t unitHI 0x28 17 17 = 1 ∧
        RegsKept [(unitHI, [0x28, 0x30])] s t ∧ Only [.regs, .hi] s t)) ∧
    (∃ t, Machine.exec (.cqHead n v) s = .next t ∧ (∀ m, m < 256 → m ≠ n → ringOf t m = ringOf s m) ∧
      (r.state = 0 → t = s) ∧
      (r.state ≠ 0 → ahead v r.cqHead ≤ ahead r.cqTail r.cqHead →
        ringOf t n = { r with cqHead := v, dbRange := false, lineDue := true } ∧ Only [.hi] s t) ∧
      (r.state ≠ 0 → ahead r.cqTail r.cqHead < ahead v r.cqHead →
        ringOf t n = { r with dbRange := true, lineDue := true } ∧ getF t unitHI 0x28 17 17 = 1 ∧
        RegsKept [(unitHI, [0x28, 0x30])] s t ∧ Only [.regs, .hi] s t))

/-- While the device is ready and not in recovery, HI serves, and an enabled pair has a slot that is not yet fetched below
the latched tail: a fetch reads the 128 bytes of that slot of the submission ring behind those fetched before; a line that
returns poisoned or with a link error fetches nothing, and the pair reads FAULTED with HI ERR_SUMMARY RING_FAULT and a RING
error record. (R479, R484) -/
def Obligations.DescriptorsAreFetchedInOrder : Prop :=
  ∀ (s : State) (n : Nat), n < 256 →
    let r := ringOf s n
    let c := (r.offer + r.fetched.length) % 2 ^ 32
    r.state = 1 → deviceReady s = true → usable s unitHI = true → phase s < 4 → c ≠ r.sqTail →
    (∃ t, Machine.exec (.descriptorFetch n false) s = .next t ∧
      ringOf t n = { r with fetched := r.fetched ++ [hostBytes s (r.sq.toNat + c % 2 ^ sqLog2 r * 128) 128] } ∧
      (∀ m, m < 256 → m ≠ n → ringOf t m = ringOf s m) ∧ RegsKept [(unitHI, [0x200])] s t ∧ Only [.regs, .hi] s t) ∧
    (∃ t, Machine.exec (.descriptorFetch n true) s = .next t ∧ (ringOf t n).state = 3 ∧ (ringOf t n).faulted = true ∧
      (ringOf t n).fetched = r.fetched ∧ (ringOf t n).offer = r.offer ∧ (ringOf t n).sqHead = r.sqHead ∧
      getF t unitHI 0x28 18 18 = 1 ∧ (∃ e, t.hi.errQueue = s.hi.errQueue ++ [e] ∧ e.kind = 0x0A) ∧
      RegsKept [(unitHI, [0x28, 0x30])] s t ∧ Only [.regs, .hi] s t)

/-- Outside a recovery, the oldest record of a pair that is not disabled goes, when its completion ring has room, to the
slot CQ_TAIL names, and CQ_TAIL advances by one; every host byte outside that slot stays. While the ring is full nothing
changes. A record of a disabled pair is discarded and counted in RECORDS_DROPPED, and one whose write fails on the link is
lost, counted there, and sets RING_FAULT. A status line that is due is written at the pair's address: SQ_HEAD, SQ_TAIL and
CQ_TAIL in its first 12 bytes, HELD in byte 12, DB_RANGE and FAULT in byte 13, EX COMMITTED from byte 16 and TIME from byte
24. Every other host byte stays. A message that is due goes out with it when its vector is unmasked. Coalescing: once
COAL_US has passed since the first unsignalled record, the pair's line and message are due. (R481, R484, R482, R485, R486)
-/
def Obligations.RecordsAndStatusLinesAreWritten : Prop :=
  (∀ (s : State) (n : Nat) (x : PendRecord) (l1 l2 : List PendRecord), n < 256 → phase s < 4 →
      s.led.records = l1 ++ x :: l2 → (∀ y ∈ l1, y.ring % 256 ≠ n) → x.ring % 256 = n →
      let r := ringOf s n
      let a := r.cq.toNat + r.cqTail % 2 ^ cqLog2 r * 32
      (r.state ≠ 0 → 2 ^ cqLog2 r ≤ ahead r.cqTail r.cqHead → Machine.exec (.completionRecord n true) s = .next s) ∧
      (r.state ≠ 0 → ahead r.cqTail r.cqHead < 2 ^ cqLog2 r →
        (∃ t, Machine.exec (.completionRecord n true) s = .next t ∧ t.led.records = l1 ++ l2 ∧
          (∀ k, k < x.bytes.length → hostByte t (a + k) = x.bytes.getD k 0) ∧
          (∀ k, k < a ∨ a + x.bytes.length ≤ k → hostByte t k = hostByte s k) ∧
          (ringOf t n).cqTail = (r.cqTail + 1) % 2 ^ 32 ∧ (ringOf t n).lineDue = true ∧
          (∀ m, m < 256 → m ≠ n → ringOf t m = ringOf s m) ∧ RegsKept [(unitHI, [0x208])] s t ∧ Only [.regs, .hi, .host, .led] s t) ∧
        (∃ t, Machine.exec (.completionRecord n false) s = .next t ∧ t.led.records = l1 ++ l2 ∧ t.host = s.host ∧
          getF t unitHI 0x28 18 18 = 1 ∧ getF t unitHI 0x210 63 0 = min (getF s unitHI 0x210 63 0 + 1) (2 ^ 64 - 1))) ∧
      (r.state = 0 → ∃ t, Machine.exec (.completionRecord n true) s = .next t ∧ t.led.records = l1 ++ l2 ∧ t.host = s.host ∧
        getF t unitHI 0x210 63 0 = min (getF s unitHI 0x210 63 0 + 1) (2 ^ 64 - 1) ∧ RegsKept [(unitHI, [0x210])] s t)) ∧
  ((∀ (s : State) (n : Nat), n < 256 → (ringOf s n).lineDue = true →
      let r := ringOf s n
      let a := r.stat.toNat
      let num (t : State) (off k : Nat) : Nat := ofLE (hostBytes t (a + off) k)
      ∃ t, Machine.exec (.statusLineWrite n true) s = .next t ∧ num t 0 4 = r.sqHead % 2 ^ 32 ∧ num t 4 4 = r.sqTail % 2 ^ 32 ∧
        num t 8 4 = r.cqTail % 2 ^ 32 ∧ num t 12 1 = r.held % 256 ∧ num t 13 1 = bit r.dbRange + 2 * bit r.faulted ∧
        num t 16 6 = getF s unitEX 0x120 47 0 ∧ num t 24 8 = s.tb.time % 2 ^ 64 ∧
        (∀ k, k < a ∨ a + 64 ≤ k → hostByte t k = hostByte s k) ∧ (ringOf t n).lineDue = false ∧ (ringOf t n).msgDue = false ∧
        (r.msgDue = true → ringVector r ∈ s.hi.unmasked → t.hi.msixSent = s.hi.msixSent ++ [ringVector r]) ∧
        RegsKept [] s t ∧ Only [.hi, .host] s t) ∧
    (∀ (s : State) (n : Nat), n < 256 → (ringOf s n).unsignalled ≠ 0 → (ringOf s n).msgDue = false → coalUs (ringOf s n) ≠ 0 →
      ∃ t, Machine.exec (.ringCoalesce n) s = .next t ∧
        ringOf t n = { ringOf s n with msgDue := true, lineDue := true } ∧ (∀ m, m < 256 → m ≠ n → ringOf t m = ringOf s m) ∧
        RegsKept [(unitTB, [0x30])] s t ∧ Only [.regs, .hi, .tb] s t))

/-- With no LOST record due, the next error record is written to the entry ERR_TAIL names when the error ring is on and has
room, ERR_TAIL advances, and the record's kind, sequence number and time lie in its first 16 bytes; otherwise it is dropped,
ERR_LOST counts it and ERR_SUMMARY ERR_LOST sets. The host's write of ERR_HEAD is taken, and room that it gives lets one
LOST record go first. (R489, R490) -/
def Obligations.ErrorRingNeverWaits : Prop :=
  (∀ (s : State) (e : ErrRec) (l : List ErrRec), s.hi.errQueue = e :: l → s.hi.errDropped = 0 →
    ∃ t, Machine.exec .errorRecord s = .next t ∧ t.hi.errQueue = l ∧
      (errRoom s = true →
        let a := (getReg s unitHI 0x180).toNat + getF s unitHI 0x198 31 0 % 2 ^ getF s unitHI 0x188 4 0 * 64
        ofLE (hostBytes t a 1) = e.kind % 256 ∧ ofLE (hostBytes t (a + 4) 4) = e.seq % 2 ^ 32 ∧
        ofLE (hostBytes t (a + 8) 8) = e.time % 2 ^ 64 ∧ (∀ k, k < a ∨ a + 64 ≤ k → hostByte t k = hostByte s k) ∧
        getF t unitHI 0x198 31 0 = (getF s unitHI 0x198 31 0 + 1) % 2 ^ 32 ∧ RegsKept [(unitHI, [0x18, 0x198])] s t) ∧
      (errRoom s = false → t.host = s.host ∧ getF t unitHI 0x28 19 19 = 1 ∧ t.hi.errDropped = 1 ∧
        getF t unitHI 0x1A0 63 0 = min (getF s unitHI 0x1A0 63 0 + 1) (2 ^ 64 - 1) ∧
        RegsKept [(unitHI, [0x18, 0x28, 0x30, 0x1A0])] s t) ∧
      Only [.regs, .hi, .host] s t) ∧
  (∀ (s : State) (v : Nat), commandable s unitHI = true → v < 2 ^ 32 →
    ∃ t, Machine.exec (.errHead v) s = .next t ∧ getF t unitHI 0x190 31 0 = v ∧
      (s.hi.errDropped = 0 → t.hi = s.hi) ∧
      (s.hi.errDropped ≠ 0 → errRoom t = true →
        t.hi.errDropped = 0 ∧ ∃ e, t.hi.errQueue = e :: s.hi.errQueue ∧ e.kind = 0x0B ∧ e.count = s.hi.errDropped) ∧
      RegsKept [(unitHI, [0x18, 0x190])] s t ∧ Only [.regs, .hi] s t)

/-- Unmasking a vector while BAR0 answers sends the message its pending bit holds and nothing else. A commit of a decoder
the capability reports succeeds, outside strongbox mode and with HI enabled, when its ways are 1, its size is a multiple of
256 MiB and its range lies within the DPA space and overlaps no other committed one; otherwise it only sets Commit Error. An
integrity failure of a secure stream makes it insecure, sets IDE_FAIL and reports an Uncorrectable Internal Error. A
function level reset while the link is trained disables every ring pair at once, masks every vector with no message pending,
empties the device cache, and returns every register of the HI page but the link's to its reset value; committed decoders
and other pages stay. (R470, R472, R485, R488, R492) -/
def Obligations.VectorsDecodersIdeAndFunctionReset : Prop :=
  (∀ (s : State) (v : Nat), linkUp s = true →
    ∃ t, Machine.exec (.msixUnmask v) s = .next t ∧ v ∈ t.hi.unmasked ∧
      (v ∈ s.hi.msixPending → t.hi.msixSent = s.hi.msixSent ++ [v] ∧ v ∉ t.hi.msixPending) ∧
      (v ∉ s.hi.msixPending → t.hi.msixSent = s.hi.msixSent ∧ t.hi.msixPending = s.hi.msixPending) ∧ Only [.hi] s t) ∧
  (∀ (s : State) (n ways base size : Nat), linkUp s = true → n < getF s unitHI 0x1C8 2 0 →
    let dpa := getF s unitHI (0x1D0 + 8 * n) 40 28 * 2 ^ 28
    ∃ t, Machine.exec (.decoderCommit n ways base size) s = .next t ∧ Only [.hi] s t ∧
      (∀ m, m ≠ n → decoderOf t m = decoderOf s m) ∧
      (ways = 1 → size % 2 ^ 28 = 0 → dpa + size ≤ 12 * 2 ^ 37 → dpaTaken s n dpa size = false → enabled s unitHI = true →
        strongbox s = false → decoderOf t n = ⟨true, false, base, size, dpa⟩) ∧
      (ways ≠ 1 ∨ size % 2 ^ 28 ≠ 0 ∨ 12 * 2 ^ 37 < dpa + size ∨ dpaTaken s n dpa size = true ∨ enabled s unitHI = false ∨
        strongbox s = true → decoderOf t n = { decoderOf s n with error := true })) ∧
  (∀ (s : State) (m : Bool), (if m then s.hi.ideMem else s.hi.ideIo) = .secure →
    ∃ t, Machine.exec (.ideFail m) s = .next t ∧ (if m then t.hi.ideMem else t.hi.ideIo) = .insecure ∧
      (if m then t.hi.ideIo = s.hi.ideIo else t.hi.ideMem = s.hi.ideMem) ∧ getF t unitHI 0x28 20 20 = 1 ∧
      getF t unitHI 0x18 19 19 = 0 ∧ t.hi.aer = s.hi.aer ++ [true] ∧ RegsKept [(unitHI, [0x18, 0x28, 0x30])] s t ∧
      Only [.regs, .hi] s t) ∧
  (∀ s : State, linkUp s = true →
    ∃ t, Machine.exec .functionLevelReset s = .next t ∧ (∀ n, (ringOf t n).state = 0) ∧ t.hi.unmasked = [] ∧ t.hi.msixPending = [] ∧
      t.hi.devCache = [] ∧ t.hi.decoders = s.hi.decoders ∧
      (∀ off, off < 0x1000 → off ≠ 0x1F0 → getReg t unitHI off = regReset s.variant unitHI off) ∧
      getReg t unitHI 0x1F0 = getReg s unitHI 0x1F0 ∧
      (∀ u off, isUnit u = true → off < 0x1000 → u ≠ unitHI → getReg t u off = getReg s u off) ∧ Only [.regs, .hi] s t)

/-- A host CXL.mem access through a committed decoder. A read of a line that a stack serves, uncached, outside escrow's own
areas and its regulator not holding it back, gives the reply the bytes that the device sees; a read where no stack serves
the line gives zeros. A write of bytes of a line that a stack serves, uncached, with no epoch open and outside escrow's own
areas, stores them at the current copy and changes no other byte. A write where no stack serves the line changes no byte and
an error record is due; one into an escrowed region or escrow area while an epoch is open or a recovery runs changes no
byte, HOST_WRITES_REFUSED counts it, LAST_REFUSED_ADDR names it and HOST_REFUSED sets. A host write of a line of the
submission ring takes the line out of the device cache and stores its 64 bytes in host memory. (R338, R446, R473, R475) -/
def Obligations.HostWindowAccesses : Prop :=
  (∀ (s : State) (hpa : Nat) (data : List Byte) (dpa : Nat), dpaOf s hpa = some dpa →
    ∃ t, Machine.exec (.cxlMemWrite hpa data) s = .next t ∧
      (windowMapped s (dpa / 64 * 64) = false → t.mem = s.mem ∧ (∃ e, t.hi.errQueue = s.hi.errQueue ++ [e] ∧ e.kind = 0x05)) ∧
      (windowMapped s (dpa / 64 * 64) = true → hostRefused s (2 ^ 60 + dpa) = false → openEpoch s = 0 → hpa % 64 = dpa % 64 →
        bankFor s (dpa / 2 ^ 37) ((2 ^ 60 + dpa) / 64 * 64) = none → escrowOwn s (2 ^ 60 + dpa) = false →
        pageBase (dpa % 2 ^ 37) ∉ (stackOf s (dpa / 2 ^ 37)).offline →
        (∀ k, k < (data.take (64 - hpa % 64)).length → rawByte t (physAddr s (2 ^ 60 + dpa) + k) = data.getD k 0) ∧
        ∀ k, k < physAddr s (2 ^ 60 + dpa) ∨ physAddr s (2 ^ 60 + dpa) + (data.take (64 - hpa % 64)).length ≤ k →
          rawByte t k = rawByte s k) ∧
      (windowMapped s (dpa / 64 * 64) = true → hostRefused s (2 ^ 60 + dpa) = true → t.mem = s.mem ∧
        getReg t unitEX 0x170 = BitVec.ofNat 64 (2 ^ 60 + dpa) ∧ getF t unitEX 0x28 19 19 = 1 ∧
        getF t unitEX 0x168 63 0 = min (getF s unitEX 0x168 63 0 + 1) (2 ^ 64 - 1) ∧
        (∃ e, t.hi.errQueue = s.hi.errQueue ++ [e] ∧ e.kind = 0x03))) ∧
  (∀ (s : State) (hpa dpa : Nat), dpaOf s (hpa / 64 * 64) = some dpa → dpa % 64 = 0 →
    ∃ t, Machine.exec (.cxlMemRead hpa .clean) s = .next t ∧ t.mem = s.mem ∧
      (windowMapped s dpa = false → t.reply = ⟨zeros 64, false⟩) ∧
      (windowMapped s dpa = true → hostHit s (2 ^ 60 + dpa) = false → capWaits s (hostReq s (2 ^ 60 + dpa)) = false →
        escrowOwn s (2 ^ 60 + dpa) = false → t.reply = ⟨viewBytes s (2 ^ 60 + dpa) 64, poisonedAt s (dpa / 2 ^ 37) (dpa % 2 ^ 37)⟩)) ∧
  (∀ (s : State) (a : Nat) (line : List Byte),
    ∃ t, Machine.exec (.submissionLineSnoop a line) s = .next t ∧ a / 64 * 64 ∉ t.hi.devCache ∧
      (∀ k, k < 64 → hostByte t (a / 64 * 64 + k) = line.getD k 0) ∧
      (∀ k, k < a / 64 * 64 ∨ a / 64 * 64 + 64 ≤ k → hostByte t k = hostByte s k) ∧ Only [.hi, .host] s t)

/-! ### The management controller -/

/-- Commands over CXL while the MC page takes writes, no command runs, CFG_LOCK is 0, and flash and host transfers complete;
each ends with CMD DONE 1, its RESULT and INT_STATUS CMD_DONE. UPDATE_BEGIN with no session open programs a header that
passes the checks, opens a session at 0 bytes and clears IMAGE_VALID; a header that fails one is RESULT 3, or 4 for the
anti-rollback check, and changes nothing of the flash. In its own session UPDATE_DATA takes a chunk of 1 byte to 1 MiB at
the next expected offset into the flash; another offset or length is RESULT 1. UPDATE_END with the whole body there closes
the session: a body that matches BODY_HASH sets IMAGE_VALID and the boot counter to 0; one that does not is RESULT 5 with
ERR_SUMMARY IMAGE. UPDATE_ABORT closes the session, and so do 60 seconds without a command. (R500, R504, R505, R522) -/
def Obligations.UpdateSessionRunsInOrder : Prop :=
  (∀ (s : State) (c : McCall), commandable s unitMC = true → s.mc.running = none → c.mctp = false → c.hostOk = true →
    c.flashOk = true →
    getF s unitMC 0x158 0 0 = 0 →
    let ends (t : State) (k : Nat) : Prop :=
      getF t unitMC 0x100 63 63 = 1 ∧ getF t unitMC 0x100 47 40 = k ∧ getF t unitMC 0x30 20 20 = 1
    let arg := (getReg s unitMC 0x108).toNat
    let o := getF s unitMC 0x110 31 0
    let n := getF s unitMC 0x110 63 32
    (s.mc.session = none →
      let h := hostBytes s arg 1024
      ∃ t, Machine.exec (.updateBegin c) s = .next t ∧
        (headerCheck s h = 0 → ends t 0 ∧ t.mc.session = some { mctp := false, header := h, got := 0, lastAt := s.tb.time } ∧
          getF t unitMC 0x18 19 18 = 2 ∧ flashBytes t imageBase 1024 = h) ∧
        (1 ≤ headerCheck s h → headerCheck s h ≤ 4 → ends t 3 ∧ t.mc = s.mc) ∧
        (headerCheck s h = 5 → ends t 4 ∧ t.mc = s.mc) ∧
        RegsKept [(unitMC, [0x18, 0x30, 0x100, 0x140])] s t ∧ Only [.regs, .hi, .mc] s t) ∧
    (∀ x, s.mc.session = some x → x.mctp = false →
      (∃ t, Machine.exec (.updateData c) s = .next t ∧
        (o = x.got → 0 < n → n ≤ 0x100000 → x.got + n ≤ hdrBytes x.header →
          ends t 0 ∧ t.mc.session = some { x with got := x.got + n, lastAt := s.tb.time } ∧
          getReg t unitMC 0x140 = BitVec.ofNat 64 (x.got + n) ∧
          flashBytes t (imageBase + 4096 + x.got) n = hostBytes s arg n) ∧
        (o ≠ x.got ∨ n = 0 ∨ 0x100000 < n ∨ hdrBytes x.header < x.got + n →
          ends t 1 ∧ t.mc.flash = s.mc.flash ∧ t.mc.session = some { x with lastAt := s.tb.time }) ∧
        RegsKept [(unitMC, [0x18, 0x30, 0x100, 0x140])] s t ∧ Only [.regs, .hi, .mc] s t) ∧
      (x.got = hdrBytes x.header → ∃ t, Machine.exec (.updateEnd c) s = .next t ∧ t.mc.session = none ∧ t.mc.flash = s.mc.flash ∧
        getF t unitMC 0x18 19 19 = 0 ∧
        (bodyMatches s x.header = true → ends t 0 ∧ getF t unitMC 0x18 18 18 = 1 ∧ getF t unitMC 0x120 23 16 = 0) ∧
        (bodyMatches s x.header = false → ends t 5 ∧ getF t unitMC 0x28 16 16 = 1 ∧ getF t unitMC 0x18 18 18 = getF s unitMC 0x18 18 18) ∧
        Only [.regs, .hi, .mc] s t) ∧
      (∃ t, Machine.exec (.updateAbort c) s = .next t ∧ ends t 0 ∧ t.mc = { s.mc with session := none } ∧
        getF t unitMC 0x18 19 19 = 0 ∧ RegsKept [(unitMC, [0x18, 0x30, 0x100, 0x140])] s t ∧ Only [.regs, .hi, .mc] s t))) ∧
  (∀ (s : State) (x : Session), s.mc.session = some x →
    ∃ t, Machine.exec .sessionTimeout s = .next t ∧ t.mc = { s.mc with session := none } ∧ getF t unitMC 0x18 19 19 = 0 ∧
      RegsKept [(unitMC, [0x18, 0x140]), (unitTB, [0x30])] s t ∧ Only [.regs, .hi, .mc, .tb] s t)

/-- Commands over CXL while the MC page takes writes, no command runs, CFG_LOCK is 0, outside strongbox mode, and flash and
host transfers complete; each ends with CMD DONE 1, its RESULT and INT_STATUS CMD_DONE. PROFILE_WRITE of a well-formed body,
of the index its OFFSET gives and a supported level, appends its record; any other is RESULT 1. PROFILE_SELECT_NEXT of an
index below 4 records the pending selection. PROFILE_READ gives the host the record's first LENGTH bytes. CLEAR_BOOT_COUNT
sets the counter to 0. ENTER_STRONGBOX requests strongbox mode. An authorised FUSE_SVN raises the anti-rollback counter to a
value that the valid image reaches; an authorised REVOKE_SLOT blows the slot's fuse when another slot stays and the slot
does not sign the valid image; either gives a new NONCE whatever its outcome. RECORD_READ gives the host bytes of the store.
(R502, R503, R508, R509, R510, R513, R521, R522) -/
def Obligations.ProfilesFusesAndRecords : Prop :=
  ∀ (s : State) (c : McCall), commandable s unitMC = true → s.mc.running = none → c.mctp = false → c.hostOk = true →
    c.flashOk = true →
    getF s unitMC 0x158 0 0 = 0 → strongbox s = false →
    let ends (t : State) (k : Nat) : Prop :=
      getF t unitMC 0x100 63 63 = 1 ∧ getF t unitMC 0x100 47 40 = k ∧ getF t unitMC 0x30 20 20 = 1
    let arg := (getReg s unitMC 0x108).toNat
    let o := getF s unitMC 0x110 31 0
    let n := getF s unitMC 0x110 63 32
    let holds (t : State) (l : List Byte) : Prop :=
      (∀ k, k < l.length → hostByte t (arg + k) = l.getD k 0) ∧ ∀ k, k < arg ∨ arg + l.length ≤ k → hostByte t k = hostByte s k
    let auth := hostBytes s arg 896
    let v := leAt auth 24 8
    (∃ t, Machine.exec (.profileWrite c) s = .next t ∧ Only [.regs, .hi, .mc] s t ∧
      (let b := hostBytes s arg n
       let good := profileFormed b && leAt b 0 1 = o && levelSupported s (leAt b 1 1)
       (n ≤ 64032 → good = true → compactDue s = false →
          ends t 0 ∧ records t = records s ++ [⟨0x0005, (lastSeq s + 1) % 2 ^ 64, b, false⟩]) ∧
        (64032 < n ∨ good = false → ends t 1 ∧ t.mc = s.mc))) ∧
    (∃ t, Machine.exec (.profileSelectNext c) s = .next t ∧ RegsKept [(unitMC, [0x30, 0x100, 0x118])] s t ∧ Only [.regs, .hi] s t ∧
      (o < 4 → ends t 0 ∧ getF t unitMC 0x118 4 4 = 1 ∧ getF t unitMC 0x118 3 2 = o) ∧
      (4 ≤ o → ends t 1 ∧ getReg t unitMC 0x118 = getReg s unitMC 0x118)) ∧
    (∃ t, Machine.exec (.profileRead c) s = .next t ∧ RegsKept [(unitMC, [0x30, 0x100])] s t ∧ Only [.regs, .hi, .host] s t ∧
      (∀ b, o < 4 → profileRecord s o = some b → ends t 0 ∧ holds t (b.take n)) ∧
      (4 ≤ o ∨ profileRecord s o = none → ends t 1 ∧ t.host = s.host)) ∧
    (∃ t, Machine.exec (.clearBootCount c) s = .next t ∧ ends t 0 ∧ getF t unitMC 0x120 23 16 = 0 ∧ getF t unitDEV 0x120 23 16 = 0 ∧
      RegsKept [(unitMC, [0x30, 0x100, 0x120, 0x148, 0x150]), (unitDEV, [0x120])] s t ∧ Only [.regs, .hi, .mc] s t) ∧
    (∃ t, Machine.exec (.enterStrongbox c) s = .next t ∧ ends t 0 ∧ t.mc = { s.mc with sbRequested := true } ∧
      RegsKept [(unitMC, [0x30, 0x100])] s t ∧ Only [.regs, .hi, .mc] s t) ∧
    (∃ t, Machine.exec (.fuseSvn c) s = .next t ∧ getReg t unitMC 0x138 = Config.nonce s.freeCtr ∧
      RegsKept [(unitMC, [0x30, 0x100, 0x130, 0x138])] s t ∧ Only [.regs, .hi, .freeCtr] s t ∧
      (authorised s 0x30 auth = true → svnFuses s < v → v ≤ s.mc.imageSvn → v < 64 → ends t 0 ∧ svnFuses t = v ∧ revoked t = revoked s) ∧
      (authorised s 0x30 auth = false → ends t 3 ∧ getReg t unitMC 0x130 = getReg s unitMC 0x130) ∧
      (authorised s 0x30 auth = true → v ≤ svnFuses s ∨ s.mc.imageSvn < v →
        ends t 4 ∧ getReg t unitMC 0x130 = getReg s unitMC 0x130)) ∧
    (∃ t, Machine.exec (.revokeSlot c) s = .next t ∧ getReg t unitMC 0x138 = Config.nonce s.freeCtr ∧
      RegsKept [(unitMC, [0x30, 0x100, 0x130, 0x138])] s t ∧ Only [.regs, .hi, .freeCtr] s t ∧
      (authorised s 0x31 auth = true → v < 4 → (∃ j, j < 4 ∧ j ≠ v ∧ (revoked s).testBit j = false) →
        (getF s unitMC 0x18 18 18 = 0 ∨ hdrSlot (imageHeader s) ≠ v) → ends t 0 ∧ revoked t = revoked s ||| 2 ^ v ∧ svnFuses t = svnFuses s) ∧
      (authorised s 0x31 auth = false → ends t 3 ∧ getReg t unitMC 0x130 = getReg s unitMC 0x130)) ∧
    (∃ t, Machine.exec (.recordRead c) s = .next t ∧ RegsKept [(unitMC, [0x30, 0x100])] s t ∧ Only [.regs, .hi, .host] s t ∧
      (o + n ≤ 2 * halfBytes → ends t 0 ∧ holds t (storeBytes s o n)) ∧ (2 * halfBytes < o + n → ends t 1 ∧ t.host = s.host))

/-- While the MC page takes writes and no command runs: CFG_LOCK sets CFG_LOCK and STATUS CFG_LOCKED, and while it reads 1
the commands it blocks end over CXL with RESULT 7 and none of their effect, but for a new NONCE. DIAG_TRAIN of a present
stack that is not enabled trains its interface: TRAINED reads 1 exactly when no channel has more than two failing lanes;
DIAG_PORT of such a port ends with RESULT 0; each reports 64 bytes at ARG0. An OP that is no command ends with RESULT 9. A
write of CMD starts a command and DONE reads 0; while one runs, another write of CMD changes nothing and sets LOCKED_WRITE,
and a vendor-defined request over MCTP is answered with BUSY. Over MCTP a sensor request is answered with whether the sensor
is present and its reading, a measurement request by an identified device with the measurements, and else a command with its
result. A data object of the DOE mailbox of at most 64 KiB is answered, with a message on vector 0; a longer one is
discarded with Error. (R346, R491, R519, R520, R521, R522, R523) -/
def Obligations.LocksDiagnosticsAndMessages : Prop :=
  (∀ s : State, commandable s unitMC = true → ∃ t, Machine.exec .cfgLock s = .next t ∧ getF t unitMC 0x158 0 0 = 1 ∧
    getF t unitMC 0x18 20 20 = 1 ∧ RegsKept [(unitMC, [0x18, 0x158])] s t ∧ Only [.regs] s t) ∧
  (∀ (s : State) (c : McCall), commandable s unitMC = true → s.mc.running = none → c.mctp = false →
    let ends (t : State) (k : Nat) : Prop :=
      getF t unitMC 0x100 63 63 = 1 ∧ getF t unitMC 0x100 47 40 = k ∧ getF t unitMC 0x30 20 20 = 1
    let o := getF s unitMC 0x110 31 0
    let arg := (getReg s unitMC 0x108).toNat
    (getF s unitMC 0x158 0 0 = 1 → ∀ i : Instr, i ∈ [.updateBegin c, .updateData c, .updateEnd c, .profileWrite c, .profileSelectNext c,
        .clearBootCount c, .enterStrongbox c, .fuseSvn c, .revokeSlot c] →
      ∃ t, Machine.exec i s = .next t ∧ ends t 7 ∧ RegsKept [(unitMC, [0x30, 0x100, 0x138])] s t ∧ Only [.regs, .hi, .freeCtr] s t) ∧
    (∀ bad, o < 12 → present s (unitHS o) = true → enabled s (unitHS o) = false → ∃ t, Machine.exec (.diagTrain c bad) s = .next t ∧
      ends t 0 ∧ getF t (unitHS o) 0x18 22 22 = bit (trainingPasses bad) ∧
      (∀ k, k < arg ∨ arg + 64 ≤ k → hostByte t k = hostByte s k) ∧
      RegsKept [(unitMC, [0x30, 0x100]), (unitHS o, [0x18, 0x1A8])] s t ∧ Only [.regs, .hi, .host, .hs, .freeCtr] s t) ∧
    (∀ lanes, o < 48 → present s (unitKP o) = true → enabled s (unitKP o) = false → ∃ t, Machine.exec (.diagPort c lanes) s = .next t ∧
      ends t 0 ∧ (∀ k, k < arg ∨ arg + 64 ≤ k → hostByte t k = hostByte s k) ∧ RegsKept [(unitMC, [0x30, 0x100])] s t ∧
      Only [.regs, .hi, .host, .freeCtr] s t) ∧
    (∀ op, op % 256 ∉ mcOps → ∃ t, Machine.exec (.undefinedMcOp op c) s = .next t ∧ ends t 9 ∧
      RegsKept [(unitMC, [0x30, 0x100])] s t ∧ Only [.regs, .hi] s t)) ∧
  (∀ s : State, s.pw.auxUp = true →
    (∀ i, Machine.exec (.mctpRequest (.sensor i)) s =
      .next { s with mc := { s.mc with answer := .reading (sensorPresent s i) (sensorReading s i) } }) ∧
    (getF s unitMC 0x18 21 21 = 1 → Machine.exec (.mctpRequest (.spdm .getMeasurements)) s =
      .next { s with mc := { s.mc with answer := .measurements s.mc.measures } }) ∧
    (∀ op c, s.mc.running = none →
      ∃ t k d, Machine.exec (.mctpRequest (.vendor op c)) s = .next t ∧ t.mc.answer = .command k d ∧ getF t unitMC 0x30 20 20 = 1) ∧
    (∀ op c, s.mc.running ≠ none →
      Machine.exec (.mctpRequest (.vendor op c)) s = .next { s with mc := { s.mc with answer := .command 0x02 [] } })) ∧
  (∀ (s : State) (v : Nat), commandable s unitMC = true → v < 2 ^ 64 →
    (s.mc.running = none → ∃ t, Machine.exec (.registerWrite 0x02020100 8 v) s = .next t ∧ t.mc = { s.mc with running := some (v % 256) } ∧
      getF t unitMC 0x100 63 63 = 0 ∧ RegsKept [(unitMC, [0x100])] s t ∧ Only [.regs, .mc] s t) ∧
    (s.mc.running ≠ none → ∃ t, Machine.exec (.registerWrite 0x02020100 8 v) s = .next t ∧ getF t unitMC 0x28 2 2 = 1 ∧
      RegsKept [(unitMC, [0x28, 0x30])] s t ∧ Only [.regs, .hi] s t)) ∧
  (∀ s : State, linkUp s = true →
    (∀ n, n ≤ 65536 → ∃ t, Machine.exec (.doeObject (.cdat n)) s = .next t ∧ t.hi.doeOut = .ranges (cdatRanges s) ∧
      t.hi.doeError = s.hi.doeError ∧ (0 ∈ s.hi.unmasked → t.hi.msixSent = s.hi.msixSent ++ [0]) ∧ RegsKept [] s t ∧ Only [.hi] s t) ∧
    (∀ n, 65536 < n → Machine.exec (.doeObject (.cdat n)) s = .next { s with hi := { s.hi with doeError := true } }))

/-! ### Supplies and the boot sequence -/

/-- PWR_GOOD, or P54 back within range, starts the main regulators exactly when the auxiliary supply is up, the other holds
and no trip holds. While they run: P54 below 43 V or above 59 V, PWR_GOOD deasserted while PERST_N is released, and a
thermal trip switch them off; device memory is lost, host memory and TIME stay, and TRIP_INFO records the cause (3, 4, 5, or
the trip's with its sensor and reading). A trip holds until the auxiliary supply is removed; its loss leaves of the device
the flash, the record store, the keys, the secret and the fuses, and every register but the fuses' reads its reset value.
(R462, R501, R534, R536, R537, R550) -/
def Obligations.SuppliesDecideMainPower : Prop :=
  (∀ s : State, (∃ t, Machine.exec .pwrGood s = .next t ∧ t.pw.pwrGood = true ∧
      (t.pw.mainOn = true ↔ s.pw.auxUp = true ∧ s.pw.p54 = true ∧ s.pw.tripped = false) ∧ Only [.pw] s t) ∧
    (∃ t, Machine.exec .p54WithinRange s = .next t ∧ t.pw.p54 = true ∧
      (t.pw.mainOn = true ↔ s.pw.auxUp = true ∧ s.pw.pwrGood = true ∧ s.pw.tripped = false) ∧ Only [.pw] s t)) ∧
  (∀ s : State, s.pw.mainOn = true →
    let off (t : State) (cause : Nat) : Prop :=
      t.pw.mainOn = false ∧ t.mem = [] ∧ t.host = s.host ∧ t.tb.time = s.tb.time ∧ t.mc.store0 = s.mc.store0 ∧
        t.mc.store1 = s.mc.store1 ∧ t.mc.flash = s.mc.flash ∧ getF t unitPW 0x188 63 63 = 1 ∧ getF t unitPW 0x188 39 32 = cause
    (∀ v, v < 4300 → ∃ t, Machine.exec (.p54Undervoltage v) s = .next t ∧ off t 3 ∧ t.pw.p54 = false) ∧
    (∀ v, 5900 < v → ∃ t, Machine.exec (.p54Overvoltage v) s = .next t ∧ off t 4 ∧ t.pw.p54 = false) ∧
    (s.pw.perst = true → ∃ t, Machine.exec .pwrGoodDeassert s = .next t ∧ off t 5 ∧ t.pw.pwrGood = false) ∧
    (∀ k v, s.pw.auxUp = true → s.pw.tripped = false → v < 2 ^ 16 → tripCause s k v ≠ 0 →
      ∃ t, Machine.exec (.thermalTrip k v) s = .next t ∧ off t (tripCause s k v) ∧ t.pw.tripped = true ∧
        getF t unitPW 0x188 30 24 = k ∧ getF t unitPW 0x188 15 0 = v)) ∧
  (∀ s : State, s.pw.auxUp = true → ∃ t, Machine.exec .auxPowerLoss s = .next t ∧ t.pw.auxUp = false ∧ t.pw.tripped = false ∧
    t.mem = [] ∧ t.host = s.host ∧ t.mc.flash = s.mc.flash ∧ t.mc.store0 = s.mc.store0 ∧ t.mc.store1 = s.mc.store1 ∧
    t.mc.keys = s.mc.keys ∧ t.mc.secret = s.mc.secret ∧ getF t unitMC 0x130 11 0 = getF s unitMC 0x130 11 0 ∧
    (∀ u off, isUnit u = true → off < 0x1000 → (u = unitMC → off ≠ 0x130) → getReg t u off = regReset s.variant u off))

/-- Asserting PERST_N leaves every block but MC disabled, empties device memory, takes the link down and keeps TIME, host
memory, the flash and the store. Its release with both supplies on starts the device: CFG_LOCK reads 0, the boot counter is
one higher, and the profile is the pending selection, which it consumes, or else that of the pins. A CXL reset restarts the
device in the same way from the pins last sampled. The link trains at 8 or 16 lanes at a rate of R468, and BAR0 answers from
then on. (R468, R470, R498, R507, R513, R523) -/
def Obligations.ResetsRestartTheDevice : Prop :=
  (∀ s : State, s.pw.perst = true → ∃ t, Machine.exec .perstAssert s = .next t ∧ t.pw = { s.pw with perst := false } ∧
    (∀ u, isUnit u = true → u ≠ unitMC → enabled t u = false) ∧ linkUp t = false ∧ t.mem = [] ∧ t.host = s.host ∧
    t.tb.time = s.tb.time ∧ t.mc.flash = s.mc.flash ∧ t.mc.store0 = s.mc.store0 ∧ t.mc.store1 = s.mc.store1 ∧
    t.hi.msixSent = s.hi.msixSent) ∧
  (∀ (s : State) (pins : Nat), s.pw.perst = false → s.pw.auxUp = true → s.pw.mainOn = true → bootCount s < 3 →
    s.mc.sbRequested = false → pins < 4 →
    ∃ t, Machine.exec (.perstRelease pins) s = .next t ∧ t.pw = { s.pw with perst := true } ∧ t.mc.bootStep = 5 ∧
      bootCount t = bootCount s + 1 ∧ getF t unitMC 0x158 0 0 = 0 ∧ getF t unitMC 0x118 1 0 = pins ∧ getF t unitMC 0x118 4 4 = 0 ∧
      activeProfile t = (if getF s unitMC 0x118 4 4 = 1 then getF s unitMC 0x118 3 2 else pins) ∧
      getReg t unitMC 0x138 = Config.nonce s.freeCtr ∧ t.host = s.host) ∧
  (∀ s : State, s.pw.perst = true → s.pw.mainOn = true → bootCount s < 3 → s.mc.sbRequested = false →
    ∃ t, Machine.exec .cxlReset s = .next t ∧ t.pw = s.pw ∧ t.mc.bootStep = 5 ∧ bootCount t = bootCount s + 1 ∧ t.mem = [] ∧
      t.host = s.host ∧ t.tb.time = s.tb.time ∧ linkUp t = false ∧ activeProfile t = getF s unitMC 0x118 1 0) ∧
  (∀ (s : State) (w v : Nat), s.pw.perst = true → s.pw.mainOn = true → (w = 8 ∨ w = 16) → 3 ≤ v → v ≤ 5 →
    ∃ t, Machine.exec (.cxlLinkTrained w v) s = .next t ∧ getF t unitHI 0x1F0 12 8 = w ∧ getF t unitHI 0x1F0 3 0 = v ∧
      linkUp t = true ∧ RegsKept [(unitHI, [0x1F0])] s t ∧ Only [.regs] s t)

/-- The auxiliary supply starts MC and TIME. At step 5 an image that passes its checks leads to step 7 with IMAGE_VALID,
FW_VERSION and KEY_SLOT of its header; one that fails enters strongbox mode with reason 1, or 2 for the anti-rollback check.
At step 7 the memory training of a present stack with at most two failing lanes in each channel leaves it trained, and the
loopback test passes when no enabled port fails. The profile's entries, all accepted, lead to step 9 with the locks in
force; ready sets the boot counter to 0, DEV STATE to 1 and DEV CTRL ENABLE. The ten-second and the firmware watchdog end a
start as a counted failure with reason 5: a restart is due, or at a count of 3 strongbox mode; a restart goes on from step 5
with the count one higher. (R498, R500, R507, R508, R510, R512) -/
def Obligations.BootReachesReady : Prop :=
  (∀ (s : State) (ok : Bool), s.pw.auxUp = false → ∃ t, Machine.exec (.auxPowerUp ok) s = .next t ∧ t.pw.auxUp = true ∧
    enabled t unitMC = true ∧ getF t unitMC 0x18 21 21 = bit ok ∧ t.tb = {} ∧
    (t.pw.mainOn = true ↔ s.pw.pwrGood = true ∧ s.pw.p54 = true ∧ s.pw.tripped = false)) ∧
  (∀ (s : State) (ok : Bool), s.mc.bootStep = 5 → ∃ t, Machine.exec (.imageVerify ok) s = .next t ∧
    (imageCheck s ok = 0 → t.mc.bootStep = 7 ∧ getF t unitMC 0x18 18 18 = 1 ∧ getReg t unitDEV 0x110 = fwVersion (imageHeader s) ∧
      getF t unitMC 0x130 17 16 = hdrSlot (imageHeader s) % 4 ∧ t.mc.imageSvn = hdrSvn (imageHeader s) ∧ t.mem = s.mem) ∧
    (imageCheck s ok ≠ 0 → strongbox t = true ∧ getF t unitMC 0x18 18 18 = 0 ∧
      getF t unitMC 0x120 15 8 = if imageCheck s ok = 5 then 2 else 1)) ∧
  (∀ (s : State) (st : Nat) (bad : List Nat), s.mc.bootStep = 7 → st < 12 → present s (unitHS st) = true → st ∉ s.mc.trained →
    trainingPasses bad = true → ∃ t, Machine.exec (.memoryTraining st bad) s = .next t ∧ getF t (unitHS st) 0x18 22 22 = 1 ∧
      t.mc = { s.mc with trained := st :: s.mc.trained } ∧
      RegsKept [(unitHS st, [0x18, 0x1A8, 0x1B0]), (unitDEV, [0x128])] s t ∧ Only [.regs, .hs, .mc] s t) ∧
  (∀ s : State, s.mc.bootStep = 7 → s.mc.looped = false →
    Machine.exec (.loopbackSelftest []) s = .next { s with mc := { s.mc with looped := true } }) ∧
  (∀ (s : State) (b : List Byte), s.mc.bootStep = 7 → trainingOver s = true → profileRecord s (activeProfile s) = some b →
    levelSupported s (leAt b 1 1) = true →
    (applyEntries 0 (profileEntries b) (setF s unitDEV 0x118 7 0 (leAt b 1 1))).2 = true →
    ∃ t, Machine.exec .profileApply s = .next t ∧ t.mc.bootStep = 9 ∧ t.locks = leAt b 2 2 % 32) ∧
  (∀ s : State, s.mc.bootStep = 9 → ∃ t, Machine.exec .deviceReady s = .next t ∧ t.mc.bootStep = 10 ∧ getF t unitDEV 0x120 3 0 = 1 ∧
    bootCount t = 0 ∧ enabled t unitDEV = true ∧ Only [.regs, .mc] s t) ∧
  (∀ s : State, s.mc.restartDue = true → bootCount s < 3 → s.mc.sbRequested = false →
    ∃ t, Machine.exec .bootRestart s = .next t ∧ t.mc.bootStep = 5 ∧ t.mc.restartDue = false ∧ bootCount t = bootCount s + 1 ∧
      t.mem = [] ∧ t.host = s.host ∧ t.tb = s.tb ∧ activeProfile t = activeProfile s) ∧
  (∀ s : State, 5 ≤ s.mc.bootStep → s.mc.bootStep < 10 → ∀ i : Instr, i ∈ [.bootWatchdog, .mcFirmwareWatchdog] →
    ∃ t, Machine.exec i s = .next t ∧ getF t unitMC 0x120 15 8 = 5 ∧ getF t unitMC 0x120 7 0 = stepReached s ∧
      (bootCount s ≠ 3 → t.mc.restartDue = true) ∧ (bootCount s = 3 → strongbox t = true))

/-- While the auxiliary supply is up: the first record that waits is appended to the half in use with the next SEQ, which
RECORD_SEQ then shows; one whose program fails keeps an erased COMMIT byte, does not count and sets ERR_SUMMARY bit 17. A
compaction that is due makes the other half the one in use, of the next generation, holding a half-start record, the live
records in their order and a compaction-done record, and erases the old half. (R515, R517) -/
def Obligations.RecordsAreAppendedAndCompacted : Prop :=
  (∀ (s : State) (r : FlashRec) (rest : List FlashRec), s.pw.auxUp = true → s.flashDue = r :: rest → compactDue s = false →
    storeTail s + recordSize r.body.length ≤ halfBytes →
    (∃ t, Machine.exec (.recordWrite false) s = .next t ∧ t.flashDue = rest ∧
      records t = records s ++ [⟨r.type, (lastSeq s + 1) % 2 ^ 64, r.body, false⟩] ∧ lastSeq t = (lastSeq s + 1) % 2 ^ 64 ∧
      RegsKept [(unitMC, [0x148, 0x150])] s t ∧ Only [.regs, .mc, .flashDue] s t) ∧
    (∃ t, Machine.exec (.recordWrite true) s = .next t ∧ t.flashDue = rest ∧ records t = records s ∧ lastSeq t = lastSeq s ∧
      getF t unitMC 0x28 17 17 = 1 ∧ RegsKept [(unitMC, [0x28, 0x30, 0x148, 0x150])] s t ∧ Only [.regs, .hi, .mc, .flashDue] s t)) ∧
  (∀ s : State, s.pw.auxUp = true → compactDue s = true →
    ∃ t, Machine.exec .compaction s = .next t ∧ t.mc.half = (s.mc.half + 1) % 2 ∧ t.mc.gen = s.mc.gen + 1 ∧
      halfRecords t s.mc.half = [] ∧
      (records t).map (fun r => (r.type, r.body)) = [(0x0007, leBytes 4 (s.mc.gen + 1))] ++
        (liveRecords (records s)).map (fun r => (r.type, r.body)) ++ [(0x0008, leBytes 4 (s.mc.gen + 1))] ∧
      RegsKept [(unitMC, [0x148, 0x150])] s t ∧ Only [.regs, .mc] s t)

/-- While the auxiliary supply is up, a power sample adds its energy and gives POWER the average of the last millisecond,
and SUPPLY its voltages; one between 43 V and 44 V or 58 V and 59 V sets SUPPLY. A sample of the sensors gives the junction
of each quarter its hottest reading and the coolant registers theirs. While the main supply is on: a cap step takes the
scaled islands one step down while the average exceeds the cap, not below 8, one step up below 0.98 of it, not above 64, and
leaves them otherwise; a throttled quarter goes one step down and one that is not goes one step up; and ten milliseconds at
the floor above the cap set CAP_UNMET. (R528, R529, R530, R532, R533, R537, R549) -/
def Obligations.SensorsPowerAndClocks : Prop :=
  (∀ (s : State) (w mv ca av aw : Nat), s.pw.auxUp = true → w < 8192 → mv < 2 ^ 16 → ca < 2 ^ 16 → av < 2 ^ 16 → aw < 2 ^ 16 →
    ∃ t, Machine.exec (.powerMeasure w mv ca av aw) s = .next t ∧ t.pw.samples = (w :: s.pw.samples).take 100 ∧
      getF t unitPW 0x140 12 0 = min (powerSum t / 100) 8191 ∧
      getReg t unitPW 0x150 = BitVec.ofNat 64 ((getReg s unitPW 0x150).toNat + (s.pw.energyRem + w) / 100) ∧
      getF t unitPW 0x158 63 48 = ca ∧ getF t unitPW 0x158 47 32 = mv ∧ getF t unitPW 0x158 31 16 = aw ∧ getF t unitPW 0x158 15 0 = av ∧
      (supplyMarginal mv = true → getF t unitPW 0x28 16 16 = 1) ∧
      RegsKept [(unitPW, [0x18, 0x28, 0x30, 0x140, 0x148, 0x150, 0x158])] s t ∧ Only [.regs, .hi, .pw] s t) ∧
  (∀ (s : State) (rs : List Nat), s.pw.auxUp = true → ∃ t, Machine.exec (.sensorSample rs) s = .next t ∧
    (∀ k, k < rs.length → sensorPresent s k = true → sensorReading t k = rs.getD k 0 % 2 ^ 16) ∧
    (∀ q, q < 4 → getF t unitPW 0x160 (16 * q + 15) (16 * q) = unsignedOf 16 (junction t q)) ∧
    getF t unitPW 0x168 15 0 = sensorReading t 112 ∧ getF t unitPW 0x168 31 16 = sensorReading t 113) ∧
  (∀ s : State, s.pw.mainOn = true →
    (∃ t, Machine.exec .capStep s = .next t ∧
      (overCap s = true → t.pw.capStep = max 8 (s.pw.capStep - 1)) ∧
      (powerSum s < 98 * capWatts s → t.pw.capStep = min 64 (s.pw.capStep + 1)) ∧
      (overCap s = false → 98 * capWatts s ≤ powerSum s → t.pw.capStep = s.pw.capStep) ∧
      RegsKept [(unitPW, [0x198])] s t ∧ Only [.regs, .pw] s t) ∧
    (∀ q, q < 4 → ∃ t, Machine.exec (.juncThrottle q) s = .next t ∧
      downOf t q = (if q ∈ s.pw.hot then min 56 (downOf s q + 1) else downOf s q - 1) ∧ (∀ p, p ≠ q → downOf t p = downOf s p) ∧
      RegsKept [] s t ∧ Only [.pw] s t) ∧
    (∀ i, s.pw.floorSince = some i → overCap s = true → s.pw.capStep = 8 → getF s unitPW 0x18 20 20 = 0 →
      ∃ t, Machine.exec .capUnmet s = .next t ∧ getF t unitPW 0x18 20 20 = 1 ∧ getF t unitPW 0x28 17 17 = 1 ∧
        RegsKept [(unitPW, [0x18, 0x28, 0x30]), (unitTB, [0x30])] s t ∧ Only [.regs, .hi, .tb, .pw] s t))

/-! ### Links -/

/-- While TB is enabled: at each interval a grandmaster that follows none sends SYNC with HOPS 0, its DEVICE_ID and TIME on
every port of SYNC_PORTS that is up. A follower that takes a SYNC records its offset (arrival minus transmission minus link
delay), its port and HOPS + 1, and clears HOLDOVER; after its first lock TIME does not step and the rate correction is
within 20,000, and before it, an error bound within ALARM_NS sets LOCKED and steps TIME by minus the offset. DELAY_REQ is
answered with its own time, its arrival and TIME; DELAY_RSP of the open measurement gives the link delay ((t4 - t1) - (t3 -
t2)) / 2. (R82, R394, R421) -/
def Obligations.SyncMessagesKeepTime : Prop :=
  (∀ s : State, enabled s unitTB = true → syncRole s = 1 → s.tb.following = false →
    ∃ t, Machine.exec .syncInterval s = .next t ∧ Only [.fab] s t ∧ t.fab.out.take s.fab.out.length = s.fab.out ∧
      (t.fab.out.drop s.fab.out.length).map (fun o => o.port) = (syncPorts s).map some ∧
      ∀ o ∈ t.fab.out.drop s.fab.out.length, o.seg.type = 0x12 ∧ o.seg.body = syncBody (deviceId s) 0 s.tb.time) ∧
  (∀ (s : State) (m : Message) (l1 l2 : List Message) (e r : Nat), enabled s unitTB = true → syncRole s = 2 →
    s.fab.inbox = l1 ++ m :: l2 → (∀ x ∈ l1, x.seg.type ≠ 0x12) → m.seg.type = 0x12 → bitOf (getReg s unitTB 0x128) m.port = true →
    takesFrom s m = true → m.port < 48 → leAt m.seg.body 2 2 < 255 →
    let off : Int := (m.at_ : Int) - (leAt m.seg.body 4 8 : Int) - s.tb.linkDelay
    ∃ t, Machine.exec (.sync e r) s = .next t ∧ (getReg t unitTB 0x138).toNat = unsignedOf 32 off ∧
      getF t unitTB 0x130 23 16 = leAt m.seg.body 2 2 + 1 ∧ getF t unitTB 0x130 13 8 = m.port ∧ getF t unitTB 0x130 1 1 = 0 ∧
      t.fab.inbox = l1 ++ l2 ∧
      (s.tb.lockedOnce = true → t.tb.time = s.tb.time ∧ -20000 ≤ signedOf 16 (getReg t unitTB 0x148).toNat ∧
        signedOf 16 (getReg t unitTB 0x148).toNat ≤ 20000) ∧
      (s.tb.lockedOnce = false → e ≤ getF s unitTB 0x120 15 8 → getF t unitTB 0x130 0 0 = 1 ∧ getF t unitTB 0x130 2 2 = 1 ∧
        t.tb.time = unsignedOf 64 ((s.tb.time : Int) - off))) ∧
  (∀ (s : State) (m : Message) (l1 l2 : List Message), s.fab.inbox = l1 ++ m :: l2 → (∀ x ∈ l1, x.seg.type ≠ 0x13) →
    m.seg.type = 0x13 → ∃ t o, Machine.exec .delayReq s = .next t ∧ t.fab.inbox = l1 ++ l2 ∧ t.fab.out = s.fab.out ++ [o] ∧
      o.port = some m.port ∧ o.seg.type = 0x14 ∧ o.seg.dest = m.seg.src ∧
      o.seg.body = slice m.seg.body 0 8 ++ leBytes 8 m.at_ ++ leBytes 8 s.tb.time ∧ Only [.fab] s t) ∧
  (∀ (s : State) (m : Message) (l1 l2 : List Message), s.fab.inbox = l1 ++ m :: l2 → (∀ x ∈ l1, x.seg.type ≠ 0x14) →
    m.seg.type = 0x14 → leAt m.seg.body 0 8 = s.tb.reqAt → m.port = s.tb.reqPort →
    ∃ t, Machine.exec .delayRsp s = .next t ∧ t.fab.inbox = l1 ++ l2 ∧ Only [.tb, .fab] s t ∧
      t.tb = { s.tb with linkDelay :=
        (((m.at_ : Int) - leAt m.seg.body 0 8) - ((leAt m.seg.body 16 8 : Int) - leAt m.seg.body 8 8)) / 2 })

/-- On an enabled port: a training with eight passing lanes maps the logical lanes to the first eight in order and the spare
to the ninth; with fewer a first training fails the link. A peer of another domain or with this device's number leaves
LINK_STATE 5 with ID_MISMATCH; any other brings the link up (2) with full credits and INT_STATUS LINK_UP. On a link that is
up, a loss of deskew and a silence of 2 ms start a retraining (3), counted in RETRAINS; so does CMD RETRAIN on a link that
is up, failed or mismatched. A retraining that completes brings the link up again; one that fails starts another, and the
third in a row fails the link (4) with LINK_FAIL and a fault. (R382, R383, R385, R387) -/
def Obligations.LinksTrainAndRetrain : Prop :=
  (∀ (s : State) (p : Nat) (lanes : List LaneTest), listens s p = true → (linkState s p = 1 ∨ linkState s p = 3) →
    ∃ t, Machine.exec (.linkTraining p lanes) s = .next t ∧
      (8 ≤ (passing s p lanes).length → (portOf t p).trained = true ∧ linkState t p = linkState s p ∧
        (∀ l, l < 8 → some (physLane t p l) = (passing s p lanes)[l]?) ∧ spareLane t p = (passing s p lanes).getD 8 0xF) ∧
      ((passing s p lanes).length < 8 → linkState s p = 1 → linkState t p = 4 ∧ getF t (unitKP p) 0x28 21 21 = 1)) ∧
  (∀ (s : State) (p : Nat) (i : Identity), listens s p = true → linkState s p = 1 → (portOf s p).trained = true →
    ∃ t, Machine.exec (.identityFrame p i) s = .next t ∧ Only [.regs, .hi, .fab] s t ∧
      (i.tag ≠ getF s unitPD 0x100 47 32 ∨ i.device = deviceId s → linkState t p = 5 ∧ getF t (unitKP p) 0x28 22 22 = 1) ∧
      (i.tag = getF s unitPD 0x100 47 32 → i.device ≠ deviceId s → linkState t p = 2 ∧ (portOf t p).credits = fullCredits ∧
        getF t (unitKP p) 0x110 41 32 = i.device % 1024 ∧ getF t (unitKP p) 0x30 23 23 = 1)) ∧
  (∀ (s : State) (p : Nat), listens s p = true → linkState s p = 2 → ∀ i : Instr, i ∈ [.lossOfDeskew p, .linkSilence p] →
    ∃ t, Machine.exec i s = .next t ∧ linkState t p = 3 ∧
      getF t (unitKP p) 0x130 31 0 = min (getF s (unitKP p) 0x130 31 0 + 1) (2 ^ 32 - 1) ∧ (portOf t p).retry = (portOf s p).retry) ∧
  (∀ (s : State) (p : Nat), listens s p = true → linkUp s = true → linkState s p ∈ [2, 4, 5] →
    ∃ t, Machine.exec (.retrain p) s = .next t ∧ linkState t p = 3 ∧ (portOf t p).fails = 0 ∧
      getF t (unitKP p) 0x130 31 0 = min (getF s (unitKP p) 0x130 31 0 + 1) (2 ^ 32 - 1)) ∧
  (∀ (s : State) (p : Nat), listens s p = true → linkState s p = 3 →
    ((portOf s p).trained = true → ∃ t, Machine.exec (.retrainingComplete p true) s = .next t ∧ linkState t p = 2 ∧
      (portOf t p).fails = 0 ∧ (portOf t p).retry = (portOf s p).retry ∧ getF t (unitKP p) 0x30 23 23 = 1) ∧
    (∃ t, Machine.exec (.retrainingComplete p false) s = .next t ∧
      ((portOf s p).fails < 2 → linkState t p = 3 ∧ (portOf t p).fails = (portOf s p).fails + 1) ∧
      (2 ≤ (portOf s p).fails → linkState t p = 4 ∧ getF t (unitKP p) 0x28 21 21 = 1 ∧
        ∃ f, t.esc.pendingFaults = s.esc.pendingFaults ++ [f] ∧ f.unit = unitKP p ∧ f.kind = 0x06)))

/-- On a link that is up: a logical lane that fails is noted for repair when R384 can repair it, and otherwise the link
retrains. A window of the unused spare whose ratio is beyond SER_LIMIT makes the spare unusable; a window within the limit
only counts its errors. A repair that is asked for moves the lane to the spare, which is then in use, and counts a retired
lane. (R76, R384, R385) -/
def Obligations.LanesAreSparedInService : Prop :=
  ∀ (s : State) (p : Nat), listens s p = true → linkState s p = 2 →
    (∀ l, l < 8 → (portOf s p).repair = none → ∃ t, Machine.exec (.lossOfLock p l) s = .next t ∧
      (canRepair s p = true → (portOf t p).repair = some l ∧ linkState t p = 2) ∧ (canRepair s p = false → linkState t p = 3)) ∧
    (∀ k (m : LaneTest), k < 9 → ∃ t, Machine.exec (.serWindow p k m) s = .next t ∧
      (getReg t (unitKP p) (0x180 + 8 * k)).toNat = min ((getReg s (unitKP p) (0x180 + 8 * k)).toNat + m.errors) (2 ^ 64 - 1) ∧
      (m.ratio ≤ getF s (unitKP p) 0x100 23 8 → RegsKept [(unitKP p, [0x180 + 8 * k])] s t ∧ Only [.regs] s t) ∧
      (getF s (unitKP p) 0x100 23 8 < m.ratio → spareLane s p = k → getF s (unitKP p) 0x18 23 23 = 0 →
        getF t (unitKP p) 0x18 22 22 = 0 ∧ linkState t p = 2 ∧ Only [.regs] s t)) ∧
    (∀ l, l < 8 → (portOf s p).repair = some l → ∃ t, Machine.exec (.laneRepair p) s = .next t ∧ physLane t p l = spareLane s p ∧
      (∀ j, j < 8 → j ≠ l → physLane t p j = physLane s p j) ∧ getF t (unitKP p) 0x18 23 23 = 1 ∧ (portOf t p).repair = none ∧
      linkState t p = 2 ∧ getF t unitDEV 0x128 31 24 = min (getF s unitDEV 0x128 31 24 + 1) 255)

/-- On a port that carries frames: a good data frame with the expected FSEQ advances the expected number by one, modulo
2^16, and counts in FRAMES_RX; with any other FSEQ it is discarded. A frame that is not good is discarded, and the port owes
a NAK unless it has set one within 2 microseconds. An idle frame's header counts and its FSEQ is never expected: a good one
notes that the link is alive and returns credits. (R380, R381, R386, R387, R389) -/
def Obligations.FramesAreAcceptedInOrder : Prop :=
  ∀ (s : State) (p : Nat) (f : Frame), carries s p = true →
    let x := portOf s p
    (frameGood f = true → fhKind f.header = 0 → ∃ t, Machine.exec (.dataFrame p f) s = .next t ∧
      (fhSeq f.header = x.expected → (portOf t p).expected = (x.expected + 1) % 65536 ∧ (portOf t p).lastGood = s.tb.time ∧
        (getReg t (unitKP p) 0x140).toNat = min ((getReg s (unitKP p) 0x140).toNat + 1) (2 ^ 64 - 1)) ∧
      (fhSeq f.header ≠ x.expected → x.expected < 65536 → (portOf t p).expected = x.expected ∧ (portOf t p).rx = x.rx ∧
        t.fab.inbox = s.fab.inbox ∧ getReg t (unitKP p) 0x140 = getReg s (unitKP p) 0x140)) ∧
    (f.bad = [] → frameGood f = false → ∃ t, Machine.exec (.dataFrame p f) s = .next t ∧ (portOf t p).expected = x.expected ∧
      (portOf t p).rx = x.rx ∧ t.fab.inbox = s.fab.inbox ∧ getF t (unitKP p) 0x28 17 17 = 1 ∧
      ((∀ i, x.nakAt = some i → i + 2000 ≤ s.tb.time) → (portOf t p).nak = true ∧ (portOf t p).nakAt = some s.tb.time)) ∧
    (frameGood f = true → fhKind f.header = 1 → ∃ t, Machine.exec (.idleFrame p f) s = .next t ∧
      (portOf t p).expected = x.expected ∧ (portOf t p).rx = x.rx ∧ (portOf t p).lastGood = s.tb.time ∧ t.fab.inbox = s.fab.inbox ∧
      (portOf t p).credits = addAt (addAt x.credits (natField f.header 91 89) (natField f.header 88 80)) (natField f.header 79 77)
        (natField f.header 76 68))

/-! ### The ledgers -/

/-- With no epoch open or starting, a ring that is enabled offers its next descriptor to the ledger of its quarter. Where a
point of R328 holds it back, nothing is admitted, the ring shows the reason in HELD and ADMIT_WAIT sets. Otherwise the ring
moves on; a descriptor that a check of R301 refuses sets LAST_REFUSED and REFUSED, queues its FAILED record and takes no
ADMIT_SEQ; one that none refuses becomes a task with the next ADMIT_SEQ, admitted now. An admitted TABLE_SWITCH that passes
its checks makes its version current, or none with REMOVE, and an admitted CTX_SET that defines a context defines it at
once. The rows ADMIT, TABLE_SWITCH and CTX_SET do the same. (R189, R300, R301, R323, R328) -/
def Obligations.AdmissionTakesRefusesOrHolds : Prop :=
  ∀ (s : State) (n : Nat) (d : List Byte) (l : List (List Byte)), n < 256 → (ringOf s n).fetched = d :: l → (ringOf s n).state = 1 →
    usable s (unitLG (dQuarter d)) = true → openEpoch s = 0 → phase s = 0 → s.esc.startWanted = false →
    (∀ x ∈ s.led.tasks, x.seq ≠ s.led.nextSeq) → s.led.nextSeq < 2 ^ 48 →
    ∀ i : Instr, (i = .admission n ∨ (i = .tableSwitch n ∧ dTableSwitch d = true) ∨
        (i = .ctxSet n ∧ dLedgerClass d = true ∧ dOp d = 4)) →
    ∃ t, Machine.exec i s = .next t ∧
      (holdCode s d ≠ 0 → (ringOf t n).held = holdCode s d ∧ (ringOf t n).fetched = d :: l ∧
        getF t (unitLG (dQuarter d)) 0x18 17 17 = 1 ∧ t.led = s.led) ∧
      (holdCode s d = 0 → (ringOf t n).fetched = l ∧ (ringOf t n).offer = ((ringOf s n).offer + 1) % 2 ^ 32 ∧
        (∀ m, m < 256 → m ≠ n → ringOf t m = ringOf s m) ∧
        (∀ st, refusal s n d = some st → t.led.nextSeq = s.led.nextSeq ∧ getF t (unitLG (dQuarter d)) 0x160 63 32 = dTaskId d ∧
          getF t (unitLG (dQuarter d)) 0x28 17 17 = 1 ∧
          ∃ x ∈ t.led.records, x.ring = n ∧ x.bytes = taskRecord d { verdict := .failed, status := st, time := s.tb.time } 0) ∧
        (refusal s n d = none → t.led.nextSeq = (s.led.nextSeq + 1) % 2 ^ 48 ∧ getF t (unitLG (dQuarter d)) 0x168 47 0 = s.led.nextSeq ∧
          (∃ x ∈ t.led.tasks, x.seq = s.led.nextSeq ∧ x.ring = n ∧ x.desc = d ∧ x.tAdmit = s.tb.time) ∧
          (dTableSwitch d = true → switchRefusal s d = none →
            (tblEntry t (leAt d 36 2)).current.map (fun v => (v.version, v.base, v.rows, v.rowBytes)) =
              if (leAt d 34 1).testBit 1 then none else some (leAt d 38 2, leAt d 48 8, leAt d 40 4, leAt d 44 4)) ∧
          (dTableSwitch d = false → dLedgerClass d = true → dOp d = 4 → (leAt d 33 1).testBit 0 = false →
            ctxOf t (leAt d 36 2) = some (newCtx d))))

/-- When a ledger-class task may be looked at: a MARK, and a JOIN of all its names, is skipped when an edge cannot be
satisfied and ends OK when all are; a JOIN of any name ends OK, once every edge is decided, when one is satisfied and is
skipped otherwise. A COND whose edges are satisfied ends OK with COND_TRUE exactly when its source has a value and the
comparison holds, and NO_VALUE when it has none; a RETRY whose scope has ended ends OK when no metric exceeds its bound, OK
at the widest when one does and no wider attempt is left, and otherwise starts the next attempt with its slots at zero. A
pair whose cores disagree, or whose watchdog expires, is retired. (R142, R311, R312, R313, R314, R333, R334) -/
def Obligations.LedgerTasksEnd : Prop :=
  (∀ (s : State) (seq : Nat) (x : Task),
    let ends (t : State) (v : Verdict) (st : Nat) : Prop :=
      ∃ y e, taskOf t seq = some y ∧ y.ending = some e ∧ e.verdict = v ∧ e.status = st ∧ e.time = s.tb.time
    (ledgerTask s seq 5 = some x → ∃ t, Machine.exec (.mark seq) s = .next t ∧
      (anyUnsat s x = true → ends t .skipped 0xF0) ∧ (anyUnsat s x = false → allSat s x = true → ends t .ok 0)) ∧
    (ledgerTask s seq 1 = some x → ∃ t, Machine.exec (.join seq) s = .next t ∧
      (joinAny x = false → anyUnsat s x = true → ends t .skipped 0xF0) ∧
      (joinAny x = false → anyUnsat s x = false → allSat s x = true → ends t .ok 0) ∧
      (joinAny x = true → allDecided s x = true → (∃ e ∈ x.edges, edgeState s x e = .satisfied) → ends t .ok 0) ∧
      (joinAny x = true → allDecided s x = true → (∀ e ∈ x.edges, edgeState s x e ≠ .satisfied) → ends t .skipped 0xF0) ∧
      (joinAny x = true → allDecided s x = false → t = s)) ∧
    (∀ cc, ledgerTask s seq 2 = some x → anyUnsat s x = false → allSat s x = true → mayEvaluate s (quarterOf x) (unitCC cc) = true →
      ∃ t y e, Machine.exec (.cond seq cc true) s = .next t ∧ taskOf t seq = some y ∧ y.ending = some e ∧ e.verdict = .ok ∧
        (e.noValue = true ↔ condValue s x = none) ∧
        (e.condTrue = true ↔ ∃ v ty, condValue s x = some (v, ty) ∧ condHolds (leAt x.desc 34 1) ty v (leAt x.desc 40 8) = true) ∧
        getF t (unitCC cc) 0x100 31 0 = min (getF s (unitCC cc) 0x100 31 0 + 1) (2 ^ 32 - 1)) ∧
    (∀ cc, ledgerTask s seq 3 = some x → x.edges = [] → (∀ y ∈ scopeOf s seq, y.ending.isSome = true ∧ y.seq ≠ seq) →
      mayEvaluate s (quarterOf x) (unitCC cc) = true →
      let above := ∃ m ∈ (retrySlots x.desc).map (metricOf s (leAt x.desc 33 1 = 1)), exceeds m (numOf32 (leAt x.desc 40 4)) = true
      let stuck := scopeCodes (scopeOf s seq) = [] ∨ 2 ≤ x.attempt ∨ ∃ c ∈ scopeCodes (scopeOf s seq), widerFmt c = none
      ∃ t y, Machine.exec (.retry seq cc true) s = .next t ∧ taskOf t seq = some y ∧
        (¬ above → ∃ e, y.ending = some e ∧ e.verdict = .ok ∧ e.atWidest = false) ∧
        (above → stuck → ∃ e, y.ending = some e ∧ e.verdict = .ok ∧ e.atWidest = true) ∧
        (above → ¬ stuck → y.ending = none ∧ y.attempt = x.attempt + 1 ∧
          ∀ k ∈ retrySlots x.desc, 0 < k → (slotOf t.tally.live k).w0 = 0 ∧ (slotOf t.tally.live k).w1 = 0 ∧
            (slotOf t.tally.live k).w2 = 0))) ∧
  (∀ (s : State) (cc : Nat), cc < 8 → usable s (unitCC cc) = true → ∃ t f, Machine.exec (.ccWatchdog cc) s = .next t ∧
    retired t (unitCC cc) = true ∧ enabled t (unitCC cc) = false ∧ getF t (unitCC cc) 0x28 17 17 = 1 ∧
    t.esc.pendingFaults = s.esc.pendingFaults ++ [f] ∧ f.unit = unitCC cc ∧ f.kind = 0x05)

/-- A tick boundary of a delay list leaves no task of that list with a delay that ends at or before it, and moves TIME to
it. A task whose deadline comes ends EXPIRED with status 0xF1 when it has not ended before, unless the device is contained.
The references of a draining version having gone, the version leaves the registry and its TABLE_DRAINED record is queued for
its ring. (R191, R318, R320) -/
def Obligations.DelaysAndDeadlines : Prop :=
  (∀ (s : State) (q l time : Nat), s.tb.time < 2 ^ 64 → time < 2 ^ 64 → time % max 1 (tickOf s q l) = 0 →
    ∃ t, Machine.exec (.delayTick q l time) s = .next t ∧ t.tb.time = max s.tb.time time ∧
      ∀ x ∈ t.led.tasks, quarterOf x = q → dDlist x.desc = l → ∀ b, x.delay = some b → time < b) ∧
  (∀ (s : State) (seq d : Nat) (x : Task), taskOf s seq = some x → x.ending = none → deadlineAt x = some d → contained s = false →
    ∃ t y e, Machine.exec (.deadlineExpiry seq) s = .next t ∧ taskOf t seq = some y ∧ y.ending = some e ∧ e.verdict = .expired ∧
      e.status = 0xF1) ∧
  (∀ (s : State) (n v : Nat) (x : TblVersion), contained s = false →
    (tblEntry s n).draining.find? (fun y => y.version = v && y.refs = 0) = some x →
    ∃ t r, Machine.exec (.tableDrained n v) s = .next t ∧
      tblEntry t n = { tblEntry s n with draining := (tblEntry s n).draining.filter fun y => y.version ≠ v } ∧
      (∀ m, m ≠ n → tblEntry t m = tblEntry s m) ∧ t.led.records = s.led.records ++ [r] ∧ r.q = x.q ∧ r.ring = x.ring ∧
      r.bytes.length = 32 ∧ leAt r.bytes 4 1 = 3 ∧ Only [.led] s t)

/-- While the device is not contained and the ledger serves: the dispatch of a quarter places the task that R307 puts first
in a till of the engine it chooses, and counts it. When an engine's front task is done, with its remote writes acknowledged
and room in the completion buffer, TASK_COMPLETE takes it out of the tills and ends it with the engine's verdict, status,
detail and flags, naming the engine. (R34, R306, R307, R308, R328) -/
def Obligations.DispatchAndCompletion : Prop :=
  (∀ (s : State) (q : Nat) (x : Task) (u : UnitId), q < 4 → contained s = false → usable s (unitLG q) = true →
    leastBy dispatchKey (dispatchable s q) = some x → chooseEngine s x = some u →
    ∃ t y c, Machine.exec (.taskDispatch q) s = .next t ∧ taskOf t x.seq = some y ∧ y.place = .till u c ∧ y.desc = x.desc ∧
      (engOf t u).tills = (engOf s u).tills ++ [x.seq] ∧
      (getReg t (unitLG q) 0x140).toNat = min ((getReg s (unitLG q) 0x140).toNat + 1) (2 ^ 64 - 1)) ∧
  (∀ (s : State) (u : UnitId) (x : Task) (e : Ending), (engOf s u).done = some e → runningTask s u = some x → contained s = false →
    (engOf s u).markerDue = false → bufferFull s (quarterOf x) = false → (∀ w ∈ s.rem.writes, w.who ≠ u) → roundPending s u = false →
    s.esc.startWanted = false →
    ∃ t y, Machine.exec (.taskComplete u) s = .next t ∧ taskOf t x.seq = some y ∧
      y.ending = some { e with engine := u.i, time := s.tb.time } ∧ x.seq ∉ (engOf t u).tills ∧ (engOf t u).done = none)

/-! ### Epochs and recovery -/

/-- While the EX page takes writes and PHASE is 0: with EX enabled and a collective engine in service, RUN = 1 of a domain
of one device whose tasks have all ended opens the epoch EPOCH_BASE names, with COMMITTED one below and PHASE 1; with no
collective engine RUN reads back 0 and NO_ROLE sets. RUN = 0 clears RUN and nothing else. An open epoch of the root closes
at its close instant, and at once when CLOSE asks for it: PHASE reads 2 and what is admitted from then on belongs to the
next epoch. A START from the parent opens the first epoch of a device that has sent its own. (R428, R439, R441, R442, R443,
R444) -/
def Obligations.EpochsOpenAndClose : Prop :=
  (∀ s : State, commandable s unitEX = true → phase s = 0 → enabled s unitEX = true → 1 ≤ epochBase s →
    ∃ t, Machine.exec .epochStart s = .next t ∧
      ((∀ n, n < 4 → usable s (unitCO n) = false) → getF t unitEX 0x110 0 0 = 0 ∧ getF t unitEX 0x18 17 17 = 1 ∧ phase t = 0) ∧
      ((∃ n, n < 4 ∧ usable s (unitCO n) = true) → treeRoot s = true → children s = [] → domainSize s = 1 →
        (∀ x ∈ s.led.tasks, x.ending.isSome = true ∧ x.released = true) →
        openEpoch t = epochBase s ∧ committed t = epochBase s - 1 ∧ phase t = 1 ∧ running t = true ∧ t.led.tasks = [] ∧
          t.led.names = [] ∧ t.esc.cutDone = false ∧ t.esc.openedAt = s.tb.time)) ∧
  (∀ s : State, commandable s unitEX = true → ∃ t, Machine.exec .epochStop s = .next t ∧ running t = false ∧
    openEpoch t = openEpoch s ∧ RegsKept [(unitEX, [0x110])] s t ∧ Only [.regs] s t) ∧
  (∀ s : State, phase s = 1 →
    (∃ t, Machine.exec .closeInstant s = .next t ∧ phase t = 2 ∧ t.esc.cutDone = true ∧ openEpoch t = openEpoch s ∧
      (closeAt s < 2 ^ 64 → closeAt s ≤ t.tb.time)) ∧
    (commandable s unitEX = true → treeRoot s = true → s.esc.requestSent = false →
      ∃ t, Machine.exec .close s = .next t ∧ phase t = 2 ∧ t.esc.cutDone = true ∧ openEpoch t = openEpoch s ∧
        t.tb.time = s.tb.time)) ∧
  (∀ (s s1 : State) (k : Token), takeToken s 4 = some (k, s1) → phase s = 0 → k.count = 0 → fromParent s k = true →
    s.esc.startSent = true → 1 ≤ epochBase s → ∃ t, Machine.exec .commitStart s = .next t ∧ openEpoch t = epochBase s ∧
      committed t = epochBase s - 1 ∧ phase t = 1 ∧ t.led.tasks = [])

/-- In a domain of one device, when the tasks of a closing epoch have ended and no write waits, the drain completes and the
epoch commits: COMMITTED names it, the committed tally view takes the live one, and the next epoch is open while RUN is 1,
and none otherwise. A device below the root commits in the same way on the COMMIT of its open epoch from its parent. A
child's VOTE is noted with its count; the close order from the parent closes the epoch. (R91, R440, R442, R444) -/
def Obligations.EpochsCommit : Prop :=
  (∀ s : State, 0 < openEpoch s → openEpoch s + 1 < 2 ^ 48 →
    let done (t : State) : Prop := committed t = openEpoch s ∧ openEpoch t = (if running s then openEpoch s + 1 else 0) ∧
      phase t = (if running s then 1 else 0) ∧ t.tally.committed = s.tally.live ∧ t.esc.cutDone = false
    (phase s = 2 → epochEnded s = true → (∀ v ∈ s.vb, v.2.buf = []) → s.rem.writes = [] → s.rem.rounds = [] → treeRoot s = true →
      children s = [] → domainSize s = 1 → s.esc.faulted = false → ∃ t, Machine.exec .drainComplete s = .next t ∧ done t) ∧
    (∀ (s1 : State) (k : Token), takeToken s 2 = some (k, s1) → fromParent s k = true → k.count = 0 → contained s = false →
      s.esc.abortEpoch = 0 → k.epoch = openEpoch s → ∃ t, Machine.exec .commitCommit s = .next t ∧ done t) ∧
    (∀ (s1 : State) (k : Token), takeToken s 1 = some (k, s1) → k.epoch = openEpoch s → contained s = false →
      ∃ t, Machine.exec .commitVote s = .next t ∧
        (k.count ≠ 0 → fromChild s k = true → s.esc.drained = false → t.esc.votes = noteCount s.esc.votes k ∧ phase t = phase s) ∧
        (k.count = 0 → fromParent s k = true → phase s = 1 → phase t = 2 ∧ t.esc.cutDone = true)))

/-- A fault that a unit has reported and that is the first since the last resume: LAST_FAULT and FAULT_TIME record it and
FAULT sets. With no epoch open the device goes on. With one open, at the root, and a kind within the guarantee, the device
contains itself: PHASE 4, DEV STATE 3, and ABORTED names the open epoch. An ABORT from the parent, of an epoch neither
committed nor aborted before, does the same. Thirty seconds after the root's ABORT without every report the domain fails:
PHASE 5, DEV STATE 4. (R448, R449, R450, R452, R453, R459) -/
def Obligations.FaultsAbortTheEpoch : Prop :=
  (∀ (s : State) (u : UnitId) (kind : Nat) (f : FaultReport), isUnit u = true → kind < 0x80 →
    s.esc.pendingFaults.find? (fun x => x.unit = u && x.kind = kind) = some f → f.device = none → s.esc.faulted = false →
    ∃ t, Machine.exec (.faultReport u kind) s = .next t ∧
      (phase s ≠ 5 → getF t unitEX 0x138 15 0 = reasonOf u kind ∧ getF t unitEX 0x138 53 44 = deviceId s ∧
        (getReg t unitEX 0x140).toNat = s.tb.time % 2 ^ 64 ∧ getF t unitEX 0x28 17 17 = 1) ∧
      (phase s = 0 → openEpoch s = 0 → phase t = 0 ∧ getF t unitEX 0x28 16 16 = 1 ∧ t.esc.suspects = [] ∧ t.led = s.led ∧
        t.mem = s.mem) ∧
      (0 < openEpoch s → phase s < 4 → treeRoot s = true → s.esc.abortEpoch = 0 → getF s unitEX 0x148 47 0 < openEpoch s →
        phase t = 4 ∧ getF t unitDEV 0x120 3 0 = 3 ∧ getF t unitEX 0x148 47 0 = openEpoch s ∧ t.esc.abortEpoch = openEpoch s ∧
          t.esc.faulted = true ∧ t.mem = s.mem)) ∧
  (∀ (s s1 : State) (k : Token), takeToken s 3 = some (k, s1) → phase s ≠ 5 → fromChild s k = false → fromParent s k = true →
    k.count = 0 → beyondGuarantee k.reason = false → committed s < k.epoch → k.epoch ≠ getF s unitEX 0x148 47 0 →
    ∃ t, Machine.exec .commitAbort s = .next t ∧ phase t = 4 ∧ getF t unitDEV 0x120 3 0 = 3 ∧ getF t unitEX 0x148 47 0 = k.epoch ∧
      t.esc.abortEpoch = k.epoch ∧ t.mem = s.mem) ∧
  (∀ s : State, phase s = 4 → treeRoot s = true → s.esc.abortEpoch ≠ 0 →
    ∃ t, Machine.exec .resumeLimit s = .next t ∧ phase t = 5 ∧ getF t unitDEV 0x120 3 0 = 4 ∧ getF t unitEX 0x28 20 20 = 1 ∧
      t.esc.pendingFaults = [])

/-- In an aborted epoch, once every retry buffer is empty the fabric drain completes: no message of the epoch's traffic
waits any more and every quarter reads RESTORING. The first quarter to be restored ends RESTORING and brings back the
device's own state: no task and no name is left, the live tally view is the committed one, contexts and tables are as
committed, and the quarter holds no undo copy and no working copy. The diagnosis retires every suspect of a kind that may be
retired whose self-test failed. (R91, R434, R435, R451, R454) -/
def Obligations.RecoveryRestoresTheCommit : Prop :=
  (∀ s : State, phase s = 4 → s.esc.abortEpoch ≠ 0 → s.esc.fabricDone = false → retryEmpty s = true →
    ∃ t, Machine.exec .fabricDrain s = .next t ∧ t.esc.fabricDone = true ∧ phase t = 4 ∧
      (∀ m ∈ t.fab.inbox, epochTraffic m.seg = false) ∧ (∀ o ∈ t.fab.out, epochTraffic o.seg = false) ∧ t.rem.writes = [] ∧
      (∀ q, q < 4 → getF t (unitES q) 0x18 18 18 = 1) ∧ t.mem = s.mem) ∧
  (∀ (s : State) (q : Nat), phase s = 4 → s.esc.fabricDone = true → q < 4 → s.esc.restoredQ = [] → s.tally.clearing = false →
    ∃ t, Machine.exec (.restore q) s = .next t ∧ t.esc.restoredQ = [q] ∧ phase t = 4 ∧ t.led.tasks = [] ∧ t.led.names = [] ∧
      t.led.ctxs = s.led.ctxsCommitted ∧ t.led.tables = s.led.tablesCommitted ∧ t.tally.live = s.tally.committed ∧
      (∀ e ∈ t.esc.undo, natField e.1 40 37 / 3 ≠ q) ∧ (∀ p ∈ t.esc.working, natField p 40 37 / 3 ≠ q) ∧
      getF t (unitES q) 0x18 18 18 = 0) ∧
  (∀ (s : State) (failed : List UnitId), phase s = 4 → s.esc.fabricDone = true → s.esc.diagDone = false →
    s.esc.restoredQ.length ≠ 4 → (∀ u ∈ s.esc.suspects, (neverRetired u && failed.contains u) = false) →
    ∃ t, Machine.exec (.diagnosis failed) s = .next t ∧ t.esc.diagDone = true ∧ phase t = 4 ∧
      ∀ u ∈ s.esc.suspects, retirable u = true → u ∈ failed → retired t u = true)

/-! ### Memory -/

/-- An access within one sector of a stack that serves it, uncached, outside escrow's own areas and its regulator not
holding it back: a read gives the reply the bytes of the sector's current copy with its poison; a write, with no epoch open,
stores its bytes at the current copy and changes no other byte, and a whole-sector write ends the sector's poison. A scrub
read counts a corrected error, and counts, poisons and reports an uncorrectable one. While the stack serves: the first row
with a trigger takes a free spare row of its bank; with none free its page moves to a hidden page while one is left, and is
lost to software otherwise; each queues its record. (R338, R341, R343, R348, R349, R350, R351) -/
def Obligations.StacksServeSectors : Prop :=
  (∀ (s : State) (st off : Nat) (req : MemReq), st < 12 → stackNames s st off = true → req.addr = stackAddr st off →
    escrowOwn s req.addr = false → bankFor s st (req.addr / 64 * 64) = none → capWaits s req = false →
    (req.write = false → 0 < req.len → off % 64 + req.len ≤ 64 → ∃ t, Machine.exec (.stackAccess req .clean) s = .next t ∧
      t.reply = ⟨viewBytes s req.addr req.len, poisonedAt s st off⟩ ∧ t.mem = s.mem ∧ t.poison = s.poison) ∧
    (req.write = true → 0 < req.data.length → off % 64 + req.data.length ≤ 64 → openEpoch s = 0 → pageBase off ∉ (stackOf s st).offline →
      ∃ t, Machine.exec (.stackAccess req .clean) s = .next t ∧
        (∀ k, k < req.data.length → rawByte t (physAddr s req.addr + k) = req.data.getD k 0) ∧
        (∀ a, a < physAddr s req.addr ∨ physAddr s req.addr + req.data.length ≤ a → rawByte t a = rawByte s a) ∧
        (wholeSector off req.data.length = true → physAddr s req.addr ∉ t.poison))) ∧
  (∀ (s : State) (st sec bank row sym : Nat), st < 12 → stackNames s st (sec / 64 * 64) = true →
    (∃ t, Machine.exec (.scrubRead st sec (.corrected bank row sym)) s = .next t ∧
      getF t (unitHS st) 0x1D0 31 0 = min (getF s (unitHS st) 0x1D0 31 0 + 1) (2 ^ 32 - 1) ∧ t.mem = s.mem ∧ t.poison = s.poison) ∧
    (∃ t f, Machine.exec (.scrubRead st sec (.uncorrectable bank row)) s = .next t ∧
      getF t (unitHS st) 0x1D0 63 32 = min (getF s (unitHS st) 0x1D0 63 32 + 1) (2 ^ 32 - 1) ∧
      physAddr s (stackAddr st (sec / 64 * 64)) ∈ t.poison ∧ (⟨bank, row⟩ : RowId) ∈ (stackOf t st).triggers ∧
      t.esc.pendingFaults = s.esc.pendingFaults ++ [f] ∧ f.unit = unitHS st ∧ t.mem = s.mem)) ∧
  (∀ (s : State) (st : Nat) (r : RowId) (l : List RowId), st < 12 → (stackOf s st).triggers = r :: l → stackServes s st = true →
    let used := tblGet (fun _ => 0) (stackOf s st).spareRows r.bank
    (used < 8 → ∃ t x, Machine.exec (.rowRemap st) s = .next t ∧ r ∉ (stackOf t st).triggers ∧
      tblGet (fun _ => 0) (stackOf t st).spareRows r.bank = used + 1 ∧ t.flashDue = s.flashDue ++ [x] ∧ x.type = 0x0002 ∧
      getF t (unitHS st) 0x1B0 31 16 = min (getF s (unitHS st) 0x1B0 31 16 + 1) 65535) ∧
    (∀ p, 8 ≤ used → ∃ t x, Machine.exec (.pageRetire st [p]) s = .next t ∧ r ∉ (stackOf t st).triggers ∧ r.bank ∈ (stackOf t st).banksOut ∧
      t.flashDue = s.flashDue ++ [x] ∧ x.type = 0x0003 ∧
      ((stackOf s st).movedPages.length < 8192 → (stackOf t st).movedPages = p / 4096 * 4096 :: (stackOf s st).movedPages ∧
        (stackOf t st).offline = (stackOf s st).offline) ∧
      (8192 ≤ (stackOf s st).movedPages.length → (stackOf t st).offline = p / 4096 * 4096 :: (stackOf s st).offline ∧
        ∃ f, t.esc.pendingFaults = s.esc.pendingFaults ++ [f] ∧ f.unit = unitHS st ∧ f.kind = 0x81)))

/-- A vault-form access within one sector of a bank that serves reads the bank's bytes, or stores its bytes and no others. A
contribution of the task in front of an engine adds each integer to its element modulo 2^32, or each FP32 value as FADD
does, and changes no other byte. A write that passes a bank in cache mode stores nothing in its stack: it is merged into the
bank's buffer; a read gives the reply what the device sees. A fill of a line the bank does not hold, with room for it,
appends the line with the sector's bytes and sets TAGS_VALID. A drain, with no epoch open, stores the valid bytes of the
buffer's oldest entry and takes the entry out. (R36, R358, R359, R360, R361) -/
def Obligations.BanksServeAndCache : Prop :=
  (∀ (s : State) (b off : Nat) (req : MemReq), b < 16 → bankServes s b = true → off < bankBytes → req.addr = vaultAddr b off →
    (req.write = false → 0 < req.len → off % 64 + req.len ≤ 64 → ∃ t, Machine.exec (.vaultAccess req false) s = .next t ∧
      t.reply = ⟨viewBytes s req.addr req.len, false⟩ ∧ Only [.reply] s t) ∧
    (req.write = true → 0 < req.data.length → off % 64 + req.data.length ≤ 64 →
      ∃ t, Machine.exec (.vaultAccess req false) s = .next t ∧ Only [.mem, .wraps] s t ∧
        (∀ k, k < req.data.length → rawByte t (req.addr + k) = req.data.getD k 0) ∧
        (∀ a, a < req.addr ∨ req.addr + req.data.length ≤ a → rawByte t a = rawByte s a))) ∧
  (∀ (s : State) (b off seq : Nat) (vs : List Nat) (x : Task) (u : UnitId) (c : Nat), taskOf s seq = some x → x.place = .till u c →
    (engOf s u).tills.head? = some seq → b < 16 → off % 4 = 0 → off + 4 * vs.length ≤ bankBytes → bankServes s b = true →
    (∀ v ∈ vs, v < 2 ^ 32) →
    let word (t : State) (k : Nat) : Nat := ofLE ((List.range 4).map fun j => rawByte t (vaultAddr b (off + 4 * k) + j))
    (∃ t, Machine.exec (.accumulate b off seq false vs) s = .next t ∧
      (∀ k, k < vs.length → word t k = (word s k + vs.getD k 0) % 2 ^ 32) ∧
      (∀ a, a < vaultAddr b off ∨ vaultAddr b off + 4 * vs.length ≤ a → rawByte t a = rawByte s a)) ∧
    (∃ t, Machine.exec (.accumulate b off seq true vs) s = .next t ∧
      (∀ k, k < vs.length → word t k = (fadd32 (word s k) (vs.getD k 0)).1 % 2 ^ 32) ∧
      (∀ a, a < vaultAddr b off ∨ vaultAddr b off + 4 * vs.length ≤ a → rawByte t a = rawByte s a))) ∧
  (∀ (s : State) (st off b : Nat) (req : MemReq), st < 12 → stackNames s st off = true → req.addr = stackAddr st off →
    escrowOwn s req.addr = false → bankFor s st (req.addr / 64 * 64) = some b →
    (req.write = false → 0 < req.len → off % 64 + req.len ≤ 64 → ∃ t, Machine.exec (.cacheAccess req false) s = .next t ∧
      t.reply = ⟨viewBytes s req.addr req.len, poisonedAt s st off⟩ ∧ t.mem = s.mem ∧ t.vb = s.vb) ∧
    (req.write = true → 0 < req.data.length → off % 64 + req.data.length ≤ 64 → (bankOf s b).buf.length < 64 →
      ∃ t, Machine.exec (.cacheAccess req false) s = .next t ∧ t.mem = s.mem ∧
        ∃ e ∈ (bankOf t b).buf, e.sector = req.addr / 64 * 64 ∧ ∀ k, k < req.data.length → e.mask.testBit (off % 64 + k) = true)) ∧
  (∀ (s : State) (st off b v : Nat) (pathBusy : Bool), st < 12 → stackNames s st off = true → off % 64 = 0 →
    bankFor s st (stackAddr st off) = some b → (∀ l ∈ (bankOf s b).lines, l.addr ≠ stackAddr st off ∧ l.addr ≠ v) →
    (bankOf s b).lines.length < bankLines →
    ∃ t, Machine.exec (.cacheFill (stackAddr st off) v pathBusy) s = .next t ∧ (bankOf t b).buf = (bankOf s b).buf ∧
      (bankOf t b).lines = (bankOf s b).lines ++ [⟨stackAddr st off, sectorBytes s (stackAddr st off), 0⟩] ∧
      getF t (unitVB b) 0x18 25 25 = 1 ∧ t.mem = s.mem) ∧
  (∀ (s : State) (b : Nat) (e : MergeEntry) (l : List MergeEntry), b < 16 → (bankOf s b).buf = e :: l → openEpoch s = 0 →
    let st := natField e.sector 40 37
    let off := natField e.sector 36 0
    let a := physAddr s (stackAddr st off)
    pageBase off ∉ (stackOf s st).offline → ∃ t, Machine.exec (.mergeDrain b false) s = .next t ∧ (bankOf t b).buf = l ∧
      (bankOf t b).lines = (bankOf s b).lines ∧
      (∀ k, k < e.bytes.length → rawByte t (a + k) = if e.mask.testBit k then e.bytes.getD k 0 else rawByte s (a + k)) ∧
      (∀ j, j < a ∨ a + e.bytes.length ≤ j → rawByte t j = rawByte s j))

/-! ### The engines -/

/-- A started task whose cells are free runs its row tile: the cells hold the products, or a block whose two tags differ
ends the task with SCALE_SLIP and SLIP names the operand, the block and both tags. A PIN that passes its checks copies LEN
bytes of a scratchpad into the pinned area and nothing else. A tile no column of which mismatches passes and drains: DEST 0
stores each value's code in its row of C and no other byte; a tile with a mismatch is to be run again and LAST_RESIDUE names
it. A tile of a DEST VECTOR task that has passed enters its array's queue while it has room for two, or stays in the cells
at BEHAVIOUR LEVEL 2; an end marker that is due enters it last. (R154, R163, R167, R168, R173, R174, R180, R281, R283, R284)
-/
def Obligations.MatrixTasks : Prop :=
  ∀ (s : State) (n : Nat) (x : Task), n < 48 →
    let u := unitMA n
    let d := x.desc
    let r := maRunOf s n
    let s0 := { startFront s u with rem := { s.rem with wait := false, full := none } }
    (∀ (s1 : State) (y : TileRun), frontTask s u 1 = some x → (engOf s u).work = .ma r → r.phase = .fresh →
      (engOf s u).takeovers = [] → cellsTaken s n = false → runTile s0 n n x = (s1, y) → s1.rem.wait = false →
      ∃ t, Machine.exec (.matmul n) s = .next t ∧ t.mem = s1.mem ∧ getF t u 0x18 18 18 = 0 ∧
        (∀ c, y = .cells c → (∃ a b, panelSlip d 0 b = none ∧ panelSlip d (128 * r.tile) a = none ∧ c = tileCells d a b) ∧
          (maRunOf t n).phase = .ran ∧ (maRunOf t n).cells = c ∧ (engOf t u).done = (engOf s1 u).done) ∧
        (∀ o b v w, y = .slip o b v w → (∃ p k, panelSlip d k p = some (b, v, w)) ∧
          (∃ e, (engOf t u).done = some e ∧ e.verdict = .failed ∧ e.status = 0x01 ∧ e.detail = b % 256) ∧
          getF t u 0x128 63 32 = b % 2 ^ 32 ∧ getF t u 0x128 31 24 = v % 256 ∧ getF t u 0x128 23 16 = w % 256 ∧
          getF t u 0x128 0 0 = o % 2)) ∧
    (frontTask s u 2 = some x → chooseFault (pinFaults u d) = none → inScratchpad s (leAt d 80 8) (leAt d 40 4) = true →
      let dest := tileAddr u (0x280000 + leAt d 104 8)
      ∃ t e, Machine.exec (.pin n) s = .next t ∧ (engOf t u).done = some e ∧ e.verdict = .ok ∧ e.flags = 0 ∧
        (∀ k, k < leAt d 40 4 → rawByte t (dest + k) = rawByte s (leAt d 80 8 + k)) ∧
        (∀ a, a < dest ∨ dest + leAt d 40 4 ≤ a → rawByte t a = rawByte s a)) ∧
    (∀ bad, frontTask s u 1 = some x → r.phase = .ran →
      (bad ≠ [] → ∃ t, Machine.exec (.rowTileCheck n bad) s = .next t ∧ maRunOf t n = { r with phase := .again, bad := bad, cells := [] } ∧
        getF t u 0x120 63 48 = r.tile % 65536 ∧ getF t u 0x120 15 8 = min 255 bad.length ∧ getF t u 0x120 7 0 = 0xFF ∧
        RegsKept [(u, [0x120])] s t ∧ Only [.regs, .eng] s t) ∧
      (bad = [] → maDest d = 2 → ∃ t, Machine.exec (.rowTileCheck n bad) s = .next t ∧ (maRunOf t n).phase = .passed ∧
        (maRunOf t n).cells = r.cells ∧ (maRunOf t n).byArray = some n ∧ t.mem = s.mem ∧
        (getReg t u 0x138).toNat = min ((getReg s u 0x138).toNat + 1) (2 ^ 64 - 1)) ∧
      (∀ b off, bad = [] → maDest d = 0 → b < 16 → bankServes s b = true →
        leAt d 104 8 + 128 * r.tile * leAt d 60 4 = vaultAddr b off → off + r.cells.length * leAt d 60 4 ≤ bankBytes →
        (∀ row ∈ r.cells, row.length = maN d) → maN d * maOutBytes d ≤ leAt d 60 4 →
        let at_ (i : Nat) : Nat := vaultAddr b (off + i * leAt d 60 4)
        let w := maOutBytes d
        ∃ t, Machine.exec (.rowTileCheck n bad) s = .next t ∧
          (∀ i j, i < r.cells.length → j < maN d →
            ofLE ((List.range w).map fun k => rawByte t (at_ i + j * w + k)) =
              (drainValue d ((r.cells.getD i []).getD j .zero)).1 % 2 ^ (8 * w)) ∧
          (∀ a, (∀ i, i < r.cells.length → a < at_ i ∨ at_ i + maN d * w ≤ a) → rawByte t a = rawByte s a) ∧
          (r.tile + 1 < maTiles d → (maRunOf t n).tile = r.tile + 1 ∧ (maRunOf t n).phase = .fresh) ∧
          (maTiles d ≤ r.tile + 1 → ∃ e, (engOf t u).done = some e ∧ e.verdict = .ok))) ∧
    (frontTask s u 1 = some x → r.phase = .passed →
      let tile (held : Bool) : Tile := { task := dTaskId d, number := r.tile, count := maTiles d, held := held,
                                         vals := r.cells.map fun row => row.map fun v => (drainValue d v).1 }
      (behaviourLevel s = 2 → ∃ t, Machine.exec (.tileHandoff n) s = .next t ∧ tilesOf t n = tilesOf s n ++ [tile true] ∧
        (maRunOf t n).phase = .held ∧ t.mem = s.mem) ∧
      (behaviourLevel s ≠ 2 → ((tilesOf s n).filter fun y => y.marker.isNone).length < 2 →
        ∃ t, Machine.exec (.tileHandoff n) s = .next t ∧ tilesOf t n = tilesOf s n ++ [tile false] ∧ t.mem = s.mem ∧
          (r.tile + 1 < maTiles d → (maRunOf t n).tile = r.tile + 1 ∧ (maRunOf t n).phase = .fresh)) ∧
      (behaviourLevel s ≠ 2 → 2 ≤ ((tilesOf s n).filter fun y => y.marker.isNone).length →
        ∃ t, Machine.exec (.tileHandoff n) s = .next t ∧ getF t u 0x18 19 19 = 1 ∧ RegsKept [(u, [0x18])] s t ∧ Only [.regs] s t)) ∧
    (∀ e, (engOf s u).markerDue = true → (engOf s u).done = some e → runningTask s u = some x → frontTask s (unitVE (n / 2)) 1 = none →
      ∃ t, Machine.exec (.endMarker n) s = .next t ∧ (engOf t u).markerDue = false ∧ t.mem = s.mem ∧
        tilesOf t n = tilesOf s n ++ [{ task := dTaskId d, number := 0, count := maTiles d, vals := [], marker := some e.status }])

/-- The second run of a tile that mismatched, without a mismatch and below the limit of transients, counts a transient and
the tile goes on as if it had passed; with a mismatch the task pauses, the partner R175 chooses is asked, and LAST_RESIDUE
names it. The partner's run without a mismatch passes the tile: neither array waits any more, and while both spares suffice
every column of the last mismatching run is spared, each with its record. (R173, R174, R175, R176) -/
def Obligations.MatrixResidues : Prop :=
  (∀ (s s1 : State) (n : Nat) (x : Task) (c : List (List ExactNum)), n < 48 → frontTask s (unitMA n) 1 = some x →
    (maRunOf s n).phase = .again → s1.rem.wait = false →
    runTile { startFront s (unitMA n) with rem := { s.rem with wait := false, full := none } } n n x = (s1, .cells c) →
    let u := unitMA n
    (maDest x.desc = 2 → (engOf s1 u).transients + 1 < getF s1 u 0x110 7 0 →
      ∃ t, Machine.exec (.residueRecompute n []) s = .next t ∧ (maRunOf t n).phase = .passed ∧ (maRunOf t n).cells = c ∧
        getF t u 0x118 31 0 = min (getF s1 u 0x118 31 0 + 1) (2 ^ 32 - 1) ∧ getF t u 0x120 39 32 = 1 ∧ getF t u 0x28 18 18 = 1 ∧
        (engOf t u).transients = (engOf s1 u).transients + 1 ∧ t.mem = s1.mem) ∧
    (∀ bad p, bad ≠ [] → p < 48 → choosePartner s1 n x (maRunOf s1 n) = some p →
      ∃ t, Machine.exec (.residueRecompute n bad) s = .next t ∧ (maRunOf t n).phase = .paused ∧ (maRunOf t n).bad = bad ∧
        (maRunOf t n).partner = some p ∧ getF t u 0x120 7 0 = p ∧ getF t u 0x18 20 20 = 1 ∧ getF t (unitMA p) 0x18 21 21 = 1 ∧
        getF t u 0x118 47 32 = min (getF s1 u 0x118 47 32 + 1) 65535 ∧ t.mem = s1.mem)) ∧
  (∀ (s s1 : State) (n p : Nat) (x : Task) (c : List (List ExactNum)), n < 48 → p < 48 → p ≠ n → frontTask s (unitMA n) 1 = some x →
    (maRunOf s n).phase = .paused → (maRunOf s n).partner = some p → maDest x.desc = 2 → (maRunOf s n).limited = false →
    ((maRunOf s p).phase = .fresh ∨ (maRunOf s p).phase = .paused) →
    (∀ m ∈ quarterArrays p, (maRunOf s m).byArray = some p → (maRunOf s m).phase ≠ .passed ∧ (maRunOf s m).phase ≠ .held) →
    runTile { s with rem := { s.rem with wait := false, full := none } } n p x = (s1, .cells c) → s1.rem.wait = false →
    (maRunOf s n).bad ≠ [] → (maRunOf s n).bad.length + (sparedColumns s1 n).length ≤ 2 →
    ∃ t, Machine.exec (.partnerRun n []) s = .next t ∧ (maRunOf t n).phase = .passed ∧ (maRunOf t n).cells = c ∧
      (maRunOf t n).byArray = some p ∧ getF t (unitMA n) 0x18 20 20 = 0 ∧ getF t (unitMA p) 0x18 21 21 = 0 ∧
      getF t (unitMA n) 0x120 39 32 = 2 ∧ t.mem = s1.mem ∧ ∃ l, t.flashDue = s1.flashDue ++ l ∧ l.length = (maRunOf s n).bad.length ∧
        ∀ y ∈ l, y.type = 0x0001)

/-- For a task that passes its checks, with its tensors in scratchpad banks, no block format, no scale stream, no sums, no
transpose and no rotation: CONVERT stores in row i of the target the codes of the source elements times the task's scale,
and changes no other byte of memory; PRUNE24 keeps two positions of every group of four, none of the dropped ones larger in
magnitude, and stores the kept codes and their metadata row by row; COMPRESS of one tile stores the record of the smallest
form its mask allows at TILES and offset 0 in the index; DECOMPRESS of one tile whose header is as its place expects stores
its dense rows. Each task then ends DONE. In every form a CONVERT and a PRUNE24 whose accesses do not wait end DONE, or
SCALE_SLIP at the first block whose tags differ. (R124, R129, R145, R158, R243, R244, R245, R246, R247) -/
def Obligations.CodecTasks : Prop :=
  (∀ (s : State) (qc : Nat) (x : Task), qc < 8 →
    let u := unitQC qc
    let d := x.desc
    let rows := qcRows d
    let cols := qcCols d
    let from_ := leAt d 56 8
    let dest := leAt d 72 8
    let bytes (t : State) (a n : Nat) : List Byte := (List.range n).map fun k => rawByte t (a + k)
    let ws (i : Nat) : List ExactNum := (rowCodes (qcSrc d) cols (bytes s (from_ + i * leAt d 48 4) (rowBytes (qcSrc d) cols))).map fun c =>
      (decodeElem (qcSrc d) (leAt d 38 1) c).mul (fp32At d 96)
    let code (i : Nat) : List Nat := (ws i).map fun w => (encodeElem (qcDst d) (leAt d 39 1) (qcFlag d 0) w).1
    let plain := isMx (qcSrc d) = false ∧ isMx (qcDst d) = false ∧ qcFlag d 2 = false ∧ qcFlag d 4 = false ∧ qcFlag d 6 = false ∧
      qcRot d = 0 ∧ inScratchpad s from_ (rows * leAt d 48 4) = true
    let done (t : State) : Prop := ∃ e, (engOf t u).done = some e ∧ e.verdict = .ok
    (frontTask s u 0x01 = some x → chooseFault (qcFaults 0x01 d) = none → plain → inScratchpad s dest (rows * leAt d 52 4) = true →
      ∃ t, Machine.exec (.convert qc) s = .next t ∧ done t ∧
        (∀ i, i < rows → bytes t (dest + i * leAt d 52 4) (rowBytes (qcDst d) cols) = packRow (qcDst d) (code i)) ∧
        (∀ a, (∀ i, i < rows → a < dest + i * leAt d 52 4 ∨ dest + i * leAt d 52 4 + rowBytes (qcDst d) cols ≤ a) → rawByte t a = rawByte s a) ∧
        (getReg t u 0x110).toNat = min ((getReg s u 0x110).toNat + rows * cols) (2 ^ 64 - 1)) ∧
    (frontTask s u 0x10 = some x → chooseFault (qcFaults 0x10 d ++ unitFault s u 0x10) = none → plain →
      inScratchpad s dest (rows * leAt d 52 4) = true → inScratchpad s (leAt d 112 8) (rows * leAt d 120 4) = true →
      (dest + rows * leAt d 52 4 ≤ leAt d 112 8 ∨ leAt d 112 8 + rows * leAt d 120 4 ≤ dest) →
      ∃ t, Machine.exec (.prune24 qc) s = .next t ∧ done t ∧ ∀ i, i < rows →
        let kept := (List.range (cols / 4)).map fun g => keptPositions (((ws i).drop (4 * g)).take 4)
        let some_ : List Nat := (kept.mapIdx fun g ps => ps.map fun p =>
          (encodeElem (qcDst d) (leAt d 39 1) (qcFlag d 0) ((ws i).getD (4 * g + p) .zero)).1).flatten
        bytes t (dest + i * leAt d 52 4) (rowBytes (qcDst d) (cols / 2)) = packRow (qcDst d) some_ ∧
        bytes t (leAt d 112 8 + i * leAt d 120 4) (ceilDiv cols 8) = metaRow kept) ∧
    (frontTask s u 0x11 = some x → chooseFault (qcFaults 0x11 d ++ unitFault s u 0x11) = none → plain → rows ≤ 128 → cols ≤ 128 →
      let cells := (List.range rows).map fun i => (code i).map fun c => (c, isZeroCode (qcDst d) (leAt d 39 1) c)
      let form := chooseForm (qcDst d) (leAt d 105 1) cells
      let rec_ := tileRecord (qcDst d) form 0 cells
      rec_.length ≤ leAt d 112 8 → inScratchpad s dest rec_.length = true → inScratchpad s (leAt d 80 8) 8 = true →
      (dest + rec_.length ≤ leAt d 80 8 ∨ leAt d 80 8 + 8 ≤ dest) →
      ∃ t, Machine.exec (.compress qc) s = .next t ∧ done t ∧ bytes t dest rec_.length = rec_ ∧
        bytes t (leAt d 80 8) 8 = List.replicate 8 0 ∧
        (∀ f, f = 0 ∨ (f = 1 ∧ (leAt d 105 1).testBit 0 = true) ∨ (f = 2 ∧ (leAt d 105 1).testBit 1 = true) →
          (tileBody (qcDst d) form cells).length ≤ (tileBody (qcDst d) f cells).length)) ∧
    (frontTask s u 0x12 = some x → chooseFault (expandFaults d ++ unitFault s u 0x12) = none → 0 < rows → rows ≤ 128 → 0 < cols →
      cols ≤ 128 → inScratchpad s (leAt d 64 8) 8 = true →
      let off := ofLE (bytes s (leAt d 64 8) 8)
      let h := bytes s (from_ + off) 16
      off + 16 + leAt h 4 4 ≤ leAt d 112 8 → from_ + off + 16 + leAt h 4 4 ≤ 2 ^ 64 →
      inScratchpad s (from_ + off) (16 + leAt h 4 4) = true → inScratchpad s dest (rows * leAt d 52 4) = true →
      leAt h 0 1 ≤ 2 → leAt h 1 1 = qcSrc d → leAt h 2 1 = rows - 1 → leAt h 3 1 = cols - 1 → leAt h 12 4 = 0 →
      ∃ t, Machine.exec (.decompress qc) s = .next t ∧ done t ∧
        ∀ i, i < rows → bytes t (dest + i * leAt d 52 4) (ceilDiv (cols * elemBits (qcSrc d)) 8) = packRow (qcSrc d)
          ((expandBody (qcSrc d) (leAt h 0 1) rows cols (leAt h 8 2) fun k n =>
            slice (bytes s (from_ + off + 16) (leAt h 4 4)) k n).getD i []))) ∧
  (∀ (s : State) (qc : Nat) (x : Task) (src : Source), qc < 8 →
    let u := unitQC qc
    let s0 := { startFront s u with rem := { s.rem with wait := false, full := none } }
    (readSource s0 u x).2 = src →
    let ended (t : State) : Prop := (src.slip = none → ∃ e, (engOf t u).done = some e ∧ e.verdict = .ok) ∧
      (∀ b v w, src.slip = some (b, v, w) → (∃ e, (engOf t u).done = some e ∧ e.verdict = .failed ∧ e.status = 0x01 ∧ e.detail = b % 256) ∧
        getF t u 0x100 63 32 = b % 2 ^ 32 ∧ getF t u 0x100 31 24 = v % 256 ∧ getF t u 0x100 23 16 = w % 256)
    (frontTask s u 0x01 = some x → chooseFault (qcFaults 0x01 x.desc) = none → (convertRun u x s0).rem.wait = false →
      ∃ t, Machine.exec (.convert qc) s = .next t ∧ ended t) ∧
    (frontTask s u 0x10 = some x → chooseFault (qcFaults 0x10 x.desc ++ unitFault s u 0x10) = none →
      (pruneRun u x s0).rem.wait = false → ∃ t, Machine.exec (.prune24 qc) s = .next t ∧ ended t)) ∧
  (∀ ws : List ExactNum, ws.length = 4 → (∀ w ∈ ws, w.isNan = false) → ∃ i j, i < j ∧ j < 4 ∧ keptPositions ws = [i, j] ∧
    ∀ k, k < 4 → k ≠ i → k ≠ j → (ws.getD i .zero).abs.lt (ws.getD k .zero).abs = false ∧
      (ws.getD j .zero).abs.lt (ws.getD k .zero).abs = false)

/-- For every element format, every form (RAW, CSR, BITMAP) and every tile of up to 128 rows and columns: the expander,
given the body the compressor forms and the count of elements it keeps, gives every kept element's code back in its place,
and for an element the compressor dropped the code 0; RAW drops none. That an element no index names expands to code 0 is
the model's choice. (R244, R245, R246, R247) -/
def Obligations.CompressedTilesExpandBack : Prop :=
  ∀ (code form r c : Nat) (rows : List (List (Nat × Bool))), (elemOf code).isSome = true → form ≤ 2 → 1 ≤ r → r ≤ 128 → 1 ≤ c →
    c ≤ 128 → rows.length = r → (∀ row ∈ rows, row.length = c) →
    expandBody code form r c (rows.flatten.filter fun e => !e.2).length (fun k n => slice (tileBody code form rows) k n) =
      rows.map fun row => row.map fun e => if form = 0 ∨ e.2 = false then e.1 % 2 ^ elemBits code else 0

/-- For a task of one segment of one position whose check passes, no region of coalescing (but for UNIQUE), its index in a
scratchpad bank and within the table: GATHER stores the row at its output address and no other byte; POOL_SUM and POOL_MEAN
store the row's elements pooled over one row; UNIQUE stores a header of one row and none dropped, the entry of the index
with count 1, and the gradient as FP32; SCATTER, with no epoch open, stores a row of 64 bytes at the current copy of its
sector. Each ends DONE. An index beyond the table counts in ROWS_SUBST and takes the default row. (R193, R194, R195, R196,
R197, R207, R208) -/
def Obligations.GatherTasks : Prop :=
  ∀ (s : State) (ge : Nat) (x : Task) (v : TblVersion), ge < 48 → pinnedVersion s x = some v → (engOf s (unitGE ge)).frag = none →
    let u := unitGE ge
    let d := x.desc
    let bytes (t : State) (a n : Nat) : List Byte := (List.range n).map fun k => rawByte t (a + k)
    let out := leAt d 72 8
    let i := ofLE (bytes s (leAt d 56 8) 4)
    let base := v.base + i * v.rowBytes
    let ready (op : Nat) : Prop := frontTask s u op = some x ∧ chooseFault (geFaults s x) = none ∧ geCsr d = false ∧ geSegs d = 1 ∧
      geBag d = 1 ∧ inScratchpad s (leAt d 56 8) 4 = true
    let here := i < v.rows ∧ rowMissing s u base v.rowBytes = false ∧ ∀ k, k < v.rowBytes → ∃ st off, spotOf s base k = .stack st off
    let done (t : State) : Prop := ∃ e, (engOf t u).done = some e ∧ e.verdict = .ok
    let others (t : State) (a n : Nat) : Prop := ∀ b, b < a ∨ a + n ≤ b → rawByte t b = rawByte s b
    (ready 1 → geRunOf s u = none → geDedup d = 0 → poolOf s (ge / 12) = [] → inScratchpad s out v.rowBytes = true →
      (here → ∃ t, Machine.exec (.gather ge) s = .next t ∧ done t ∧ bytes t out v.rowBytes = viewBytes s base v.rowBytes ∧
        others t out v.rowBytes ∧ (getReg t u 0x118).toNat = min ((getReg s u 0x118).toNat + 1) (2 ^ 64 - 1)) ∧
      (v.rows ≤ i → v.default = none → ∃ t, Machine.exec (.gather ge) s = .next t ∧ done t ∧
        bytes t out v.rowBytes = List.replicate v.rowBytes 0 ∧ others t out v.rowBytes ∧
        (getReg t u 0x130).toNat = min ((getReg s u 0x130).toNat + 1) (2 ^ 64 - 1))) ∧
    (∀ p : Instr, (p = .poolSum ge ∧ ready 2) ∨ (p = .poolMean ge ∧ ready 3) → geRunOf s u = none → geDedup d = 0 →
      poolOf s (ge / 12) = [] → inScratchpad s out (poolOutBytes d v) = true → here →
      let w := if geOut d = 0x01 then 2 else 4
      let value (k : Nat) : Int := if gePoolInt v.rowFmt then signedOf (elemBits v.rowFmt) (elemCode v.rowFmt (viewBytes s base v.rowBytes) k)
        else ((to32 (decodeElem v.rowFmt 0 (elemCode v.rowFmt (viewBytes s base v.rowBytes) k))).1 : Nat)
      ∃ t, Machine.exec p s = .next t ∧ done t ∧ others t out (poolOutBytes d v) ∧
        ∀ k, k < poolElems v → ofLE (bytes t (out + k * w) w) = (poolOut d v 1 (value k)).1 % 2 ^ (8 * w)) ∧
    (ready 5 → geDedup d ≠ 0 → i < v.rows →
      let n := gradElems d v
      let w := wholeBytes (geOut d)
      inScratchpad s (leAt d 88 8) (n * w) = true → inScratchpad s out 80 = true → inScratchpad s (leAt d 96 8) (4 * n) = true →
      inScratchpad s (leAt d 112 8) (16 * geDedup d) = true →
      (out + 80 ≤ leAt d 96 8 ∨ leAt d 96 8 + 4 * n ≤ out) →
      ∃ t, Machine.exec (.unique ge) s = .next t ∧ done t ∧ leAt (bytes t out 80) 0 8 = 1 ∧ leAt (bytes t out 80) 8 8 = 0 ∧
        leAt (bytes t out 80) 64 4 = i ∧ leAt (bytes t out 80) 72 8 = 1 ∧
        ∀ k, k < n → ofLE (bytes t (leAt d 96 8 + 4 * k) 4) =
          (to32 (decodeElem (geOut d) 0 (elemCode (geOut d) (bytes s (leAt d 88 8) (n * w)) k))).1 % 2 ^ 32) ∧
    (∀ st off, ready 6 → i < v.rows → v.rowBytes = 64 → base % 64 = 0 → rowMissing s u base 64 = false → spotOf s base 0 = .stack st off →
      off % 64 = 0 → st < 12 → stackNames s st off = true → escrowOwn s (stackAddr st off) = false →
      bankFor s st (stackAddr st off) = none → openEpoch s = 0 → pageBase off ∉ (stackOf s st).offline →
      inScratchpad s (leAt d 88 8) 64 = true →
      ∃ t, Machine.exec (.scatter ge) s = .next t ∧ done t ∧
        bytes t (physAddr s (stackAddr st off)) 64 = bytes s (leAt d 88 8) 64 ∧ others t (physAddr s (stackAddr st off)) 64)

/-- While the device is not contained: a position that finds a free entry of the coalescing region writes its key there with
STATE 1 and count 1 and goes on to fill it; filling stores the row and STATE 2 and delivers the row to the position. A
serving gather engine between its own segments takes the fragment of the nearest offering engine of its quarter out of the
pool and counts it. A fragment whose partial has been added takes one from REMAINING of its slot and leaves its engine;
while others remain nothing else is written. (R201, R203, R204, R205, R233) -/
def Obligations.CoalescingAndFragments : Prop :=
  (∀ (s : State) (ge : Nat) (x : Task) (v : TblVersion) (r : GeRun) (j : GeJob) (e : Nat), ge < 48 → contained s = false →
    (engOf s (unitGE ge)).frag = none → geRunOf s (unitGE ge) = some r → r.job = some j → jobTask s j = some x → j.owner = ge →
    (engOf s (unitGE ge)).done = none → pinnedVersion s x = some v → j.pos < j.stop →
    let u := unitGE ge
    let d := x.desc
    let bytes (t : State) (a n : Nat) : List Byte := (List.range n).map fun k => rawByte t (a + k)
    let i := ofLE (bytes s (leAt d 56 8 + 4 * j.pos) 4)
    let at_ := entryAddr d v e
    let base := v.base + i * v.rowBytes
    inScratchpad s (leAt d 56 8 + 4 * j.pos) 4 = true → leAt d 56 8 + 4 * j.pos + 4 ≤ 2 ^ 64 → at_ + entryBytes v ≤ 2 ^ 64 →
    inScratchpad s at_ (entryBytes v) = true →
    (j.stage = .probe → i < v.rows → geDedup d ≠ 0 →
      probeFind { s with rem := { s.rem with wait := false, full := none } } u x v i 16 (Config.dedupHash (geTable d) v.version i % geDedup d) =
        some (e, false) →
      ∃ t q, Machine.exec (.coalesceProbe ge) s = .next t ∧ geRunOf t u = some q ∧ q.job = some { j with stage := .claimed e } ∧
        q.positions = r.positions + 1 ∧ leAt (bytes t at_ 24) 0 2 = geTag d ∧ leAt (bytes t at_ 24) 2 2 = geTable d ∧
        leAt (bytes t at_ 24) 4 2 = v.version % 65536 ∧ leAt (bytes t at_ 24) 6 1 = 1 ∧ leAt (bytes t at_ 24) 8 4 = i ∧
        leAt (bytes t at_ 24) 16 8 = 1 ∧ ∀ a, a < at_ ∨ at_ + 24 ≤ a → rawByte t a = rawByte s a) ∧
    (j.stage = .claimed e → rowMissing s u base v.rowBytes = false →
      (∀ k, k < v.rowBytes → ∃ st off, spotOf s base k = .stack st off) → dOp d = 1 →
      let out := leAt d 72 8 + j.pos * leAt d 80 4
      out + v.rowBytes ≤ 2 ^ 64 → inScratchpad s out v.rowBytes = true → (out + v.rowBytes ≤ at_ ∨ at_ + entryBytes v ≤ out) →
      ∃ t q, Machine.exec (.coalesceEntryFilled ge) s = .next t ∧ geRunOf t u = some q ∧
        q.job = some { j with pos := j.pos + 1, stage := .probe } ∧ q.fetched = r.fetched + 1 ∧
        bytes t (at_ + 64) v.rowBytes = viewBytes s base v.rowBytes ∧ rawByte t (at_ + 6) = 2 ∧
        bytes t out v.rowBytes = viewBytes s base v.rowBytes)) ∧
  (∀ (s : State) (ge : Nat) (j : GeJob), ge < 48 → contained s = false → (engOf s (unitGE ge)).frag = none → mayTake s ge = true →
    chooseFragment s ge = some j → ∃ t, Machine.exec (.fragmentTake ge) s = .next t ∧
      (∃ a b, s.frags = a ++ j :: b ∧ t.frags = a ++ b) ∧ j.owner / 12 = ge / 12 ∧
      (∀ f ∈ poolOf s (ge / 12), (max j.owner ge - min j.owner ge) ≤ (max f.owner ge - min f.owner ge)) ∧
      getF t (unitGE ge) 0x138 63 32 = min (getF s (unitGE ge) 0x138 63 32 + 1) (2 ^ 32 - 1)) ∧
  (∀ (s : State) (ge a : Nat) (x : Task) (r : GeRun) (j : GeJob), ge < 48 → contained s = false →
    (engOf s (unitGE ge)).frag = some j → j.stage = .added → j.slot = some a → j.stop ≤ j.pos → jobTask s j = some x →
    gePool x.desc = true → j.owner < 48 → geRunOf s (unitGE j.owner) = some r → a < 2 ^ 64 → inScratchpad s a 24 = true →
    let left (t : State) : Nat := ofLE ((List.range 8).map fun k => rawByte t (a + k))
    2 ≤ left s → ∃ t, Machine.exec (.splitSlotDecrement ge) s = .next t ∧ left t = left s - 1 ∧ (engOf t (unitGE ge)).frag = none ∧
      geRunOf t (unitGE j.owner) = some (if j.offered then { r with outstanding := r.outstanding - 1 } else r) ∧
      getF t (unitGE ge) 0x18 21 21 = 0 ∧ t.splitUse = s.splitUse ∧ ∀ b, b < a ∨ a + 8 ≤ b → rawByte t b = rawByte s b)

/-- A merge task with one stream of INT32 records in scratchpad banks whose check passes, on the dense path with its tile in
a scratchpad bank: each element of the tile gains the sum of the records of its key modulo 2^32, whatever order the records'
reads are answered in, and the task ends DONE with detail 1. On the merge path a task whose accesses do not wait ends DONE
with detail 2, or CAPACITY. There the chunks and the passes do not change an integer sum: the run left has its keys rising,
and each key's elements are the exact sums. (R36, R225, R226, R227) -/
def Obligations.ReduceSumsRecords : Prop :=
  (∀ (s : State) (me : Nat) (order : List Nat) (x : Task), me < 12 → frontTask s (unitME me) 0x01 = some x →
    let u := unitME me
    let d := x.desc
    let bytes (t : State) (a n : Nat) : List Byte := (List.range n).map fun k => rawByte t (a + k)
    let table := bytes s (leAt d 48 8) 32
    let keys := leAt table 0 8
    let vals := leAt table 8 8
    let count := leAt table 16 8
    let n := meElems d
    let key (k : Nat) : Nat := ofLE (bytes s (keys + 8 * k) 8)
    let cell (i j e : Nat) : Nat := leAt d 72 8 + i * leAt d 112 4 + j * n * 4 + 4 * e
    let total (i j e : Nat) : Nat := (((List.range count).filter fun k => decide (meKeyLo d ≤ key k ∧ key k < meKeyHi d) &&
      key k = (meKeyLo d / 2 ^ 32 + i) * 2 ^ 32 + j).map fun k => ofLE (bytes s (vals + 4 * (n * k + e)) 4)).foldl (· + ·) 0
    (meStreams d = 1 → inScratchpad s (leAt d 48 8) 32 = true → inScratchpad s keys (8 * count) = true →
      inScratchpad s vals (4 * n * count) = true → meDense s d = true → meFloat d = false →
      inScratchpad s (leAt d 72 8) (meRows d * leAt d 112 4) = true →
      chooseFault (meFaults s d ++ streamFaults s d (streamsOf table 1)) = none →
      ∃ t e, Machine.exec (.reduce me order) s = .next t ∧ (engOf t u).done = some e ∧ e.verdict = .ok ∧ e.detail = 1 ∧
        ∀ i j k, i < meRows d → j < meCols d → k < n →
          ofLE (bytes t (cell i j k) 4) = (ofLE (bytes s (cell i j k) 4) + total i j k) % 2 ^ 32) ∧
    (∀ tb : State × List Byte,
      let s0 := { startFront s u with rem := { s.rem with wait := false, full := none } }
      engineLoad s0 u (partOf x) (leAt d 48 8) (32 * meStreams d) = tb → meDense s d = false →
      chooseFault (meFaults s d ++ streamFaults s d (streamsOf tb.2 (meStreams d))) = none →
      (reduceRun u order x s0).rem.wait = false →
      ∃ t e, Machine.exec (.reduce me order) s = .next t ∧ (engOf t u).done = some e ∧
        ((e.verdict = .ok ∧ e.detail = 2) ∨ (e.verdict = .failed ∧ e.status = 0x0B ∧ e.detail = 116)))) ∧
  (∀ (rs : List Keyed) (c n : Nat), 0 < c → (∀ r ∈ rs, r.vals.length = n) →
    let m := mergePasses false 16 ((groupsOf c (rs.length + 1) rs).map (chunkRun false))
    keysRise m.sums = true ∧ ∀ key, tblFind m.sums key =
      if rs.any fun r => r.key = key then
        some ((List.range n).map fun e => ((rs.filter fun r => r.key = key).map fun r => r.vals.getD e 0).foldl (· + ·) 0)
      else none)

/-- PREDICT of one token with its weights loaded, no union and no mismatch twice writes the names of the groups selected and
their row pointers, and ends DONE; the groups of a top-K selection are K, or all, and each ranks before every group left
out; a token that mismatches twice ends the task RESIDUE with a detected fault. RUN of a program of NOPs takes every
iteration through it and ends DONE with no flag; a program whose iterations are over ends DONE with its lanes' flags and its
summary. WPOOL of one position stores each element's product with the weight, and ends DONE. (R236, R237, R238, R257, R261,
R266, R288, R290) -/
def Obligations.PredictRunAndWeightedPool : Prop :=
  (∀ (s : State) (pe : Nat) (once : List Nat) (x : Task) (ls : List Layer), pe < 8 → frontTask s (unitPE pe) 0x01 = some x →
    let u := unitPE pe
    let d := x.desc
    let s0 := { startFront s u with rem := { s.rem with wait := false, full := none } }
    let bytes (t : State) (a n : Nat) : List Byte := (List.range n).map fun k => rawByte t (a + k)
    let ins := (ls.head?.map fun l => l.ins).getD 0
    let fmt := leAt d 33 1
    peReuse s u d = true → peLayers d ≤ 3 → readLayers u x (peLayers d) 0 s0 = (s0, ls) →
    chooseFault (peFaults d ++ layerFaults d ls) = none → ls ≠ [] → peTokens d = 1 → inScratchpad s (leAt d 48 8) (rowBytes fmt ins) = true →
    let input := (rowCodes fmt ins (bytes s (leAt d 48 8) (rowBytes fmt ins))).map (decodeElem fmt 0)
    let gs := selectGroups d (scoresOf s u ls fmt input).1
    (peUnion d = false → leAt d 80 8 = 0 → inScratchpad s (leAt d 64 8) (4 * peGroup d * gs.1.length) = true →
      inScratchpad s (leAt d 72 8) 16 = true →
      (leAt d 64 8 + 4 * peGroup d * gs.1.length ≤ leAt d 72 8 ∨ leAt d 72 8 + 16 ≤ leAt d 64 8) →
      ∃ t e, Machine.exec (.predict pe once none) s = .next t ∧ (engOf t u).done = some e ∧ e.verdict = .ok ∧
        e.status = (if gs.2 then 1 else 0) ∧ bytes t (leAt d 64 8) (4 * peGroup d * gs.1.length) = gs.1.flatMap (groupNames d) ∧
        leAt (bytes t (leAt d 72 8) 16) 0 8 = 0 ∧ leAt (bytes t (leAt d 72 8) 16) 8 8 = gs.1.length * peGroup d) ∧
    (∃ t e f, Machine.exec (.predict pe once (some 0)) s = .next t ∧ (engOf t u).done = some e ∧ e.verdict = .failed ∧
      e.status = 0x08 ∧ e.detail = 0 ∧ t.esc.pendingFaults = s.esc.pendingFaults ++ [f] ∧ f.unit = u ∧ f.kind = 0x01 ∧
      t.mem = s.mem)) ∧
  (∀ (d : List Byte) (ss : List Nat), peThreshold d = false → let gs := (selectGroups d ss).1
    gs.length = min (peK d) ss.length ∧ gs.Pairwise (· < ·) ∧
      ∀ i j, i ∈ gs → j ∉ gs → j < ss.length → i < ss.length ∧ ranksBefore ss i j = true) ∧
  (∀ (s : State) (ve : Nat) (x : Task), ve < 24 → frontTask s (unitVE ve) 1 = some x →
    let u := unitVE ve
    let d := x.desc
    (veRunOf s u = none → leAt d 33 1 = 0 → leAt d 56 8 % 64 = 0 → leAt d 64 8 % 64 = 0 → leAt d 72 8 = 0 → 1 ≤ leAt d 34 2 →
      leAt d 34 2 ≤ 256 → 1 ≤ veLen d → veLen d ≤ 4096 → 1 ≤ veIters d → inScratchpad s (leAt d 64 8) 256 = true →
      inScratchpad s (leAt d 56 8) (8 * veLen d) = true → (∀ k, k < 256 → rawByte s (leAt d 64 8 + k) = 0) →
      (∀ k, k < 8 * veLen d → rawByte s (leAt d 56 8 + k) = 0) →
      ∃ t e, Machine.exec (.run ve) s = .next t ∧ (engOf t u).done = some e ∧ e.verdict = .ok ∧ e.flags = 0 ∧
        (getReg t u 0x118).toNat = min ((getReg s u 0x118).toNat + veLen d * veIters d) (2 ^ 64 - 1)) ∧
    (∀ r, veRunOf s u = some r → r.begun = false → veIters d ≤ r.iter → veAcc d = false → leAt d 72 8 = 0 → r.reds = [] → r.dropped = false →
      ∃ t e m, Machine.exec (.run ve) s = .next t ∧ (engOf t u).done = some e ∧ e.verdict = .ok ∧
        e.flags = r.flags.foldl (fun a b => a ||| b) 0 % 64 ∧ (engOf t u).summary = some m ∧ m.valid = r.valid ∧
        m.words = (List.range 16).map (fun k => tblGet (fun _ => 0) r.words k) ∧ t.mem = s.mem)) ∧
  (∀ (s : State) (ve : Nat) (x : Task), ve < 24 → frontTask s (unitVE ve) 2 = some x → chooseFault (wpFaults x.desc) = none →
    let u := unitVE ve
    let d := x.desc
    let bytes (t : State) (a n : Nat) : List Byte := (List.range n).map fun k => rawByte t (a + k)
    let rf := leAt d 33 1
    let row := bytes s (leAt d 56 8) (wpElems d * wholeBytes rf)
    let w := if leAt d 34 1 = 1 then 2 else 4
    let sum (k : Nat) : Nat :=
      (to32 (((numOf32 (ofLE (bytes s (leAt d 64 8) 4))).mul (decodeElem rf 0 (elemCode rf row k))).add (numOf32 0))).1
    wpCsr d = false → wpSegs d = 1 → wpBag d = 1 → inScratchpad s (leAt d 56 8) (wpElems d * wholeBytes rf) = true →
    inScratchpad s (leAt d 64 8) 4 = true → inScratchpad s (leAt d 72 8) (wpElems d * w) = true →
    ∃ t e, Machine.exec (.wpool ve) s = .next t ∧ (engOf t u).done = some e ∧ e.verdict = .ok ∧
      (∀ k, k < wpElems d → ofLE (bytes t (leAt d 72 8 + k * w) w) =
        (if leAt d 34 1 = 1 then (roundTo bf16 (wpSat d) (numOf32 (sum k))).1 else sum k) % 2 ^ (8 * w)) ∧
      (∀ a, a < leAt d 72 8 ∨ leAt d 72 8 + wpElems d * w ≤ a → rawByte t a = rawByte s a))

/-! ### The fabric’s tasks and messages -/

/-- A collective whose check passes, with its operands in scratchpad banks: alone, it ends DONE and its result is its
operand, reduced once; with more members its first step goes to the ring successor, but for a BARRIER's later ranks, which
wait. A step that does not come within its time is a detected fault that names the predecessor. An EXCHANGE with sends to
other devices offers each destination its rows, and ends DONE when it has nothing to send or receive; a send refused as BUSY
is offered again. MIGRATE within a page stores the extent's bytes at the new place and ends DONE. A batch whose time has
come goes out as one message. (R405, R410, R411, R412, R416, R417, R418) -/
def Obligations.CollectivesAndExchanges : Prop :=
  (∀ (s : State) (co op : Nat) (c : Instr) (x : Task), co < 4 →
    ((c = .allReduce co ∧ op = 1) ∨ (c = .allGather co ∧ op = 2) ∨ (c = .reduceScatter co ∧ op = 3) ∨ (c = .barrier co ∧ op = 4)) →
    frontTask s (unitCO co) op = some x → chooseFault (coFaults s (unitCO co) x) = none → (engOf s (unitCO co)).work = .none →
    let u := unitCO co
    let d := x.desc
    let w := coBytes d
    let bytes (t : State) (a n : Nat) : List Byte := (List.range n).map fun k => rawByte t (a + k)
    inScratchpad s (leAt d 72 8) (2 * coP d) = true →
    (op ≠ 4 → inScratchpad s (leAt d 56 8) (coCount d * w) = true ∧ inScratchpad s (leAt d 64 8) (coCount d * w) = true) →
    (coP d = 1 → ∃ t e, Machine.exec c s = .next t ∧ (engOf t u).done = some e ∧ e.verdict = .ok ∧
      (op = 2 → bytes t (leAt d 64 8) (coCount d * w) = bytes s (leAt d 56 8) (coCount d * w)) ∧
      (op = 1 ∨ op = 3 → ∀ k, k < coCount d → ofLE (bytes t (leAt d 64 8 + w * k) w) =
        unsignedOf (8 * w) (coFinal d (coExpand d (ofLE (bytes s (leAt d 56 8 + w * k) w)))).1) ∧
      (op = 4 → t.mem = s.mem)) ∧
    (2 ≤ coP d → ∃ t r, Machine.exec c s = .next t ∧ (engOf t u).done = none ∧ (engOf t u).work = .co r ∧ r.received = 0 ∧
      getF t u 0x18 18 18 = 1 ∧ (op = 4 ∧ coRank d ≠ 0 → r.sent = 0 ∧ t.fab.out = s.fab.out) ∧
      (op ≠ 4 ∨ coRank d = 0 → r.sent = 1 ∧ ∃ o ∈ t.fab.out, o.seg.type = 0x09 ∧ o.seg.tag = coId d ∧
        o.seg.dest = leAt (bytes s (leAt d 72 8) (2 * coP d)) (2 * ((coRank d + 1) % coP d)) 2))) ∧
  (∀ (s : State) (co : Nat) (x : Task) (r : CoRun), co < 4 → collectiveOf s (unitCO co) = some (x, r) → r.received < coSteps x.desc →
    r.stalled = false → contained s = false → ∃ t, Machine.exec (.peerStall co) s = .next t ∧
      t.esc.pendingFaults = s.esc.pendingFaults ++ [⟨unitNone, 0x07, some (coPrev x.desc r.members)⟩] ∧
      (engOf t (unitCO co)).work = .co { r with stalled := true } ∧ getF t (unitCO co) 0x110 31 0 = coId x.desc ∧
      getF t (unitCO co) 0x110 41 32 = coPrev x.desc r.members % 1024 ∧ getF t (unitCO co) 0x28 17 17 = 1 ∧ t.mem = s.mem) ∧
  (∀ (s : State) (cl : Nat) (x : Task), cl < 4 → frontTask s (unitCL cl) 1 = some x →
    let u := unitCL cl
    let d := x.desc
    let n := leAt d 36 2
    let m := leAt d 38 2
    let dest (k : Nat) : Nat := ofLE ((List.range 2).map fun j => rawByte s (leAt d 48 8 + 16 * k + j))
    chooseFault (exchangeFaults s u x) = none → (engOf s u).work = .none → inScratchpad s (leAt d 48 8) (16 * n) = true →
    inScratchpad s (leAt d 56 8) (16 * m) = true → (∀ y ∈ s.fab.rts, y.exch ≠ leAt d 40 4) → (∀ k, k < n → dest k ≠ deviceId s) →
    writesAccepted s u = true →
    (0 < n + m → ∃ t r, Machine.exec (.exchange cl) s = .next t ∧ (engOf t u).done = none ∧ (engOf t u).work = .cl r ∧
      r.sends.length = n ∧ r.recvs.length = m ∧ (∀ y ∈ r.sends, y.stage = .offered) ∧ t.mem = s.mem ∧
      ∀ k, k < n → ∃ o ∈ t.fab.out, o.seg.type = 0x07 ∧ o.seg.dest = dest k ∧ o.seg.tag = leAt d 40 4) ∧
    (n + m = 0 → ∃ t e, Machine.exec (.exchange cl) s = .next t ∧ (engOf t u).done = some e ∧ e.verdict = .ok)) ∧
  (∀ (s : State) (cl a : Nat) (x : Task) (r : ClRun) (l1 l2 : List SendLeg) (y : SendLeg), cl < 4 → contained s = false →
    exchangeOf s (unitCL cl) = some (x, r) → r.sends = l1 ++ y :: l2 → y.stage = .busy a → (∀ z ∈ l1, ∀ b, z.stage ≠ .busy b) →
    ∃ t, Machine.exec (.rtsRetry cl) s = .next t ∧ t.mem = s.mem ∧
      (engOf t (unitCL cl)).work = .cl { r with sends := l1 ++ { y with stage := .offered } :: l2 } ∧
      ∃ o ∈ t.fab.out, o.seg.type = 0x07 ∧ o.seg.dest = y.dest ∧ o.seg.tag = leAt x.desc 40 4 ∧ o.seg.body = leBytes 4 y.rows) ∧
  (∀ (s : State) (cl st off : Nat) (x : Task), cl < 4 → frontTask s (unitCL cl) 2 = some x → chooseFault (migrateFaults x.desc) = none →
    (engOf s (unitCL cl)).work = .none → openEpoch s = 0 →
    let d := x.desc
    let n := leAt d 64 8
    off % 4096 + n ≤ 4096 → leAt d 56 8 = stackAddr st off → st < 12 → off + n ≤ stackBytes →
    (∀ k, k < n → (∃ st' off', spotOf s (leAt d 48 8) k = .stack st' off') ∧ stackNames s st (off + k) = true ∧
      escrowOwn s (stackAddr st (off + k)) = false ∧ bankFor s st (stackAddr st (off + k) / 64 * 64) = none ∧
      pageBase (off + k) ∉ (stackOf s st).offline) →
    ∃ t e, Machine.exec (.migrate cl) s = .next t ∧ (engOf t (unitCL cl)).done = some e ∧ e.verdict = .ok ∧
      ∀ k, k < n → rawByte t (physAddr s (stackAddr st (off + k))) = viewByte s (leAt d 48 8) k) ∧
  (∀ (s : State) (b : Batch), contained s = false → s.rem.wanted = [] → s.rem.writes = [] → s.rem.rounds = [] → b.q < 4 →
    s.fab.batches.find? (fun y => y.id = b.id && !y.sent) = some b → ∃ t, Machine.exec (.batchNs b.id) s = .next t ∧
      t.fab.batches = s.fab.batches.map (fun y => if y.id = b.id then { y with sent := true } else y) ∧ t.mem = s.mem ∧
      ∃ o ∈ t.fab.out, o.seg.type = (if b.write then 0x03 else 0x01) ∧ o.seg.dest = b.dest ∧ o.seg.order = 0x0700 + b.q)

/-- A message taken from the inbox: READ_REQ is answered with the row's record, or MISSING for a row this device does not
own; WRITE_REQ stores a sector it owns and is acknowledged with the rows taken and dropped; READ_RSP gives the requester its
sector and WRITE_ACK ends the writes of its batch; RTS is granted by the exchange it names, or held; CTS lets the rows go;
EXCH_DATA writes the rows and the directory entry and is acknowledged; EXCH_ACK and COLL_ACK end a send; COLL_DATA is
reduced into its chunk and acknowledged; SLOW notes its sender's factor; INVAL frees the replicas of its granules and is
answered; INVAL_ACK ends its round; a fetched granule becomes a valid replica. (R388, R392, R396, R397, R403, R406, R408,
R412, R413, R417, R418) -/
def Obligations.MessagesAreTaken : Prop :=
  (∀ (s s1 : State) (m : Message), contained s = false → m.port < 48 → m.seg.body.length = 16 → isMx m.seg.fmt = false →
    takeMessage s (servedHere s 0x01) = some (m, s1) →
    let a := leAt m.seg.body 0 8
    let n := leAt m.seg.body 8 4
    let sent (t : State) (b : List Byte) : Prop := ∃ o ∈ t.fab.out, o.seg.type = 0x02 ∧ o.seg.dest = m.seg.src ∧ o.seg.tag = m.seg.tag ∧
      o.seg.order = m.seg.order ∧ o.seg.body = b.take 4064
    ((∀ k, k < n → ∃ st off, spotOf s a k = .stack st off) → ownsRow s a n = true →
      ∃ t, Machine.exec .readReq s = .next t ∧ t.mem = s.mem ∧ t.fab.inbox = s1.fab.inbox ∧
        sent t (rowRecord (getF s (unitCL (m.port / 12)) 0x100 4 1) m.seg.fmt (viewBytes s a n))) ∧
    (ownsRow s a n = false → ∃ t, Machine.exec .readReq s = .next t ∧ t.mem = s.mem ∧ t.fab.inbox = s1.fab.inbox ∧
      sent t missingRecord ∧ (getReg t unitPD 0x198).toNat = min ((getReg s unitPD 0x198).toNat + 1) (2 ^ 64 - 1))) ∧
  (∀ (s s1 : State) (m : Message) (st off : Nat), contained s = false → m.port < 48 → takeMessage s (servedHere s 0x03) = some (m, s1) →
    s.rem.rounds = [] → 20 ≤ m.seg.body.length →
    let a := leAt m.seg.body 0 8
    let x := takeRecord (m.seg.body.drop 16)
    let acked (t : State) (ok no : Nat) : Prop := t.fab.inbox = s1.fab.inbox ∧ ∃ o ∈ t.fab.out, o.seg.type = 0x04 ∧ o.seg.dest = m.seg.src ∧
      o.seg.order = m.seg.order ∧ o.seg.body = leBytes 4 ok ++ leBytes 4 no
    x.2.2.length < 20 → leAt m.seg.body 8 4 = 64 → a % 64 = 0 →
    (ownsRow s a 64 = true → spotOf s a 0 = .stack st off → off % 64 = 0 → st < 12 → stackNames s st off = true →
      escrowOwn s (stackAddr st off) = false → bankFor s st (stackAddr st off) = none → hotEntry s st off = none → openEpoch s = 0 →
      pageBase off ∉ (stackOf s st).offline → ∃ t, Machine.exec .writeReq s = .next t ∧ acked t 1 0 ∧
        ((List.range 64).map fun k => rawByte t (physAddr s (stackAddr st off) + k)) = rowOfRecord x.1 m.seg.fmt 64 x.2.1) ∧
    (ownsRow s a 64 = false → ∃ t, Machine.exec .writeReq s = .next t ∧ acked t 0 1 ∧ t.mem = s.mem)) ∧
  (∀ (s s1 : State) (m : Message) (b : Batch),
    (∀ who a f bd rest, takeMessage s (fun y => y.seg.type = 0x02) = some (m, s1) → answeredBatch s1 m false = some b →
      b.entries = [(who, a, 64)] → (who, a) ∈ s.rem.asked → takeRecord m.seg.body = (f, bd, rest) → isMx m.seg.fmt = false → f ≠ 0xF →
      ∃ t, Machine.exec .readRsp s = .next t ∧ (who, a) ∉ t.rem.asked ∧ (who, a, rowOfRecord f m.seg.fmt 64 bd) ∈ t.rem.got ∧
        (∀ y ∈ t.fab.batches, y.id ≠ b.id) ∧ t.mem = s.mem) ∧
    (takeMessage s (fun y => y.seg.type = 0x04) = some (m, s1) → answeredBatch s1 m true = some b →
      ∃ t, Machine.exec .writeAck s = .next t ∧ t.rem.writes = s.rem.writes.filter (fun w => w.batch ≠ b.id) ∧
        (∀ y ∈ t.fab.batches, y.id ≠ b.id) ∧ t.mem = s.mem)) ∧
  (∀ (s s1 : State) (m : Message) (q : Nat) (x : Task) (r : ClRun) (k : Nat), contained s = false → m.port < 48 →
    let exch := m.seg.tag % 2 ^ 32
    let leg (t : State) (p : SendLeg → Prop) : Prop := ∃ r' y, (engOf t (unitCL q)).work = .cl r' ∧ r'.sends[k]? = some y ∧ p y
    (takeMessage s (fun y => y.seg.type = 0x07) = some (m, s1) →
      (∀ r1 off, exchangeBy s1 exch = some (q, x, r) → answerOffer x.desc r m.seg.src (leAt m.seg.body 0 4) = some (r1, some off) →
        ∃ t, Machine.exec .rts s = .next t ∧ t.mem = s.mem ∧ ∃ o ∈ t.fab.out, o.seg.type = 0x08 ∧ o.seg.dest = m.seg.src ∧
          o.seg.tag = leAt x.desc 40 4 ∧ o.seg.body = leBytes 8 off ++ leBytes 1 0) ∧
      (exchangeBy s1 exch = none → exchangeEnded s1 exch = false → (s1.fab.rts.filter fun y => y.q = m.port / 12).length < 4096 →
        ∃ t, Machine.exec .rts s = .next t ∧ t.mem = s.mem ∧ getF t (unitCL (m.port / 12)) 0x18 21 21 = 1 ∧
          t.fab.rts = s1.fab.rts ++ [⟨m.port / 12, m.seg.src, exch, leAt m.seg.body 0 4, m.seg.id⟩])) ∧
    (∀ y, takeMessage s (fun z => z.seg.type = 0x08) = some (m, s1) → exchangeBy s1 exch = some (q, x, r) →
      (r.sends.findIdx? fun z => z.dest = m.seg.src && z.stage = .offered) = some k → r.sends[k]? = some y → leAt m.seg.body 8 1 = 0 →
      inScratchpad s y.addr (y.rows * leAt x.desc 44 4) = true →
      ∃ t, Machine.exec .cts s = .next t ∧ t.mem = s.mem ∧ leg t (fun z => z = { y with stage := .sent }) ∧
        ∃ o ∈ t.fab.out, o.seg.type = 0x05 ∧ o.seg.dest = m.seg.src ∧ o.seg.tag = leAt x.desc 40 4) ∧
    (∀ rows off z, takeMessage s (fun y => y.seg.type = 0x05) = some (m, s1) → exchangeBy s1 exch = some (q, x, r) →
      (r.recvs.findIdx? fun y => y.src = m.seg.src && y.grant.isSome && !y.done && !y.ackDue) = some k → r.recvs[k]? = some z →
      z.grant = some (rows, off) → (unpackRows m.seg.fmt (leAt x.desc 44 4) rows 0 m.seg.body).2 = none →
      writesAccepted s (unitCL q) = true → m.seg.src ≠ deviceId s →
      let data := (unpackRows m.seg.fmt (leAt x.desc 44 4) rows 0 m.seg.body).1
      let area := leAt x.desc 64 8 + off
      let entry := leAt x.desc 56 8 + 16 * k + 4
      area + data.length ≤ 2 ^ 64 → entry + 12 ≤ 2 ^ 64 → inScratchpad s area data.length = true → inScratchpad s entry 12 = true →
      (area + data.length ≤ entry ∨ entry + 12 ≤ area) →
      ∃ t, Machine.exec .exchData s = .next t ∧ ((List.range data.length).map fun j => rawByte t (area + j)) = data ∧
        ofLE ((List.range 4).map fun j => rawByte t (entry + j)) = rows % 2 ^ 32 ∧
        ofLE ((List.range 8).map fun j => rawByte t (entry + 4 + j)) = off % 2 ^ 64 ∧
        (∀ a, (a < area ∨ area + data.length ≤ a) → (a < entry ∨ entry + 12 ≤ a) → rawByte t a = rawByte s a) ∧
        ∃ o ∈ t.fab.out, o.seg.type = 0x06 ∧ o.seg.dest = m.seg.src ∧ o.seg.tag = leAt x.desc 40 4) ∧
    (takeMessage s (fun y => y.seg.type = 0x06) = some (m, s1) → exchangeBy s1 exch = some (q, x, r) →
      (r.sends.findIdx? fun z => z.dest = m.seg.src && z.stage = .sent) = some k →
      ∃ t, Machine.exec .exchAck s = .next t ∧ leg t (fun z => z.stage = .done) ∧ t.mem = s.mem)) ∧
  (∀ (s s1 : State) (m : Message) (co : Nat) (x : Task) (r : CoRun), contained s = false → m.port < 48 → co < 4 →
    collectiveOf s (unitCO co) = some (x, r) → (∀ c, c < 4 → c ≠ co → collectiveOf s (unitCO c) = none) →
    coId x.desc = m.seg.tag % 2 ^ 32 →
    (r.received + 1 < coSteps x.desc → coPrev x.desc r.members = m.seg.src →
      takeMessage s (fun y => y.seg.type = 0x09 && ((awaitsData s y).isSome || collStray s (y.seg.tag % 2 ^ 32))) = some (m, s1) →
      ∃ t r', Machine.exec .collData s = .next t ∧ (engOf t (unitCO co)).work = .co r' ∧ r'.received = r.received + 1 ∧
        r'.chunks = (takeStep x r m.seg.body).chunks ∧ t.mem = s.mem ∧
        ∃ o ∈ t.fab.out, o.seg.type = 0x0A ∧ o.seg.dest = m.seg.src ∧ o.seg.tag = coId x.desc) ∧
    (r.received < coSteps x.desc → coNext x.desc r.members = m.seg.src → r.acked < r.sent →
      takeMessage s (fun y => y.seg.type = 0x0A) = some (m, s1) →
      ∃ t, Machine.exec .collAck s = .next t ∧ (engOf t (unitCO co)).work = .co { r with acked := r.acked + 1 } ∧ t.mem = s.mem)) ∧
  (∀ (s s1 : State) (m : Message), takeMessage s (fun y => y.seg.type = 0x11) = some (m, s1) → ∃ t, Machine.exec .slow s = .next t ∧
    slowOf t (leAt m.seg.body 0 2) = max 1 (leAt m.seg.body 2 2 % 16) ∧ t.fab.inbox = s1.fab.inbox ∧ t.mem = s.mem) ∧
  (∀ (s s1 : State) (m : Message), takeMessage s (fun y => y.seg.type = 0x15) = some (m, s1) → ∃ t, Machine.exec .inval s = .next t ∧
    (∀ k, k < m.seg.body.length / 8 → k < 128 → ∀ r ∈ t.rem.replicas, within r.addr r.bytes (leAt m.seg.body (8 * k) 8) = false) ∧
    t.mem = s.mem ∧ ∃ o ∈ t.fab.out, o.seg.type = 0x16 ∧ o.seg.dest = m.seg.src ∧ o.seg.tag = m.seg.tag) ∧
  (∀ (s s1 : State) (m : Message) (r : InvalRound) (l : List InvalRound), takeMessage s (fun y => y.seg.type = 0x16) = some (m, s1) →
    s.rem.rounds = r :: l → r.sent = true → m.seg.src ∈ r.waiting → m.seg.tag ∈ r.granules → ∃ t, Machine.exec .invalAck s = .next t ∧
      t.rem.rounds = (if r.waiting.erase m.seg.src = [] then l else { r with waiting := r.waiting.erase m.seg.src } :: l) ∧
      t.mem = s.mem) ∧
  (∀ (s : State) (r : Replica) (l : List Replica) (bs : List Byte) (st off : Nat), s.rem.replicas = r :: l → r.valid = false →
    r.bytes = 64 → bs.length = 64 → (unitPD, r.addr) ∉ s.rem.missing →
    s.rem.got.find? (fun g => g.1 = unitPD && g.2.1 = r.addr) = some (unitPD, r.addr, bs) → replicaAddr s r % 64 = 0 →
    spotOf s (replicaAddr s r) 0 = .stack st off → off % 64 = 0 → st < 12 → stackNames s st off = true →
    escrowOwn s (stackAddr st off) = false → bankFor s st (stackAddr st off) = none → openEpoch s = 0 →
    pageBase off ∉ (stackOf s st).offline → ∃ t, Machine.exec .replicaInstall s = .next t ∧ { r with valid := true } ∈ t.rem.replicas ∧
      (getReg t unitPD 0x168).toNat = min ((getReg s unitPD 0x168).toNat + 1) (2 ^ 64 - 1) ∧
      ((List.range 64).map fun k => rawByte t (physAddr s (stackAddr st off) + k)) = bs)

/-- When the next instruction of a program that has begun is the one commanded and waits for no reduction, it issues: the
next index, INSTRUCTIONS and LANE_OPS advance. A lane-wise instruction gives every active lane of VD its result modulo 2^32,
sets the result's flags and RANGE for a bad lane selector, and leaves every other lane and register and memory as they were.
SETVL sets VL; SUMM, SCAN, CMPRS, EXPND and SMAX change the lanes as their rules say; an integer SCAN gives running sums.
Over a window in a scratchpad bank LD and LDX load each active lane's element, or 0 with RANGE outside the window, ST and
STX store each, and STXADD adds each modulo 2^32. ACCRD reads a pair of rows of the bound tile, and the last one of the
program releases it. RED's result is on its way until RED_RESULT writes it. (R253, R254, R255, R256, R262, R266, R267, R268,
R269, R273, R276, R282) -/
def Obligations.VectorInstructions : Prop :=
  ∀ (s : State) (ve : Nat) (x : Task) (r : VeRun), ve < 24 → frontTask s (unitVE ve) 1 = some x → veRunOf s (unitVE ve) = some r →
    r.begun = true → r.pc < r.prog.length → r.flags.length = 256 → (∀ n, (vReg r n).length = 256) →
    let u := unitVE ve
    let w := r.prog.getD r.pc 0
    let a := srcA r w
    let b := srcB r w
    let c := srcC r w
    let on (l : Nat) : Bool := decide (l < r.vl) && (!vMasked w || vLane r (vVM w) l ≠ 0)
    let issues (op : Nat) : Prop := vOpc w = op ∧ waitsForRed r w = false
    let issued (t : State) (q : VeRun) : Prop := veRunOf t u = some q ∧ q.pc = r.pc + 1 ∧ q.iter = r.iter ∧ q.prog = r.prog ∧
      (getReg t u 0x118).toNat = min ((getReg s u 0x118).toNat + 1) (2 ^ 64 - 1) ∧
      (getReg t u 0x120).toNat = min ((getReg s u 0x120).toNat + if vOpc w ≤ 1 then 0 else (activeLanes r w).length) (2 ^ 64 - 1)
    let kept (q : VeRun) : Prop := q.vl = r.vl ∧ q.words = r.words ∧ q.reds = r.reds ∧ ∀ n, n ≠ vVD w → vReg q n = vReg r n
    let writes (q : VeRun) (f : Nat → Nat × Nat) : Prop := ∀ l, l < 256 →
      vLane q (vVD w) l = (if on l then (f l).1 % 2 ^ 32 else vLane r (vVD w) l) ∧
      q.flags.getD l 0 = (if on l then r.flags.getD l 0 ||| (f l).2 else r.flags.getD l 0)
    (∀ (i : Instr) (op : Nat) (f : Nat → Nat × Nat), (i, op, f) ∈
      [(.laneid ve, 0x03, fun l => (l, 0)), (.flagrd ve, 0x04, fun l => (r.flags.getD l 0 % 64, 0)),
       (.fadd ve, 0x20, fun l => fadd32 (a l) (b l)), (.fsub ve, 0x21, fun l => fsub32 (a l) (b l)),
       (.fmul ve, 0x22, fun l => fmul32 (a l) (b l)), (.fma ve, 0x23, fun l => fma32 (a l) (b l) (c l)),
       (.fmin ve, 0x24, fun l => fminmax false (a l) (b l)), (.fmax ve, 0x25, fun l => fminmax true (a l) (b l)),
       (.fabs ve, 0x26, fun l => to32 (numOf32 (a l)).abs), (.fneg ve, 0x27, fun l => to32 (numOf32 (a l)).neg),
       (.fdiv ve, 0x28, fun l => divTo fp32 (numOf32 (a l)) (numOf32 (b l))), (.fsqrt ve, 0x29, fun l => sqrtTo fp32 (numOf32 (a l))),
       (.fcmp ve, 0x2A, fun l => fcmpLane (vFunc w) (a l) (b l)), (.sel ve, 0x2B, fun l => (if c l ≠ 0 then a l else b l, 0)),
       (.exp ve, 0x30, fun l => approx 0x30 (a l)), (.exp2 ve, 0x31, fun l => approx 0x31 (a l)), (.log ve, 0x32, fun l => approx 0x32 (a l)),
       (.log2 ve, 0x33, fun l => approx 0x33 (a l)), (.rcp ve, 0x34, fun l => approx 0x34 (a l)), (.rsqrt ve, 0x35, fun l => approx 0x35 (a l)),
       (.tanh ve, 0x36, fun l => approx 0x36 (a l)), (.sigmoid ve, 0x37, fun l => approx 0x37 (a l)), (.erf ve, 0x38, fun l => approx 0x38 (a l)),
       (.iadd ve, 0x40, fun l => (a l + b l, flagIf (decide (int32 (a l) + int32 (b l) < -(2 ^ 31) ∨ 2 ^ 31 ≤ int32 (a l) + int32 (b l))) flagOverflow)),
       (.isub ve, 0x41, fun l => (a l + (2 ^ 32 - b l % 2 ^ 32),
         flagIf (decide (int32 (a l) - int32 (b l) < -(2 ^ 31) ∨ 2 ^ 31 ≤ int32 (a l) - int32 (b l))) flagOverflow)),
       (.imul ve, 0x42, fun l => (a l * b l, flagIf (decide (int32 (a l) * int32 (b l) < -(2 ^ 31) ∨ 2 ^ 31 ≤ int32 (a l) * int32 (b l))) flagOverflow)),
       (.imin ve, 0x43, fun l => (if int32 (a l) ≤ int32 (b l) then a l else b l, 0)),
       (.imax ve, 0x44, fun l => (if int32 (a l) ≤ int32 (b l) then b l else a l, 0)),
       (.and ve, 0x45, fun l => (a l &&& b l, 0)), (.or ve, 0x46, fun l => (a l ||| b l, 0)), (.xor ve, 0x47, fun l => (a l ^^^ b l, 0)),
       (.shl ve, 0x48, fun l => (a l * 2 ^ (b l % 32), 0)), (.shr ve, 0x49, fun l => (a l / 2 ^ (b l % 32), 0)),
       (.sra ve, 0x4A, fun l => (unsignedOf 32 (int32 (a l) / (2 ^ (b l % 32) : Nat)), 0)),
       (.icmp ve, 0x4B, fun l => icmpLane (vFunc w) (a l) (b l)), (.cvtfi ve, 0x50, fun l => cvtfiLane (vFmt w) (a l)),
       (.cvtif ve, 0x51, fun l => to32 (.ofInt (int32 (a l)) 0)), (.qnt ve, 0x52, fun l => qntLane (vFmt w) (vFunc w % 2 = 1) (a l)),
       (.perm ve, 0x60, fun l => if b l < r.vl then (a (b l), 0) else (0, flagRange))] → issues op →
      ∃ t q, Machine.exec i s = .next t ∧ issued t q ∧ kept q ∧ t.mem = s.mem ∧ writes q fun l => ((f l).1, (f l).2 ||| badLane r w)) ∧
    (issues 0x02 → ∃ t q, Machine.exec (.ldi ve) s = .next t ∧ issued t q ∧ kept q ∧ t.mem = s.mem ∧ writes q fun _ => (vImm w, 0)) ∧
    (∀ (i : Instr) (op : Nat) (f : VeRun → Nat → VeRun), (i, op, f) ∈ [(.nop ve, 0x00, fun y _ => y),
       (.setvl ve, 0x01, fun y z => { y with vl := vImm z }), (.summ ve, 0x05, summUpdate), (.cmprs ve, 0x61, packLanes),
       (.expnd ve, 0x62, unpackLanes), (.scan ve, 0x70, scanLanes), (.smax ve, 0x90, smaxLanes),
       (.red ve, 0x80, fun y z => { y with reds := y.reds ++ [⟨vVD z, redLanes y z⟩] })] → issues op →
      ∃ t, Machine.exec i s = .next t ∧ issued t { f r w with pc := r.pc + 1 } ∧ t.mem = s.mem) ∧
    (vFunc w = 3 → vSeg w = false → ∀ l, l < r.vl → l < 256 → vLane (scanLanes r w) (vVD w) l =
      (((List.range (l + 1)).filter on).map fun k => a k).foldl (· + ·) 0 % 2 ^ 32) ∧
    (∀ (y : PendingRed) (rest : List PendingRed), r.reds = y :: rest → ∃ t q, Machine.exec (.redResult ve) s = .next t ∧
      veRunOf t u = some q ∧ q.reds = rest ∧ q.pc = r.pc ∧ t.mem = s.mem ∧ (∀ n, n ≠ y.reg → vReg q n = vReg r n) ∧
      ∀ l, l < 256 → vLane q y.reg l = match y.lanes.find? (fun z => z.1 = l) with
        | some z => z.2.1 % 2 ^ 32
        | none => vLane r y.reg l) ∧
    (∀ n y l, n < 48 → issues 0x15 → r.bound = some n → tilesOf s n = y :: l → y.marker = none →
      ∃ t q, Machine.exec (.accrd ve) s = .next t ∧ issued t q ∧ kept q ∧ t.mem = s.mem ∧
        q.bound = (if lastAccrd r.prog = some r.pc then none else some n) ∧ tilesOf t n = (if lastAccrd r.prog = some r.pc then l else y :: l) ∧
        writes q fun k => ((y.vals.getD (2 * (vOffset w % 64) + k / 128) []).getD (k % 128) 0, 0)) ∧
    (∀ sl : Slot, r.slots[vSlot w]? = some sl →
      let base := windowAt x.desc sl r.iter
      let m := vMfmt w
      let e := mfmtBytes m
      let o (l : Nat) : Int := laneOffset r w l
      let fits (l : Nat) : Bool := decide (0 ≤ o l ∧ o l + e ≤ sl.window)
      let elem (t : State) (k : Nat) : Nat := ofLE ((List.range e).map fun j => rawByte t (base + k + j))
      inScratchpad s base sl.window = true → base % 64 = 0 →
      (∀ i op, (i = .ld ve ∧ op = 0x10) ∨ (i = .ldx ve ∧ op = 0x12) → issues op → ∃ t q, Machine.exec i s = .next t ∧ issued t q ∧
        kept q ∧ t.mem = s.mem ∧ writes q fun l => if fits l then loadLane m (elem s (o l).toNat) else (0, flagRange)) ∧
      (∀ i op, (i = .st ve ∧ op = 0x11) ∨ (i = .stx ve ∧ op = 0x13) → issues op → ∃ t q, Machine.exec i s = .next t ∧ issued t q ∧
        (∀ n, vReg q n = vReg r n) ∧
        (∀ l, on l = true → fits l = true → (∀ k, l < k → on k = true → fits k = true → o k ≠ o l) →
          elem t (o l).toNat = (storeLane m (vSat w) (vLane r (vVD w) l)).1 % 2 ^ (8 * e)) ∧
        (∀ p, (∀ l, on l = true → fits l = true → p < base + (o l).toNat ∨ base + (o l).toNat + e ≤ p) → rawByte t p = rawByte s p)) ∧
      (issues 0x14 → m = 6 → ∃ t q, Machine.exec (.stxadd ve) s = .next t ∧ issued t q ∧ (∀ n, vReg q n = vReg r n) ∧
        (∀ k, 4 * k + 4 ≤ sl.window → elem t (4 * k) = (elem s (4 * k) +
          (((List.range r.vl).filter fun l => on l && decide (o l = 4 * (k : Int))).map fun l => vLane r (vVD w) l).foldl (· + ·) 0) % 2 ^ 32) ∧
        (∀ p, p < base ∨ base + sl.window ≤ p → rawByte t p = rawByte s p)) ∧
      (issues 0x14 → m = 0 → ∀ l, (∀ k, on k = true ↔ k = l) → fits l = true → ∃ t q, Machine.exec (.stxadd ve) s = .next t ∧ issued t q ∧
        elem t (o l).toNat = (fadd32 (elem s (o l).toNat) (vLane r (vVD w) l % 2 ^ 32)).1 % 2 ^ 32))
end

