-- ==== Sys2Proof/Laws/Table.lean ====
section
/-! SUPPORT. Laws of the sparse tables: what a key reads as after a write, and that every operation keeps the canonical form. -/

namespace Sys2Proof.Machine

open Sys2Proof

/-- Every key of a table is above a bound. -/
def keysAbove {α : Type} (k : Nat) (m : Table α) : Prop := ∀ e ∈ m, k < e.1

theorem keysRise_tail {α : Type} {e : Nat × α} {t : Table α} (h : keysRise (e :: t) = true) : keysRise t = true := by
  cases t with
  | nil => rfl
  | cons b t => simp only [keysRise, Bool.and_eq_true] at h; exact h.2

theorem keysRise_head {α : Type} {e : Nat × α} {t : Table α} (h : keysRise (e :: t) = true) : keysAbove e.1 t := by
  induction t generalizing e with
  | nil => intro x hx; cases hx
  | cons b t ih =>
    simp only [keysRise, Bool.and_eq_true, decide_eq_true_eq] at h
    intro x hx
    cases hx with
    | head => exact h.1
    | tail _ hx => exact Nat.lt_trans h.1 (ih h.2 x hx)

theorem keysRise_cons {α : Type} {e : Nat × α} {t : Table α} (h : keysAbove e.1 t) (ht : keysRise t = true) :
    keysRise (e :: t) = true := by
  cases t with
  | nil => rfl
  | cons b t =>
    simp only [keysRise, Bool.and_eq_true, decide_eq_true_eq]
    exact ⟨h b (List.mem_cons_self ..), ht⟩

theorem keysRise_filter {α : Type} (p : Nat × α → Bool) : ∀ {t : Table α}, keysRise t = true → keysRise (t.filter p) = true
  | [], _ => rfl
  | e :: t, h => by
    have ih := keysRise_filter p (keysRise_tail h)
    by_cases hp : p e = true
    · rw [List.filter_cons_of_pos hp]
      exact keysRise_cons (fun x hx => keysRise_head h x (List.mem_filter.1 hx).1) ih
    · rw [List.filter_cons_of_neg hp]; exact ih

/-! ### Reading after a write -/

theorem tblFind_erase_same {α : Type} (k : Nat) : ∀ m : Table α, tblFind (tblErase m k) k = none
  | [] => rfl
  | (k', v) :: t => by
    by_cases h : k' = k
    · simp only [tblErase, if_pos h]; exact tblFind_erase_same k t
    · simp only [tblErase, if_neg h, tblFind]; exact tblFind_erase_same k t

theorem tblFind_erase_ne {α : Type} {k j : Nat} (hj : j ≠ k) : ∀ m : Table α, tblFind (tblErase m k) j = tblFind m j
  | [] => rfl
  | (k', v) :: t => by
    by_cases h : k' = k
    · simp only [tblErase, if_pos h, tblFind]
      rw [if_neg (fun hk : k' = j => hj (hk.symm.trans h))]
      exact tblFind_erase_ne hj t
    · simp only [tblErase, if_neg h, tblFind]
      rw [tblFind_erase_ne hj t]

theorem tblFind_insert_same {α : Type} (k : Nat) (v : α) : ∀ m : Table α, tblFind (tblInsert m k v) k = some v
  | [] => by simp [tblInsert, tblFind]
  | (k', v') :: t => by
    unfold tblInsert
    split
    · simp [tblFind]
    · split
      · simp [tblFind]
      · rename_i h1 h2
        simp only [tblFind, if_neg (Ne.symm h2)]
        exact tblFind_insert_same k v t

theorem tblFind_insert_ne {α : Type} {k j : Nat} (hj : j ≠ k) (v : α) : ∀ m : Table α, tblFind (tblInsert m k v) j = tblFind m j
  | [] => by simp [tblInsert, tblFind, Ne.symm hj]
  | (k', v') :: t => by
    unfold tblInsert
    split
    · simp [tblFind, Ne.symm hj]
    · split
      · rename_i h1 h2
        subst h2
        simp [tblFind, Ne.symm hj]
      · simp only [tblFind]
        rw [tblFind_insert_ne hj v t]

/-- A key reads as what was written to it. -/
theorem tblGet_set_same {α : Type} [DecidableEq α] (d : Nat → α) (m : Table α) (k : Nat) (v : α) :
    tblGet d (tblSet d m k v) k = v := by
  unfold tblSet tblGet
  split
  · rename_i h; rw [tblFind_erase_same]; exact h.symm
  · rw [tblFind_insert_same]; rfl

/-- A write leaves every other key alone. -/
theorem tblGet_set_ne {α : Type} [DecidableEq α] (d : Nat → α) (m : Table α) {k j : Nat} (hj : j ≠ k) (v : α) :
    tblGet d (tblSet d m k v) j = tblGet d m j := by
  unfold tblSet tblGet
  split
  · rw [tblFind_erase_ne hj]
  · rw [tblFind_insert_ne hj]

theorem tblGet_set {α : Type} [DecidableEq α] (d : Nat → α) (m : Table α) (k j : Nat) (v : α) :
    tblGet d (tblSet d m k v) j = if j = k then v else tblGet d m j := by
  by_cases h : j = k
  · rw [if_pos h, h]; exact tblGet_set_same d m k v
  · rw [if_neg h]; exact tblGet_set_ne d m h v

/-! ### The canonical form -/

theorem mem_tblErase {α : Type} {k : Nat} {e : Nat × α} : ∀ {m : Table α}, e ∈ tblErase m k → e ∈ m
  | [], h => h
  | (k', v) :: t, h => by
    unfold tblErase at h
    split at h
    · exact List.mem_cons_of_mem _ (mem_tblErase h)
    · cases h with
      | head => exact List.mem_cons_self ..
      | tail _ h => exact List.mem_cons_of_mem _ (mem_tblErase h)

theorem mem_tblInsert {α : Type} {k : Nat} {v : α} {e : Nat × α} : ∀ {m : Table α}, e ∈ tblInsert m k v → e = (k, v) ∨ e ∈ m
  | [], h => by simp only [tblInsert, List.mem_singleton] at h; exact .inl h
  | (k', v') :: t, h => by
    unfold tblInsert at h
    split at h
    · cases h with
      | head => exact .inl rfl
      | tail _ h => exact .inr h
    · split at h
      · cases h with
        | head => exact .inl rfl
        | tail _ h => exact .inr (List.mem_cons_of_mem _ h)
      · cases h with
        | head => exact .inr (List.mem_cons_self ..)
        | tail _ h =>
          rcases mem_tblInsert h with h | h
          · exact .inl h
          · exact .inr (List.mem_cons_of_mem _ h)

theorem keysRise_erase {α : Type} (k : Nat) : ∀ {m : Table α}, keysRise m = true → keysRise (tblErase m k) = true
  | [], _ => rfl
  | (k', v) :: t, h => by
    unfold tblErase
    split
    · exact keysRise_erase k (keysRise_tail h)
    · exact keysRise_cons (fun x hx => keysRise_head h x (mem_tblErase hx)) (keysRise_erase k (keysRise_tail h))

theorem keysRise_insert {α : Type} (k : Nat) (v : α) : ∀ {m : Table α}, keysRise m = true → keysRise (tblInsert m k v) = true
  | [], _ => rfl
  | (k', v') :: t, h => by
    unfold tblInsert
    split
    · rename_i hk
      refine keysRise_cons (fun x hx => ?_) h
      cases hx with
      | head => exact hk
      | tail _ hx => exact Nat.lt_trans hk (keysRise_head h x hx)
    · split
      · rename_i h1 h2
        exact keysRise_cons (fun x hx => h2 ▸ keysRise_head h x hx) (keysRise_tail h)
      · rename_i h1 h2
        refine keysRise_cons (fun x hx => ?_) (keysRise_insert k v (keysRise_tail h))
        rcases mem_tblInsert hx with hx | hx
        · subst hx; exact Nat.lt_of_le_of_ne (Nat.not_lt.1 h1) (Ne.symm h2)
        · exact keysRise_head h x hx

/-- A table is canonical when its keys rise and no entry is the default. -/
theorem tblWf_iff {α : Type} [DecidableEq α] (d : Nat → α) (m : Table α) :
    tblWf d m = true ↔ keysRise m = true ∧ ∀ e ∈ m, e.2 ≠ d e.1 := by
  simp only [tblWf, Bool.and_eq_true, List.all_eq_true, decide_eq_true_eq]

theorem tblWf_nil {α : Type} [DecidableEq α] (d : Nat → α) : tblWf d ([] : Table α) = true := rfl

/-- A write keeps the canonical form. -/
theorem tblWf_set {α : Type} [DecidableEq α] {d : Nat → α} {m : Table α} (h : tblWf d m = true) (k : Nat) (v : α) :
    tblWf d (tblSet d m k v) = true := by
  rw [tblWf_iff] at h ⊢
  unfold tblSet
  split
  · exact ⟨keysRise_erase k h.1, fun e he => h.2 e (mem_tblErase he)⟩
  · rename_i hv
    refine ⟨keysRise_insert k v h.1, fun e he => ?_⟩
    rcases mem_tblInsert he with he | he
    · subst he; exact hv
    · exact h.2 e he

/-- Taking entries out keeps the canonical form. -/
theorem tblWf_filter {α : Type} [DecidableEq α] {d : Nat → α} {m : Table α} (h : tblWf d m = true) (p : Nat × α → Bool) :
    tblWf d (m.filter p) = true := by
  rw [tblWf_iff] at h ⊢
  exact ⟨keysRise_filter p h.1, fun e he => h.2 e (List.mem_filter.1 he).1⟩

theorem keysRise_filterMap {α : Type} {f : Nat × α → Option (Nat × α)} (hf : ∀ e e', f e = some e' → e'.1 = e.1) :
    ∀ {t : Table α}, keysRise t = true → keysRise (t.filterMap f) = true
  | [], _ => rfl
  | e :: t, h => by
    have ih := keysRise_filterMap hf (keysRise_tail h)
    cases he : f e with
    | none => rw [List.filterMap_cons_none he]; exact ih
    | some e' =>
      rw [List.filterMap_cons_some he]
      refine keysRise_cons (fun y hy => ?_) ih
      obtain ⟨z, hz, hzy⟩ := List.mem_filterMap.1 hy
      rw [hf e e' he, hf z y hzy]
      exact keysRise_head h z hz

/-- Changing values in place, or taking entries out, keeps the canonical form when no value becomes the default. -/
theorem tblWf_filterMap {α : Type} [DecidableEq α] {d : Nat → α} {m : Table α} (h : tblWf d m = true)
    {f : Nat × α → Option (Nat × α)} (hf : ∀ e e', f e = some e' → e'.1 = e.1 ∧ e'.2 ≠ d e'.1) :
    tblWf d (m.filterMap f) = true := by
  rw [tblWf_iff] at h ⊢
  refine ⟨keysRise_filterMap (fun e e' he => (hf e e' he).1) h.1, fun y hy => ?_⟩
  obtain ⟨z, _, hzy⟩ := List.mem_filterMap.1 hy
  exact (hf z y hzy).2

/-- Clearing a range keeps the canonical form. -/
theorem tblWf_clear {α : Type} [DecidableEq α] {d : Nat → α} {m : Table α} (h : tblWf d m = true) (lo n : Nat) :
    tblWf d (tblClear m lo n) = true := tblWf_filter h _

/-- A run of writes keeps the canonical form. -/
theorem tblWf_foldl {α β : Type} [DecidableEq α] {d : Nat → α} (key : β → Nat) (val : β → α) :
    ∀ (l : List β) {m : Table α}, tblWf d m = true → tblWf d (l.foldl (fun t b => tblSet d t (key b) (val b)) m) = true
  | [], _, h => h
  | b :: l, _, h => tblWf_foldl key val l (tblWf_set h (key b) (val b))

end Sys2Proof.Machine
end

