-- ==== Sys2Proof/Laws/Kept.lean ====
section
/-! SUPPORT. What every operation of the block does to a state, said once: one lemma per operation, in the files XKept, for
any relation between a state and a later one that is closed under the few primitive updates (`Closed`). Three relations
are given here: what every command keeps, device memory unchanged, host memory unchanged. -/

namespace Sys2Proof.Machine

open Sys2Proof

/-- `R s t` is closed under the primitive updates of `t`: of fields beside the queue, the module's identity, the registers
and the two memories; of registers; with `m`, of device memory, a reset of the device among them; with `h`, of host memory. -/
structure Closed (R : State → State → Prop) (m h : Bool) : Prop where
  update : ∀ s x t : State, R s x → t.pending = x.pending → t.variant = x.variant → t.serial = x.serial → t.regs = x.regs →
    t.mem = x.mem → t.host = x.host → t.mc.keys = x.mc.keys → t.mc.secret = x.mc.secret → R s t
  reg : ∀ s x u off w, R s x → R s (setReg x u off w)
  page : ∀ s x u keep, R s x → R s (clearPage x u keep)
  byte : m = true → ∀ s x a b, R s x → R s (putByte x a b)
  copy : m = true → ∀ s x src dst n, R s x → R s (copyRange x src dst n)
  clear : m = true → ∀ s x lo n, R s x → R s { x with mem := tblClear x.mem lo n }
  reset : m = true → ∀ s x k, R s x → R s (resetDevice x k)
  off : m = true → ∀ s x, R s x → R s (auxDown x)
  hostByte : h = true → ∀ s x a b, R s x → R s { x with host := tblSet (fun _ => 0) x.host a b }

/-- Every state that a result of some type holds is in the relation. `view r t` says that the result `r` holds the state `t`. -/
def Every {β : Type} (R : State → State → Prop) (view : β → State → Prop) (s : State) (r : β) : Prop := ∀ t, view r t → R s t

abbrev isState (r t : State) : Prop := t = r
abbrev isFst {β : Type} (r : State × β) (t : State) : Prop := t = r.1
abbrev isSnd {β : Type} (r : β × State) (t : State) : Prop := t = r.2
abbrev isSome (r : Option State) (t : State) : Prop := r = some t
abbrev isSomeFst {β : Type} (r : Option (State × β)) (t : State) : Prop := ∃ x, r = some x ∧ t = x.1
abbrev isSomeSnd {β : Type} (r : Option (β × State)) (t : State) : Prop := ∃ x, r = some x ∧ t = x.2
abbrev isNext (r : Host.Outcome State Fault Refusal) (t : State) : Prop := r = .next t

abbrev Keeps (R : State → State → Prop) (s r : State) : Prop := Every R isState s r
abbrev KeepsFst {β : Type} (R : State → State → Prop) (s : State) (r : State × β) : Prop := Every R isFst s r
abbrev KeepsSnd {β : Type} (R : State → State → Prop) (s : State) (r : β × State) : Prop := Every R isSnd s r
abbrev KeepsSome (R : State → State → Prop) (s : State) (r : Option State) : Prop := Every R isSome s r
abbrev KeepsSomeFst {β : Type} (R : State → State → Prop) (s : State) (r : Option (State × β)) : Prop := Every R isSomeFst s r
abbrev KeepsSomeSnd {β : Type} (R : State → State → Prop) (s : State) (r : Option (β × State)) : Prop := Every R isSomeSnd s r
abbrev KeepsNext (R : State → State → Prop) (s : State) (r : Host.Outcome State Fault Refusal) : Prop := Every R isNext s r
abbrev KeepsAt {β : Type} (p : β → State) (R : State → State → Prop) (s : State) (r : β) : Prop := Every R (fun r t => t = p r) s r

variable {R : State → State → Prop} {m h : Bool}
variable {s x : State} {α β : Type} {view : β → State → Prop}

theorem keeps_iff : Keeps R s x ↔ R s x := ⟨fun h => h x rfl, fun h _ e => e ▸ h⟩

/-! ### The shapes of a definition's body -/

theorem every_ite {c : Prop} [Decidable c] {a b : β} (h1 : Every R view s a) (h2 : Every R view s b) :
    Every R view s (if c then a else b) := by split <;> assumption

theorem every_dite {c : Prop} [Decidable c] {a : c → β} {b : ¬ c → β} (h1 : ∀ h, Every R view s (a h)) (h2 : ∀ h, Every R view s (b h)) :
    Every R view s (if h : c then a h else b h) := by
  split
  · exact h1 _
  · exact h2 _

/-- A state that is used several times is shown to keep once. -/
theorem every_keep {γ : Type} {v : γ → State → Prop} {y : γ} {p : Prop} (h2 : Every R v s y → p) (h1 : Every R v s y) : p := h2 h1

theorem every_foldl {f : β → α → β} {a : β} (l : List α) (h1 : Every R view s a) (h2 : ∀ y e, Every R view s y → Every R view s (f y e)) :
    Every R view s (l.foldl f a) := by
  induction l generalizing a with
  | nil => exact h1
  | cons e t ih => exact ih (h2 a e h1)

theorem every_foldr {f : α → β → β} {a : β} (l : List α) (h1 : Every R view s a) (h2 : ∀ e y, Every R view s y → Every R view s (f e y)) :
    Every R view s (l.foldr f a) := by
  induction l with
  | nil => exact h1
  | cons e t ih => exact h2 e _ ih

theorem every_foldOver {f : α → β → β} {a : β} (l : List α) (h1 : Every R view s a) (h2 : ∀ e y, Every R view s y → Every R view s (f e y)) :
    Every R view s (foldOver f l a) := by
  induction l generalizing a with
  | nil => exact h1
  | cons e t ih => exact ih (h2 e a h1)

theorem every_iter {f : Nat → β → β} {a : β} (n : Nat) (h1 : Every R view s a) (h2 : ∀ k y, Every R view s y → Every R view s (f k y)) :
    Every R view s (iter f n a) := by
  induction n with
  | zero => exact h1
  | succ n ih => exact h2 n _ ih

theorem keepsFst_mk {b : α} (h : Keeps R s x) : KeepsFst R s (x, b) := fun t e => h t e
theorem keepsSnd_mk {b : α} (h : Keeps R s x) : KeepsSnd R s (b, x) := fun t e => h t e
theorem keeps_fst {r : State × α} (h : KeepsFst R s r) : Keeps R s r.1 := fun t e => h t e
theorem keeps_snd {r : α × State} (h : KeepsSnd R s r) : Keeps R s r.2 := fun t e => h t e
theorem keeps_of_pair {r : State × α} {b : α} (h : KeepsFst R s r) (e : r = (x, b)) : Keeps R s x := fun t e' => h t (by rw [e, e'])
theorem keeps_of_pair' {r : α × State} {b : α} (h : KeepsSnd R s r) (e : r = (b, x)) : Keeps R s x := fun t e' => h t (by rw [e, e'])
theorem keepsSome_none : KeepsSome R s none := fun _ e => nomatch e
theorem keepsSome_mk (h : Keeps R s x) : KeepsSome R s (some x) := fun t e => h t (Option.some.inj e).symm
theorem keepsSomeFst_none : KeepsSomeFst (β := α) R s none := fun _ h => by
  obtain ⟨y, e, _⟩ := h
  cases e
theorem keepsSomeFst_mk {r : State × α} (h : KeepsFst R s r) : KeepsSomeFst R s (some r) := fun t e => by
  obtain ⟨y, e, rfl⟩ := e
  exact h _ (by rw [Option.some.inj e])
theorem keepsSomeSnd_none : KeepsSomeSnd (β := α) R s none := fun _ h => by
  obtain ⟨y, e, _⟩ := h
  cases e
theorem keepsSomeSnd_mk {r : α × State} (h : KeepsSnd R s r) : KeepsSomeSnd R s (some r) := fun t e => by
  obtain ⟨y, e, rfl⟩ := e
  exact h _ (by rw [Option.some.inj e])
theorem keeps_of_some {r : Option State} (h : KeepsSome R s r) (e : r = some x) : Keeps R s x := fun t e' => h t (by rw [e, e'])
theorem keepsFst_of_some {r : Option (State × α)} {y : State × α} (h : KeepsSomeFst R s r) (e : r = some y) : KeepsFst R s y :=
  fun t e' => h t ⟨y, e, e'⟩
theorem keeps_of_some_fst {r : Option (State × α)} {b : α} (h : KeepsSomeFst R s r) (e : r = some (x, b)) : Keeps R s x :=
  fun t e' => h t ⟨_, e, e'⟩
theorem keepsSnd_of_some {r : Option (α × State)} {y : α × State} (h : KeepsSomeSnd R s r) (e : r = some y) : KeepsSnd R s y :=
  fun t e' => h t ⟨y, e, e'⟩
theorem keeps_of_some_snd {r : Option (α × State)} {b : α} (h : KeepsSomeSnd R s r) (e : r = some (b, x)) : Keeps R s x :=
  fun t e' => h t ⟨_, e, e'⟩
theorem keeps_getD {r : Option State} (h1 : KeepsSome R s r) (h2 : Keeps R s x) : Keeps R s (r.getD x) := by
  cases r with
  | none => exact h2
  | some y => exact keeps_of_some h1 rfl
theorem keepsSome_map {f : α → State} {r : Option α} (h : ∀ y, Keeps R s (f y)) : KeepsSome R s (r.map f) := by
  cases r with
  | none => exact keepsSome_none
  | some y => exact keepsSome_mk (h y)
theorem keepsSomeFst_map {γ : Type} {f : α → State × γ} {r : Option α} (h : ∀ y, KeepsFst R s (f y)) : KeepsSomeFst R s (r.map f) := by
  cases r with
  | none => exact keepsSomeFst_none
  | some y => exact keepsSomeFst_mk (h y)
theorem keepsSomeSnd_map {γ : Type} {f : α → γ × State} {r : Option α} (h : ∀ y, KeepsSnd R s (f y)) : KeepsSomeSnd R s (r.map f) := by
  cases r with
  | none => exact keepsSomeSnd_none
  | some y => exact keepsSomeSnd_mk (h y)
theorem keepsSome_map' {f : State × α → State} {r : Option (State × α)} (h1 : KeepsSomeFst R s r)
    (h : ∀ y, KeepsFst R s y → Keeps R s (f y)) : KeepsSome R s (r.map f) := by
  cases r with
  | none => exact keepsSome_none
  | some y => exact keepsSome_mk (h y (keepsFst_of_some h1 rfl))
theorem keepsSomeFst_map' {γ : Type} {f : State × α → State × γ} {r : Option (State × α)} (h1 : KeepsSomeFst R s r)
    (h : ∀ y, KeepsFst R s y → KeepsFst R s (f y)) : KeepsSomeFst R s (r.map f) := by
  cases r with
  | none => exact keepsSomeFst_none
  | some y => exact keepsSomeFst_mk (h y (keepsFst_of_some h1 rfl))
theorem keeps_at {p : β → State} {r : β} (h : KeepsAt p R s r) : Keeps R s (p r) := h
theorem keepsNext_mk (h : Keeps R s x) : KeepsNext R s (.next x) := fun t e => h t (by cases e; rfl)

/-- An update of fields beside those that `Closed` names. -/
theorem keeps_mk {p v n r h1 h2 h3 h4 h5 m' h6 h7 h' h8 h9 h10 h11 h12 h13 h14 h15 h16 h17 h18 h19 h20 c h21 h22 h23 h24} (k : Closed R m h) (hx : Keeps R s x) (ep : p = x.pending) (ev : v = x.variant)
    (en : n = x.serial) (er : r = x.regs) (em : m' = x.mem) (eh : h' = x.host) (ek : c.keys = x.mc.keys) (es : c.secret = x.mc.secret) :
    Keeps R s (State.mk p v n r h1 h2 h3 h4 h5 m' h6 h7 h' h8 h9 h10 h11 h12 h13 h14 h15 h16 h17 h18 h19 h20 c h21 h22 h23 h24) :=
  keeps_iff.2 (k.update s x _ (keeps_iff.1 hx) ep ev en er em eh ek es)

/-! ### What every command keeps -/

/-- `t` has kept of `s` what no operation changes: the queue, the module's identity, the canonical form of what is stored
by address. -/
structure Kept (s t : State) : Prop where
  pending : t.pending = s.pending
  same : SameModule s t
  canonical : Canonical s → Canonical t

theorem Kept.refl (s : State) : Kept s s := ⟨rfl, ⟨rfl, rfl, rfl, rfl⟩, id⟩

/-- Such a step keeps what `Kept` says when it keeps the canonical form. -/
theorem Kept.step {s x t : State} (k : Kept s x) (ep : t.pending = x.pending) (ev : t.variant = x.variant)
    (en : t.serial = x.serial) (ek : t.mc.keys = x.mc.keys) (es : t.mc.secret = x.mc.secret) (hc : Canonical x → Canonical t) :
    Kept s t :=
  ⟨ep.trans k.pending, ⟨ev.trans k.same.variant, en.trans k.same.serial, ek.trans k.same.keys, es.trans k.same.secret⟩,
    fun h => hc (k.canonical h)⟩

theorem setReg_canonical {x : State} (u : UnitId) (off : Nat) (w : Word) (c : Canonical x) : Canonical (setReg x u off w) :=
  ⟨c.mem, c.host, tblWf_set c.regs _ _⟩

theorem tblWf_keptRegs {x : State} {k : ResetKind} (h : tblWf (regDefault x.variant) x.regs = true) :
    tblWf (regDefault x.variant) (keptRegs x k) = true := by
  refine tblWf_filterMap h fun e e' he => ?_
  dsimp only at he
  split at he
  · cases he
  · split at he
    · cases he
    · rename_i hw
      cases he
      exact ⟨rfl, hw⟩

/-- What an update of a register leaves as it is. -/
theorem setF_frame (x : State) (u : UnitId) (off hi lo v : Nat) :
    (setF x u off hi lo v).pending = x.pending ∧ SameModule x (setF x u off hi lo v) ∧ (setF x u off hi lo v).mem = x.mem ∧
      (setF x u off hi lo v).host = x.host := ⟨rfl, ⟨rfl, rfl, rfl, rfl⟩, rfl, rfl⟩

/-- The loss of the auxiliary supply: the module and host memory stay. -/
theorem auxDown_frame (x : State) : (auxDown x).pending = x.pending ∧ SameModule x (auxDown x) ∧ (auxDown x).mem = [] ∧
    (auxDown x).host = x.host := by
  unfold auxDown
  extract_lets f t
  obtain ⟨h1, h2, h3, h4⟩ := setF_frame { t with hi := { msixSent := x.hi.msixSent, aer := x.hi.aer } } unitMC 0x130 11 0 f
  exact ⟨h1, ⟨h2.variant, h2.serial, h2.keys, h2.secret⟩, h3, h4⟩

theorem auxDown_canonical {x : State} (c : Canonical x) : Canonical (auxDown x) := by
  unfold auxDown
  exact setReg_canonical _ _ _ ⟨rfl, c.host, rfl⟩

theorem kept_closed : Closed Kept true true where
  update s x t k ep ev en er em eh ek es := k.step ep ev en ek es fun c =>
    ⟨em ▸ c.mem, eh ▸ c.host, by rw [er, ev]; exact c.regs⟩
  reg s x u off w k := k.step rfl rfl rfl rfl rfl (setReg_canonical u off w)
  page s x u keep k := k.step rfl rfl rfl rfl rfl fun c => ⟨c.mem, c.host, tblWf_filter c.regs _⟩
  byte _ s x a b k := k.step rfl rfl rfl rfl rfl fun c => ⟨tblWf_set c.mem _ _, c.host, c.regs⟩
  copy _ s x src dst n k := k.step rfl rfl rfl rfl rfl fun c =>
    ⟨tblWf_foldl (fun e : Host.Cell => dst + (e.1 - src)) (fun e => e.2) _ (tblWf_clear c.mem _ _), c.host, c.regs⟩
  clear _ s x lo n k := k.step rfl rfl rfl rfl rfl fun c => ⟨tblWf_clear c.mem _ _, c.host, c.regs⟩
  reset _ s x r k := k.step rfl rfl rfl rfl rfl fun c => ⟨rfl, c.host, tblWf_keptRegs c.regs⟩
  off _ s x k :=
    have f := auxDown_frame x
    k.step f.1 f.2.1.variant f.2.1.serial f.2.1.keys f.2.1.secret auxDown_canonical
  hostByte _ s x a b k := k.step rfl rfl rfl rfl rfl fun c => ⟨c.mem, tblWf_set c.host _ _, c.regs⟩

/-! ### Memory unchanged -/

theorem sameMem_closed (h : Bool) : Closed (fun s t => t.mem = s.mem) false h where
  update _ _ _ k _ _ _ _ em _ _ _ := em.trans k
  reg _ _ _ _ _ k := k
  page _ _ _ _ k := k
  byte e := nomatch e
  copy e := nomatch e
  clear e := nomatch e
  reset e := nomatch e
  off e := nomatch e
  hostByte _ _ _ _ _ k := k

theorem sameHost_closed (m : Bool) : Closed (fun s t => t.host = s.host) m false where
  update _ _ _ k _ _ _ _ _ eh _ _ := eh.trans k
  reg _ _ _ _ _ k := k
  page _ _ _ _ k := k
  byte _ _ _ _ _ k := k
  copy _ _ _ _ _ _ k := k
  clear _ _ _ _ _ k := k
  reset _ _ _ _ k := k
  off _ _ x k := (auxDown_frame x).2.2.2.trans k
  hostByte e := nomatch e

end Sys2Proof.Machine
end

