-- ==== Sys2Proof/Laws/MessagesKept.lean ====
section
/-! SUPPORT. What the operations of Machine/Messages.lean keep. -/

namespace Sys2Proof.Machine

open Sys2Proof

theorem sendMessage_keeps {R dm hm s x m port} (kr : Closed R dm hm) (hx : Keeps R s x) :
    Keeps R s (sendMessage x m port) := by
  unfold sendMessage
  exact keeps_mk kr hx rfl rfl rfl rfl rfl rfl rfl rfl

end Sys2Proof.Machine
end

