-- ==== Sys2Proof/Laws/OpsKept.lean ====
section
/-! SUPPORT. What the operations of Machine/Ops.lean keep. -/

namespace Sys2Proof.Machine

open Sys2Proof

theorem setReg_keeps {R dm hm s x u off w} (kr : Closed R dm hm) (hx : Keeps R s x) : Keeps R s (setReg x u off w) :=
  keeps_iff.2 (kr.reg s x u off w (keeps_iff.1 hx))

theorem setF_keeps {R dm hm s x u off hi lo v} (kr : Closed R dm hm) (hx : Keeps R s x) :
    Keeps R s (setF x u off hi lo v) := by
  unfold setF
  exact setReg_keeps kr hx

theorem bump_keeps {R dm hm s x u off hi lo n} (kr : Closed R dm hm) (hx : Keeps R s x) :
    Keeps R s (bump x u off hi lo n) := by
  unfold bump
  exact setF_keeps kr hx

theorem bump64_keeps {R dm hm s x u off n} (kr : Closed R dm hm) (hx : Keeps R s x) :
    Keeps R s (bump64 x u off n) := by
  unfold bump64
  exact bump_keeps kr hx

theorem sendMsix_keeps {R dm hm s x v} (kr : Closed R dm hm) (hx : Keeps R s x) :
    Keeps R s (sendMsix x v) := by
  unfold sendMsix
  exact every_ite (keeps_mk kr hx rfl rfl rfl rfl rfl rfl rfl rfl) (every_ite hx (keeps_mk kr hx rfl rfl rfl rfl rfl
    rfl rfl rfl))

theorem groupEdge_keeps {R dm hm s before u x} (kr : Closed R dm hm) (hbefore : Keeps R s before) (hx : Keeps R s x) :
    Keeps R s (groupEdge before u x) := by
  unfold groupEdge
  exact every_ite (sendMsix_keeps kr hx) hx

theorem setInt_keeps {R dm hm s x u off w} (kr : Closed R dm hm) (hx : Keeps R s x) :
    Keeps R s (setInt x u off w) := by
  unfold setInt
  exact groupEdge_keeps kr hx (setReg_keeps kr hx)

theorem raiseInt_keeps {R dm hm s x u b} (kr : Closed R dm hm) (hx : Keeps R s x) :
    Keeps R s (raiseInt x u b) := by
  unfold raiseInt
  exact setInt_keeps kr hx

theorem compareDue_keeps {R dm hm s x} (kr : Closed R dm hm) (hx : Keeps R s x) :
    Keeps R s (compareDue x) := by
  unfold compareDue
  exact every_ite (raiseInt_keeps kr (keeps_mk kr hx rfl rfl rfl rfl rfl rfl rfl rfl)) hx

theorem countRetired_keeps {R dm hm s x hi lo n} (kr : Closed R dm hm) (hx : Keeps R s x) :
    Keeps R s (countRetired x hi lo n) := by
  unfold countRetired
  exact bump_keeps kr hx

theorem drawFree_keeps {R dm hm s x} (kr : Closed R dm hm) (hx : Keeps R s x) :
    KeepsFst R s (drawFree x) := by
  unfold drawFree
  exact keepsFst_mk (keeps_mk kr hx rfl rfl rfl rfl rfl rfl rfl rfl)

theorem pushAer_keeps {R dm hm s x uncorrectable} (kr : Closed R dm hm) (hx : Keeps R s x) :
    Keeps R s (pushAer x uncorrectable) := by
  unfold pushAer
  exact keeps_mk kr hx rfl rfl rfl rfl rfl rfl rfl rfl

theorem pushErr_keeps {R dm hm s x r} (kr : Closed R dm hm) (hx : Keeps R s x) :
    Keeps R s (pushErr x r) := by
  unfold pushErr
  exact keeps_mk kr hx rfl rfl rfl rfl rfl rfl rfl rfl

theorem raiseErr_keeps {R dm hm s x u b} (kr : Closed R dm hm) (hx : Keeps R s x) :
    Keeps R s (raiseErr x u b) := by
  unfold raiseErr
  exact every_keep (fun h1 => every_keep (fun h2 => every_ite (raiseInt_keeps kr h2) h2) (every_ite h1 (raiseInt_keeps
    kr h1))) (setReg_keeps kr hx)

theorem reportFault_keeps {R dm hm s x u kind} (kr : Closed R dm hm) (hx : Keeps R s x) :
    Keeps R s (reportFault x u kind) := by
  unfold reportFault
  exact keeps_mk kr hx rfl rfl rfl rfl rfl rfl rfl rfl

theorem timeUpTo_keeps {R dm hm s x t} (kr : Closed R dm hm) (hx : Keeps R s x) :
    Keeps R s (timeUpTo x t) := by
  unfold timeUpTo
  exact every_ite (compareDue_keeps kr (keeps_mk kr hx rfl rfl rfl rfl rfl rfl rfl rfl)) hx

end Sys2Proof.Machine
end

