-- ==== Sys2Proof/Laws/MemKept.lean ====
section
/-! SUPPORT. What the operations of Machine/Mem.lean keep. -/

namespace Sys2Proof.Machine

open Sys2Proof

theorem setBank_keeps {R dm hm s x b v} (kr : Closed R dm hm) (hx : Keeps R s x) :
    Keeps R s (setBank x b v) := by
  unfold setBank
  exact setF_keeps kr (keeps_mk kr hx rfl rfl rfl rfl rfl rfl rfl rfl)

theorem copyRange_keeps {R hm s x src dst n} (kr : Closed R true hm) (hx : Keeps R s x) : Keeps R s (copyRange x src dst n) :=
  keeps_iff.2 (kr.copy rfl s x src dst n (keeps_iff.1 hx))

theorem setStack_keeps {R dm hm s x st h} (kr : Closed R dm hm) (hx : Keeps R s x) :
    Keeps R s (setStack x st h) := by
  unfold setStack
  exact keeps_mk kr hx rfl rfl rfl rfl rfl rfl rfl rfl

theorem settleTokens_keeps {R dm hm s x st} (kr : Closed R dm hm) (hx : Keeps R s x) :
    Keeps R s (settleTokens x st) := by
  unfold settleTokens
  exact setStack_keeps kr hx

theorem charge_keeps {R dm hm s x st part cost sectors} (kr : Closed R dm hm) (hx : Keeps R s x) :
    Keeps R s (charge x st part cost sectors) := by
  unfold charge
  exact every_keep (fun h1 => every_keep (fun h2 => every_keep (fun h3 => every_ite h3 (bump64_keeps kr h3))
    (bump64_keeps kr h2)) (every_ite (setStack_keeps kr h1) h1)) (settleTokens_keeps kr hx)

theorem countCopy_keeps {R dm hm s x q st part} (kr : Closed R dm hm) (hx : Keeps R s x) :
    Keeps R s (countCopy x q st part) := by
  unfold countCopy
  exact charge_keeps kr (bump64_keeps kr hx)

theorem requestClose_keeps {R dm hm s x} (kr : Closed R dm hm) (hx : Keeps R s x) :
    Keeps R s (requestClose x) := by
  unfold requestClose
  exact every_ite hx (setF_keeps kr hx)

theorem firstWrite_keeps {R hm s x part a} (kr : Closed R true hm) (hx : Keeps R s x) :
    KeepsSome R s (firstWrite x part a) := by
  unfold firstWrite
  exact every_ite (keepsSome_mk hx) (by
    split
    exact keepsSome_mk hx
    exact every_ite (every_ite (keepsSome_mk hx) (keepsSome_mk (countCopy_keeps kr (bump_keeps kr (keeps_mk kr
      (copyRange_keeps kr hx) rfl rfl rfl rfl rfl rfl rfl rfl))))) (every_ite (keepsSome_mk hx) (by
      split
      exact keepsSome_none
      exact every_keep (fun h3 => every_keep (fun h4 => every_keep (fun h5 => every_keep (fun h6 => every_ite
        (keepsSome_mk (requestClose_keeps kr (setF_keeps kr h6))) (keepsSome_mk h6)) (countCopy_keeps kr (bump_keeps
        kr h5))) (setF_keeps kr h4)) (keeps_mk kr h3 rfl rfl rfl rfl rfl rfl rfl rfl)) (copyRange_keeps kr hx))))

theorem mustWaitUndo_keeps {R dm hm s x part q} (kr : Closed R dm hm) (hx : Keeps R s x) :
    Keeps R s (mustWaitUndo x part q) := by
  unfold mustWaitUndo
  exact every_ite hx (keeps_mk kr hx rfl rfl rfl rfl rfl rfl rfl rfl)

theorem putByte_keeps {R hm s x a b} (kr : Closed R true hm) (hx : Keeps R s x) : Keeps R s (putByte x a b) :=
  keeps_iff.2 (kr.byte rfl s x a b (keeps_iff.1 hx))

theorem putBytes_keeps {R hm s x a a2} (kr : Closed R true hm) (hx : Keeps R s x) :
    Keeps R s (putBytes x a a2) := by
  induction a2 generalizing x a with
  | nil => rw [putBytes]; exact hx
  | cons e t ih => rw [putBytes]; exact ih (putByte_keeps kr hx)

theorem controllerWrite_keeps {R hm s x part st off data mask} (kr : Closed R true hm) (hx : Keeps R s x) :
    Keeps R s (controllerWrite x part st off data mask) := by
  unfold controllerWrite
  exact every_ite hx (by
    split
    exact mustWaitUndo_keeps kr hx
    exact every_keep (fun h1 => charge_keeps kr (bump64_keeps kr (every_ite (keeps_mk kr h1 rfl rfl rfl rfl rfl rfl
      rfl rfl) h1))) (putBytes_keeps kr ((keeps_of_some (firstWrite_keeps kr hx) (by assumption)))))

theorem drainOldest_keeps {R hm s x b} (kr : Closed R true hm) (hx : Keeps R s x) :
    Keeps R s (drainOldest x b) := by
  unfold drainOldest
  exact (by
    split
    exact hx
    exact every_keep (fun h1 => every_ite h1 (bump64_keeps kr (setBank_keeps kr h1))) (controllerWrite_keeps kr hx))

theorem bufferWrite_keeps {R hm s x b sector k data} (kr : Closed R true hm) (hx : Keeps R s x) :
    Keeps R s (bufferWrite x b sector k data) := by
  unfold bufferWrite
  exact every_ite (bump64_keeps kr (setBank_keeps kr hx)) (setBank_keeps kr (every_ite hx (drainOldest_keeps kr hx)))

theorem clearWraps_keeps {R dm hm s x a n} (kr : Closed R dm hm) (hx : Keeps R s x) :
    Keeps R s (clearWraps x a n) := by
  unfold clearWraps
  exact keeps_mk kr hx rfl rfl rfl rfl rfl rfl rfl rfl

theorem countLoad_keeps {R dm hm s x p n} (kr : Closed R dm hm) (hx : Keeps R s x) :
    Keeps R s (countLoad x p n) := by
  unfold countLoad
  exact (by
    split
    exact hx
    exact keeps_mk kr hx rfl rfl rfl rfl rfl rfl rfl rfl)

theorem countRemote_keeps {R dm hm s x who pool hit} (kr : Closed R dm hm) (hx : Keeps R s x) :
    Keeps R s (countRemote x who pool hit) := by
  unfold countRemote
  exact (by
    try dsimp only
    split
    exact every_ite (bump64_keeps kr hx) hx
    exact hx)

theorem flushInvals_keeps {R dm hm s x} (kr : Closed R dm hm) (hx : Keeps R s x) :
    Keeps R s (flushInvals x) := by
  unfold flushInvals
  exact keeps_mk kr (every_foldOver _ hx (fun _ _ h2 => sendMessage_keeps kr h2)) rfl rfl rfl rfl rfl rfl rfl rfl

theorem hostWrite_keeps {R dm s x a data} (kr : Closed R dm true) (hx : Keeps R s x) : Keeps R s (hostWrite x a data) := by
  induction data generalizing x a with
  | nil => exact hx
  | cons b t ih => exact ih (keeps_iff.2 (kr.hostByte rfl s x a b (keeps_iff.1 hx)))

theorem keepCopies_keeps {R hm s x t part} (kr : Closed R true hm) (hx : Keeps R s x) (ht : Keeps R s t) :
    Keeps R s (keepCopies x t part) := by
  unfold keepCopies
  exact every_foldl _ hx (fun _ _ h1 => keeps_getD (firstWrite_keeps kr h1) h1)

theorem noteUnmapped_keeps {R dm hm s x who a} (kr : Closed R dm hm) (hx : Keeps R s x) :
    Keeps R s (noteUnmapped x who a) := by
  unfold noteUnmapped
  exact raiseErr_keeps kr (setReg_keeps kr hx)

theorem noteReserved_keeps {R dm hm s x a} (kr : Closed R dm hm) (hx : Keeps R s x) :
    Keeps R s (noteReserved x a) := by
  unfold noteReserved
  exact raiseErr_keeps kr (setReg_keeps kr hx)

theorem noteUE_keeps {R dm hm s x st off} (kr : Closed R dm hm) (hx : Keeps R s x) :
    Keeps R s (noteUE x st off) := by
  unfold noteUE
  exact setReg_keeps kr (raiseErr_keeps kr (bump_keeps kr hx))

theorem sectorServed_keeps {R dm hm s x part st off} (kr : Closed R dm hm) (hx : Keeps R s x) :
    Keeps R s (sectorServed x part st off) := by
  unfold sectorServed
  exact every_keep (fun h1 => every_ite (noteUE_keeps kr h1) h1) (charge_keeps kr (bump64_keeps kr hx))

theorem stackRead_keeps {R dm hm s x who part base k n st off} (kr : Closed R dm hm) (hx : Keeps R s x) :
    KeepsFst R s (stackRead x who part base k n st off) := by
  unfold stackRead
  exact every_ite (keepsFst_mk (noteUnmapped_keeps kr hx)) (every_ite (keepsFst_mk (noteReserved_keeps kr hx)) (by
    try dsimp only
    split
    exact every_ite (keepsFst_mk (bump64_keeps kr hx)) (keepsFst_mk (sectorServed_keeps kr (bump64_keeps kr hx)))
    exact keepsFst_mk (sectorServed_keeps kr hx)))

theorem noteBadMode_keeps {R dm hm s x who b off write} (kr : Closed R dm hm) (hx : Keeps R s x) :
    Keeps R s (noteBadMode x who b off write) := by
  unfold noteBadMode
  exact raiseErr_keeps kr (setReg_keeps kr hx)

theorem mustWait_keeps {R dm hm s x} (kr : Closed R dm hm) (hx : Keeps R s x) :
    Keeps R s (mustWait x) := by
  unfold mustWait
  exact keeps_mk kr hx rfl rfl rfl rfl rfl rfl rfl rfl

theorem remoteRead_keeps {R dm hm s x who pool n} (kr : Closed R dm hm) (hx : Keeps R s x) :
    KeepsFst R s (remoteRead x who pool n) := by
  unfold remoteRead
  exact (by
    try dsimp only
    split
    exact keepsFst_mk (countRemote_keeps kr hx)
    exact (by
      split
      exact keepsFst_mk (countRemote_keeps kr hx)
      exact every_ite (keepsFst_mk (noteUnmapped_keeps kr hx)) (every_ite (keepsFst_mk (mustWait_keeps kr hx))
        (keepsFst_mk (mustWait_keeps kr (keeps_mk kr hx rfl rfl rfl rfl rfl rfl rfl rfl))))))

theorem readPiece_keeps {R dm hm s x who part base k n} (kr : Closed R dm hm) (hx : Keeps R s x) :
    KeepsFst R s (readPiece x who part base k n) := by
  unfold readPiece
  exact (by
    split
    exact every_keep (fun h1 => every_ite (keepsFst_mk (countLoad_keeps kr (keeps_fst h1))) h1) (stackRead_keeps kr
      hx)
    exact every_ite (keepsFst_mk hx) (keepsFst_mk (noteBadMode_keeps kr hx))
    exact keepsFst_mk (countLoad_keeps kr (keeps_fst (remoteRead_keeps kr hx)))
    exact keepsFst_mk (noteUnmapped_keeps kr hx))

theorem load_keeps {R dm hm s x who part base len} (kr : Closed R dm hm) (hx : Keeps R s x) :
    KeepsFst R s (load x who part base len) := by
  unfold load
  exact every_foldl _ (keepsFst_mk hx) (fun _ _ h1 => keepsFst_mk (keeps_fst (readPiece_keeps kr (keeps_fst h1))))

theorem loadFor_keeps {R dm hm s x who part base len} (kr : Closed R dm hm) (hx : Keeps R s x) :
    KeepsFst R s (loadFor x who part base len) := by
  unfold loadFor
  exact every_keep (fun h1 => every_ite (by
    split
    exact keepsFst_mk (reportFault_keeps kr (keeps_fst h1))
    exact keepsFst_mk (keeps_fst h1)) (keepsFst_mk (keeps_fst h1))) (load_keeps kr hx)

theorem loadLE_keeps {R dm hm s x who part base len} (kr : Closed R dm hm) (hx : Keeps R s x) :
    KeepsFst R s (loadLE x who part base len) := by
  unfold loadLE
  exact keepsFst_mk (keeps_fst (loadFor_keeps kr hx))

theorem noteCE_keeps {R dm hm s x st off symbol} (kr : Closed R dm hm) (hx : Keeps R s x) :
    Keeps R s (noteCE x st off symbol) := by
  unfold noteCE
  exact setReg_keeps kr (raiseErr_keeps kr (bump_keeps kr hx))

theorem noteHot_keeps {R dm hm s x who st off} (kr : Closed R dm hm) (hx : Keeps R s x) :
    Keeps R s (noteHot x who st off) := by
  unfold noteHot
  exact (by
    split
    exact hx
    exact every_ite hx (every_ite (keeps_mk kr hx rfl rfl rfl rfl rfl rfl rfl rfl) (keeps_mk kr hx rfl rfl rfl rfl rfl
      rfl rfl rfl)))

theorem orWait_keeps {R hm s x f} (kr : Closed R true hm) (hx : Keeps R s x) (hf : ∀ y0, Keeps R s y0 → Keeps R s (f
  y0)) :
    Keeps R s (orWait x f) := by
  unfold orWait
  exact every_keep (fun h1 => every_ite (every_keep (fun h2 => (by
    try dsimp only
    split
    exact raiseErr_keeps kr (keepCopies_keeps kr h2 h1)
    exact h2)) (keeps_mk kr hx rfl rfl rfl rfl rfl rfl rfl rfl)) h1) (hf _ (keeps_mk kr hx rfl rfl rfl rfl rfl rfl rfl
    rfl))

theorem remoteWrite_keeps {R dm hm s x who pool data} (kr : Closed R dm hm) (hx : Keeps R s x) :
    Keeps R s (remoteWrite x who pool data) := by
  unfold remoteWrite
  exact keeps_mk kr (every_foldOver _ hx (fun _ _ h2 => setBank_keeps kr h2)) rfl rfl rfl rfl rfl rfl rfl rfl

theorem stackWrite_keeps {R hm s x part st off data} (kr : Closed R true hm) (hx : Keeps R s x) :
    Keeps R s (stackWrite x part st off data) := by
  unfold stackWrite
  exact (by
    try dsimp only
    split
    exact bufferWrite_keeps kr hx
    exact controllerWrite_keeps kr hx)

theorem writePiece_keeps {R hm s x who part base k data} (kr : Closed R true hm) (hx : Keeps R s x) :
    Keeps R s (writePiece x who part base k data) := by
  unfold writePiece
  exact (by
    split
    exact every_keep (fun h1 => every_ite (noteUnmapped_keeps kr h1) (every_ite (noteReserved_keeps kr h1)
      (stackWrite_keeps kr (noteHot_keeps kr h1)))) (every_ite (countLoad_keeps kr hx) hx)
    exact every_ite (putBytes_keeps kr (clearWraps_keeps kr hx)) (noteBadMode_keeps kr hx)
    exact countLoad_keeps kr (remoteWrite_keeps kr hx)
    exact noteUnmapped_keeps kr hx)

theorem store_keeps {R hm s x who part base data} (kr : Closed R true hm) (hx : Keeps R s x) :
    Keeps R s (store x who part base data) := by
  unfold store
  exact every_foldl _ hx (fun _ _ h1 => writePiece_keeps kr h1)

theorem tileWrite_keeps {R hm s x u off data} (kr : Closed R true hm) (hx : Keeps R s x) :
    Keeps R s (tileWrite x u off data) := by
  unfold tileWrite
  exact putBytes_keeps kr hx

end Sys2Proof.Machine
end

