-- ==== Sys2Proof/Laws/ReplicasKept.lean ====
section
/-! SUPPORT. What the operations of Machine/Replicas.lean keep. -/

namespace Sys2Proof.Machine

open Sys2Proof

theorem setReplicas_keeps {R dm hm s x l} (kr : Closed R dm hm) (hx : Keeps R s x) :
    Keeps R s (setReplicas x l) := by
  unfold setReplicas
  exact setF_keeps kr (setReg_keeps kr (keeps_mk kr hx rfl rfl rfl rfl rfl rfl rfl rfl))

theorem commitReplicas_keeps {R dm hm s x} (kr : Closed R dm hm) (hx : Keeps R s x) :
    Keeps R s (commitReplicas x) := by
  unfold commitReplicas
  exact keeps_mk kr (setReplicas_keeps kr hx) rfl rfl rfl rfl rfl rfl rfl rfl

theorem countHit_keeps {R dm hm s x r} (kr : Closed R dm hm) (hx : Keeps R s x) :
    Keeps R s (countHit x r) := by
  unfold countHit
  exact bump64_keeps kr (keeps_mk kr hx rfl rfl rfl rfl rfl rfl rfl rfl)

theorem startInstall_keeps {R dm hm s x g} (kr : Closed R dm hm) (hx : Keeps R s x) :
    Keeps R s (startInstall x g) := by
  unfold startInstall
  exact every_ite hx (by
    split
    exact every_ite (keeps_mk kr (setReplicas_keeps kr hx) rfl rfl rfl rfl rfl rfl rfl rfl) (bump64_keeps kr hx)
    exact bump64_keeps kr hx)

theorem countRequest_keeps {R dm hm s x pool} (kr : Closed R dm hm) (hx : Keeps R s x) :
    Keeps R s (countRequest x pool) := by
  unfold countRequest
  exact (by
    split
    exact hx
    exact every_ite (every_keep (fun h1 => every_ite (startInstall_keeps kr h1) h1) (keeps_mk kr hx rfl rfl rfl rfl
      rfl rfl rfl rfl)) hx)

theorem finishInstall_keeps {R hm s x addr data} (kr : Closed R true hm) (hx : Keeps R s x) :
    Keeps R s (finishInstall x addr data) := by
  unfold finishInstall
  exact (by
    split
    exact hx
    exact every_ite (bump64_keeps kr (setReplicas_keeps kr (store_keeps kr hx))) hx)

theorem flushReplicas_keeps {R dm hm s x} (kr : Closed R dm hm) (hx : Keeps R s x) :
    Keeps R s (flushReplicas x) := by
  unfold flushReplicas
  exact setReplicas_keeps kr hx

theorem freeGranule_keeps {R dm hm s x addr} (kr : Closed R dm hm) (hx : Keeps R s x) :
    Keeps R s (freeGranule x addr) := by
  unfold freeGranule
  exact every_ite (bump64_keeps kr (setReplicas_keeps kr hx)) hx

end Sys2Proof.Machine
end

