-- ==== Sys2Proof/Laws/DirectoryKept.lean ====
section
/-! SUPPORT. What the operations of Machine/Directory.lean keep. -/

namespace Sys2Proof.Machine

open Sys2Proof

theorem setDirWords_keeps {R dm hm s x i w0 w1} (kr : Closed R dm hm) (hx : Keeps R s x) :
    Keeps R s (setDirWords x i w0 w1) := by
  unfold setDirWords
  exact keeps_mk kr hx rfl rfl rfl rfl rfl rfl rfl rfl

theorem applyStaged_keeps {R dm hm s c x} (kr : Closed R dm hm) (hx : Keeps R s x) :
    Keeps R s (applyStaged c x) := by
  unfold applyStaged
  exact every_ite (raiseErr_keeps kr hx) (setDirWords_keeps kr hx)

theorem setStaged_keeps {R dm hm s x l} (kr : Closed R dm hm) (hx : Keeps R s x) :
    Keeps R s (setStaged x l) := by
  unfold setStaged
  exact setF_keeps kr (setReg_keeps kr (keeps_mk kr hx rfl rfl rfl rfl rfl rfl rfl rfl))

theorem commitDirectory_keeps {R dm hm s x} (kr : Closed R dm hm) (hx : Keeps R s x) :
    Keeps R s (commitDirectory x) := by
  unfold commitDirectory
  exact keeps_mk kr (setStaged_keeps kr (every_foldOver _ hx (fun _ _ h2 => applyStaged_keeps kr h2))) rfl rfl rfl rfl
    rfl rfl rfl rfl

theorem entryDone_keeps {R dm hm s x result} (kr : Closed R dm hm) (hx : Keeps R s x) :
    Keeps R s (entryDone x result) := by
  unfold entryDone
  exact setReg_keeps kr hx

theorem entryRead_keeps {R dm hm s x} (kr : Closed R dm hm) (hx : Keeps R s x) :
    Keeps R s (entryRead x) := by
  unfold entryRead
  exact entryDone_keeps kr (setReg_keeps kr (setReg_keeps kr (setReg_keeps kr hx)))

theorem entryWrite_keeps {R dm hm s x} (kr : Closed R dm hm) (hx : Keeps R s x) :
    Keeps R s (entryWrite x) := by
  unfold entryWrite
  exact entryDone_keeps kr (every_ite (setDirWords_keeps kr hx) hx)

theorem entryStage_keeps {R dm hm s x} (kr : Closed R dm hm) (hx : Keeps R s x) :
    Keeps R s (entryStage x) := by
  unfold entryStage
  exact entryDone_keeps kr (every_ite (setStaged_keeps kr hx) hx)

theorem entryCommand_keeps {R dm hm s x op} (kr : Closed R dm hm) (hx : Keeps R s x) :
    Keeps R s (entryCommand x op) := by
  unfold entryCommand
  exact (by
    split
    exact entryRead_keeps kr hx
    exact entryWrite_keeps kr hx
    exact entryStage_keeps kr hx
    exact entryDone_keeps kr (setStaged_keeps kr hx)
    exact entryDone_keeps kr hx)

theorem execDiscardStaged_keeps {R dm hm s x} (kr : Closed R dm hm) (hx : Keeps R s x) :
    KeepsNext R s (execDiscardStaged x) := by
  unfold execDiscardStaged
  exact keepsNext_mk (every_ite (entryCommand_keeps kr hx) hx)

theorem execFlush_keeps {R dm hm s x} (kr : Closed R dm hm) (hx : Keeps R s x) :
    KeepsNext R s (execFlush x) := by
  unfold execFlush
  exact keepsNext_mk (every_ite (flushReplicas_keeps kr hx) hx)

theorem execRead_keeps {R dm hm s x} (kr : Closed R dm hm) (hx : Keeps R s x) :
    KeepsNext R s (execRead x) := by
  unfold execRead
  exact keepsNext_mk (every_ite (entryCommand_keeps kr hx) hx)

theorem replicaInstall_keeps {R hm s x} (kr : Closed R true hm) (hx : Keeps R s x) :
    Keeps R s (replicaInstall x) := by
  unfold replicaInstall
  exact (by
    try dsimp only
    split
    exact hx
    exact every_keep (fun h1 => every_ite (setReplicas_keeps kr h1) (finishInstall_keeps kr h1)) (keeps_mk kr hx rfl
      rfl rfl rfl rfl rfl rfl rfl))

theorem execReplicaInstall_keeps {R hm s x} (kr : Closed R true hm) (hx : Keeps R s x) :
    KeepsNext R s (execReplicaInstall x) := by
  unfold execReplicaInstall
  exact keepsNext_mk (orWait_keeps kr hx (fun _ h1 => replicaInstall_keeps kr h1))

theorem execStage_keeps {R dm hm s x} (kr : Closed R dm hm) (hx : Keeps R s x) :
    KeepsNext R s (execStage x) := by
  unfold execStage
  exact keepsNext_mk (every_ite (entryCommand_keeps kr hx) hx)

theorem execUndefinedEntryOp_keeps {R dm hm s op x} (kr : Closed R dm hm) (hx : Keeps R s x) :
    KeepsNext R s (execUndefinedEntryOp op x) := by
  unfold execUndefinedEntryOp
  exact keepsNext_mk (every_ite (entryCommand_keeps kr hx) hx)

theorem execWrite_keeps {R dm hm s x} (kr : Closed R dm hm) (hx : Keeps R s x) :
    KeepsNext R s (execWrite x) := by
  unfold execWrite
  exact keepsNext_mk (every_ite (entryCommand_keeps kr hx) hx)

end Sys2Proof.Machine
end

