-- ==== Sys2Proof/Laws/TallyKept.lean ====
section
/-! SUPPORT. What the operations of Machine/Tally.lean keep. -/

namespace Sys2Proof.Machine

open Sys2Proof

theorem setLive_keeps {R dm hm s x n t} (kr : Closed R dm hm) (hx : Keeps R s x) :
    Keeps R s (setLive x n t) := by
  unfold setLive
  exact every_ite hx (keeps_mk kr hx rfl rfl rfl rfl rfl rfl rfl rfl)

theorem tallyApply_keeps {R dm hm s x u} (kr : Closed R dm hm) (hx : Keeps R s x) :
    Keeps R s (tallyApply x u) := by
  unfold tallyApply
  exact every_ite hx (every_ite (raiseErr_keeps kr (setLive_keeps kr hx)) (every_ite (raiseErr_keeps kr (setLive_keeps
    kr hx)) (setLive_keeps kr hx)))

theorem tallyWriteNow_keeps {R dm hm s x slot word mask v} (kr : Closed R dm hm) (hx : Keeps R s x) :
    Keeps R s (tallyWriteNow x slot word mask v) := by
  unfold tallyWriteNow
  exact every_ite hx (by
    try dsimp only
    split
    exact setLive_keeps kr hx
    exact setLive_keeps kr hx
    exact setLive_keeps kr hx
    exact keeps_mk kr (setLive_keeps kr hx) rfl rfl rfl rfl rfl rfl rfl rfl)

theorem applyHeld_keeps {R dm hm s x l} (kr : Closed R dm hm) (hx : Keeps R s x) : Keeps R s (applyHeld x l) := by
  induction l generalizing x with
  | nil => exact hx
  | cons e t ih =>
    cases e with
    | update u => exact ih (tallyApply_keeps kr hx)
    | write n w m v => exact ih (tallyWriteNow_keeps kr hx)

theorem clearAll_keeps {R dm hm s x} (kr : Closed R dm hm) (hx : Keeps R s x) :
    Keeps R s (clearAll x) := by
  unfold clearAll
  exact every_ite (raiseErr_keeps kr hx) (keeps_mk kr (setF_keeps kr hx) rfl rfl rfl rfl rfl rfl rfl rfl)

theorem clearComplete_keeps {R dm hm s x} (kr : Closed R dm hm) (hx : Keeps R s x) :
    Keeps R s (clearComplete x) := by
  unfold clearComplete
  exact every_ite (applyHeld_keeps kr (keeps_mk kr (setF_keeps kr hx) rfl rfl rfl rfl rfl rfl rfl rfl)) hx

theorem execClearComplete_keeps {R dm hm s x} (kr : Closed R dm hm) (hx : Keeps R s x) :
    KeepsNext R s (execClearComplete x) := by
  unfold execClearComplete
  exact keepsNext_mk (clearComplete_keeps kr hx)

theorem snapDone_keeps {R dm hm s x} (kr : Closed R dm hm) (hx : Keeps R s x) :
    Keeps R s (snapDone x) := by
  unfold snapDone
  exact (by
    split
    exact hx
    exact keeps_mk kr (setF_keeps kr (setReg_keeps kr (setReg_keeps kr (setReg_keeps kr (setReg_keeps kr
      (clearComplete_keeps kr hx)))))) rfl rfl rfl rfl rfl rfl rfl rfl)

theorem execSnapValid_keeps {R dm hm s x} (kr : Closed R dm hm) (hx : Keeps R s x) :
    KeepsNext R s (execSnapValid x) := by
  unfold execSnapValid
  exact keepsNext_mk (snapDone_keeps kr hx)

theorem tallyUpdate_keeps {R dm hm s x u} (kr : Closed R dm hm) (hx : Keeps R s x) :
    Keeps R s (tallyUpdate x u) := by
  unfold tallyUpdate
  exact every_ite (keeps_mk kr hx rfl rfl rfl rfl rfl rfl rfl rfl) (tallyApply_keeps kr hx)

theorem execTallyUpdate_keeps {R dm hm s upd x} (kr : Closed R dm hm) (hx : Keeps R s x) :
    KeepsNext R s (execTallyUpdate upd x) := by
  unfold execTallyUpdate
  exact keepsNext_mk (tallyUpdate_keeps kr hx)

theorem snapStart_keeps {R dm hm s x slot} (kr : Closed R dm hm) (hx : Keeps R s x) :
    Keeps R s (snapStart x slot) := by
  unfold snapStart
  exact keeps_mk kr (setReg_keeps kr hx) rfl rfl rfl rfl rfl rfl rfl rfl

theorem tallyCommit_keeps {R dm hm s x epoch} (kr : Closed R dm hm) (hx : Keeps R s x) :
    Keeps R s (tallyCommit x epoch) := by
  unfold tallyCommit
  exact keeps_mk kr (setReg_keeps kr hx) rfl rfl rfl rfl rfl rfl rfl rfl

theorem tallyRollback_keeps {R dm hm s x} (kr : Closed R dm hm) (hx : Keeps R s x) :
    Keeps R s (tallyRollback x) := by
  unfold tallyRollback
  exact keeps_mk kr (clearComplete_keeps kr (keeps_mk kr hx rfl rfl rfl rfl rfl rfl rfl rfl)) rfl rfl rfl rfl rfl rfl
    rfl rfl

theorem tallyWrite_keeps {R dm hm s x slot word mask v} (kr : Closed R dm hm) (hx : Keeps R s x) :
    Keeps R s (tallyWrite x slot word mask v) := by
  unfold tallyWrite
  exact every_ite hx (every_ite (keeps_mk kr hx rfl rfl rfl rfl rfl rfl rfl rfl) (tallyWriteNow_keeps kr hx))

end Sys2Proof.Machine
end

