-- ==== Sys2Proof/Laws/TimeBaseKept.lean ====
section
/-! SUPPORT. What the operations of Machine/TimeBase.lean keep. -/

namespace Sys2Proof.Machine

open Sys2Proof

theorem compareFire_keeps {R dm hm s x} (kr : Closed R dm hm) (hx : Keeps R s x) :
    Keeps R s (compareFire x) := by
  unfold compareFire
  exact every_ite (timeUpTo_keeps kr hx) hx

theorem compareWrite_keeps {R dm hm s x v} (kr : Closed R dm hm) (hx : Keeps R s x) :
    Keeps R s (compareWrite x v) := by
  unfold compareWrite
  exact every_keep (fun h1 => every_ite (keeps_mk kr h1 rfl rfl rfl rfl rfl rfl rfl rfl) (every_ite (raiseInt_keeps kr
    (keeps_mk kr h1 rfl rfl rfl rfl rfl rfl rfl rfl)) (keeps_mk kr h1 rfl rfl rfl rfl rfl rfl rfl rfl))) (setReg_keeps
    kr hx)

theorem execCompare_keeps {R dm hm s x} (kr : Closed R dm hm) (hx : Keeps R s x) :
    KeepsNext R s (execCompare x) := by
  unfold execCompare
  exact keepsNext_mk (compareFire_keeps kr hx)

theorem setErrEst_keeps {R dm hm s x e} (kr : Closed R dm hm) (hx : Keeps R s x) :
    Keeps R s (setErrEst x e) := by
  unfold setErrEst
  exact every_keep (fun h1 => every_ite (keeps_mk kr (setF_keeps kr (setF_keeps kr h1)) rfl rfl rfl rfl rfl rfl rfl
    rfl) (every_keep (fun h3 => every_ite (every_keep (fun h4 => every_ite (raiseInt_keeps kr (raiseInt_keeps kr h4))
    h4) (setF_keeps kr h3)) h3) (setF_keeps kr h1))) (setF_keeps kr hx)

theorem holdover_keeps {R dm hm s x errEst} (kr : Closed R dm hm) (hx : Keeps R s x) :
    Keeps R s (holdover x errEst) := by
  unfold holdover
  exact every_ite (setErrEst_keeps kr (setF_keeps kr (timeUpTo_keeps kr hx))) hx

theorem execHoldover_keeps {R dm hm s errEst x} (kr : Closed R dm hm) (hx : Keeps R s x) :
    KeepsNext R s (execHoldover errEst x) := by
  unfold execHoldover
  exact keepsNext_mk (holdover_keeps kr hx)

theorem latchTime_keeps {R dm hm s x} (kr : Closed R dm hm) (hx : Keeps R s x) :
    Keeps R s (latchTime x) := by
  unfold latchTime
  exact keeps_mk kr (setReg_keeps kr hx) rfl rfl rfl rfl rfl rfl rfl rfl

theorem setTime_keeps {R dm hm s x t} (kr : Closed R dm hm) (hx : Keeps R s x) :
    Keeps R s (setTime x t) := by
  unfold setTime
  exact keeps_mk kr hx rfl rfl rfl rfl rfl rfl rfl rfl

theorem syncStart_keeps {R dm hm s x} (kr : Closed R dm hm) (hx : Keeps R s x) :
    Keeps R s (syncStart x) := by
  unfold syncStart
  exact keeps_mk kr (setF_keeps kr (setF_keeps kr (setF_keeps kr hx))) rfl rfl rfl rfl rfl rfl rfl rfl

end Sys2Proof.Machine
end

