-- ==== Sys2Proof/Laws/RegistersKept.lean ====
section
/-! SUPPORT. What the operations of Machine/Registers.lean keep. -/

namespace Sys2Proof.Machine

open Sys2Proof

theorem badAccess_keeps {R dm hm s x write off size} (kr : Closed R dm hm) (hx : Keeps R s x) :
    Keeps R s (badAccess x write off size) := by
  unfold badAccess
  exact raiseErr_keeps kr (setReg_keeps kr hx)

theorem clearRC_keeps {R dm hm s x u off size} (kr : Closed R dm hm) (hx : Keeps R s x) :
    Keeps R s (clearRC x u off size) := by
  unfold clearRC
  exact every_ite hx (setReg_keeps kr hx)

theorem execBadAccess_keeps {R dm hm s write off size x} (kr : Closed R dm hm) (hx : Keeps R s x) :
    KeepsNext R s (execBadAccess write off size x) := by
  unfold execBadAccess
  exact keepsNext_mk (every_ite (every_keep (fun h1 => every_ite h1 (keeps_mk kr h1 rfl rfl rfl rfl rfl rfl rfl rfl))
    (badAccess_keeps kr hx)) hx)

theorem execClearAll_keeps {R dm hm s x} (kr : Closed R dm hm) (hx : Keeps R s x) :
    KeepsNext R s (execClearAll x) := by
  unfold execClearAll
  exact keepsNext_mk (every_ite (clearAll_keeps kr hx) hx)

theorem execCompareWrite_keeps {R dm hm s value x} (kr : Closed R dm hm) (hx : Keeps R s x) :
    KeepsNext R s (execCompareWrite value x) := by
  unfold execCompareWrite
  exact keepsNext_mk (every_ite (compareWrite_keeps kr hx) hx)

theorem hostReadAt_keeps {R dm hm s x off size} (kr : Closed R dm hm) (hx : Keeps R s x) :
    Keeps R s (hostReadAt x off size) := by
  unfold hostReadAt
  exact every_ite hx (every_ite (keeps_mk kr (badAccess_keeps kr hx) rfl rfl rfl rfl rfl rfl rfl rfl) (by
    split
    exact every_ite (latchTime_keeps kr hx) (every_ite (keeps_mk kr (clearComplete_keeps kr hx) rfl rfl rfl rfl rfl
      rfl rfl rfl) (every_ite (keeps_mk kr (clearRC_keeps kr hx) rfl rfl rfl rfl rfl rfl rfl rfl) (keeps_mk kr hx rfl
      rfl rfl rfl rfl rfl rfl rfl)))
    exact keeps_mk kr (clearComplete_keeps kr hx) rfl rfl rfl rfl rfl rfl rfl rfl))

theorem execRcRead_keeps {R dm hm s off size x} (kr : Closed R dm hm) (hx : Keeps R s x) :
    KeepsNext R s (execRcRead off size x) := by
  unfold execRcRead
  exact keepsNext_mk (hostReadAt_keeps kr hx)

theorem execTallySnapshot_keeps {R dm hm s slot x} (kr : Closed R dm hm) (hx : Keeps R s x) :
    KeepsNext R s (execTallySnapshot slot x) := by
  unfold execTallySnapshot
  exact keepsNext_mk (every_ite (snapStart_keeps kr hx) hx)

theorem execTallyWrite_keeps {R dm hm s slot word value x} (kr : Closed R dm hm) (hx : Keeps R s x) :
    KeepsNext R s (execTallyWrite slot word value x) := by
  unfold execTallyWrite
  exact keepsNext_mk (every_ite (tallyWrite_keeps kr hx) hx)

theorem execTimeLatch_keeps {R dm hm s x} (kr : Closed R dm hm) (hx : Keeps R s x) :
    KeepsNext R s (execTimeLatch x) := by
  unfold execTimeLatch
  exact keepsNext_mk (every_ite (latchTime_keeps kr hx) hx)

theorem markRetired_keeps {R dm hm s x u} (kr : Closed R dm hm) (hx : Keeps R s x) :
    Keeps R s (markRetired x u) := by
  unfold markRetired
  exact every_ite hx (every_keep (fun h1 => every_keep (fun h2 => every_ite (countRetired_keeps kr h2)
    (countRetired_keeps kr h2)) (raiseErr_keeps kr (setF_keeps kr h1))) (setF_keeps kr hx))

theorem plainWrite_keeps {R dm hm s x u off mask v} (kr : Closed R dm hm) (hx : Keeps R s x) :
    Keeps R s (plainWrite x u off mask v) := by
  unfold plainWrite
  exact every_keep (fun h1 => every_ite (raiseErr_keeps kr h1) h1) (every_ite (setInt_keeps kr hx) (setReg_keeps kr hx))

end Sys2Proof.Machine
end

