-- ==== Sys2Proof/Laws/LedgerKept.lean ====
section
/-! SUPPORT. What the operations of Machine/Ledger.lean keep. -/

namespace Sys2Proof.Machine

open Sys2Proof

theorem accountEnd_keeps {R dm hm s x u e} (kr : Closed R dm hm) (hx : Keeps R s x) :
    Keeps R s (accountEnd x u e) := by
  unfold accountEnd
  exact every_keep (fun h1 => every_ite (bump_keeps kr h1) (every_ite (raiseInt_keeps kr (bump_keeps kr h1))
    (every_keep (fun h2 => every_keep (fun h3 => every_foldOver _ h3 (fun _ _ h4 => raiseErr_keeps kr h4)) (setF_keeps
    kr (setF_keeps kr h2))) (bump_keeps kr h1)))) (every_ite (setF_keeps kr hx) hx)

theorem setTblEntry_keeps {R dm hm s x n e} (kr : Closed R dm hm) (hx : Keeps R s x) :
    Keeps R s (setTblEntry x n e) := by
  unfold setTblEntry
  exact keeps_mk kr hx rfl rfl rfl rfl rfl rfl rfl rfl

theorem applySwitch_keeps {R dm hm s x d ring} (kr : Closed R dm hm) (hx : Keeps R s x) :
    Keeps R s (applySwitch x d ring) := by
  unfold applySwitch
  exact setTblEntry_keeps kr hx

theorem applyCtxSet_keeps {R dm hm s x seq d} (kr : Closed R dm hm) (hx : Keeps R s x) :
    KeepsFst R s (applyCtxSet x seq d) := by
  unfold applyCtxSet
  exact every_ite (every_ite (keepsFst_mk hx) (every_ite (keepsFst_mk hx) (keepsFst_mk (keeps_mk kr hx rfl rfl rfl rfl
    rfl rfl rfl rfl)))) (keepsFst_mk (keeps_mk kr hx rfl rfl rfl rfl rfl rfl rfl rfl))

theorem admissionEnd_keeps {R dm hm s x seq ring d} (kr : Closed R dm hm) (hx : Keeps R s x) :
    KeepsFst R s (admissionEnd x seq ring d) := by
  unfold admissionEnd
  exact every_ite (by
    split
    exact keepsFst_mk hx
    exact keepsFst_mk (applySwitch_keeps kr hx)) (every_ite (keepsFst_mk hx) (every_ite (keepsFst_mk (keeps_fst
    (applyCtxSet_keeps kr hx))) (every_ite (keepsFst_mk hx) (keepsFst_mk hx))))

theorem pinTable_keeps {R dm hm s x t} (kr : Closed R dm hm) (hx : Keeps R s x) :
    KeepsFst R s (pinTable x t) := by
  unfold pinTable
  exact every_ite (by
    split
    exact keepsFst_mk (setTblEntry_keeps kr hx)
    exact keepsFst_mk hx) (keepsFst_mk hx)

theorem takeName_keeps {R dm hm s x id owner next status} (kr : Closed R dm hm) (hx : Keeps R s x) :
    Keeps R s (takeName x id owner next status) := by
  unfold takeName
  exact keeps_mk kr hx rfl rfl rfl rfl rfl rfl rfl rfl

theorem appendLog_keeps {R hm s x e} (kr : Closed R true hm) (hx : Keeps R s x) :
    Keeps R s (appendLog x e) := by
  unfold appendLog
  exact every_keep (fun h1 => every_keep (fun h2 => every_ite (requestClose_keeps kr (setF_keeps kr h2)) h2) (keeps_mk
    kr h1 rfl rfl rfl rfl rfl rfl rfl rfl)) (every_ite (store_keeps kr hx) (raiseErr_keeps kr hx))

theorem markScope_keeps {R dm hm s x t} (kr : Closed R dm hm) (hx : Keeps R s x) :
    Keeps R s (markScope x t) := by
  unfold markScope
  exact every_ite (keeps_mk kr hx rfl rfl rfl rfl rfl rfl rfl rfl) hx

theorem unpinTable_keeps {R dm hm s x t} (kr : Closed R dm hm) (hx : Keeps R s x) :
    Keeps R s (unpinTable x t) := by
  unfold unpinTable
  exact (by
    split
    exact setTblEntry_keeps kr hx
    exact hx)

theorem setTask_keeps {R dm hm s x t} (kr : Closed R dm hm) (hx : Keeps R s x) :
    Keeps R s (setTask x t) := by
  unfold setTask
  exact keeps_mk kr hx rfl rfl rfl rfl rfl rfl rfl rfl

theorem countOutcome_keeps {R dm hm s x q v} (kr : Closed R dm hm) (hx : Keeps R s x) :
    Keeps R s (countOutcome x q v) := by
  unfold countOutcome
  exact (by
    split
    exact hx
    exact bump_keeps kr hx
    exact bump_keeps kr hx
    exact bump_keeps kr hx)

theorem endTask_keeps {R dm hm s x t e} (kr : Closed R dm hm) (hx : Keeps R s x) :
    Keeps R s (endTask x t e) := by
  unfold endTask
  exact countOutcome_keeps kr (setTask_keeps kr (unpinTable_keeps kr hx))

theorem enterTask_keeps {R hm s x t0 logIt} (kr : Closed R true hm) (hx : Keeps R s x) :
    Keeps R s (enterTask x t0 logIt) := by
  unfold enterTask
  exact every_keep (fun h1 => every_keep (fun h2 => every_keep (fun h3 => every_keep (fun h4 => every_keep (fun h5 =>
    every_keep (fun h6 => every_keep (fun h7 => (by
    try dsimp only
    split
    exact endTask_keeps kr h7
    exact h7)) (markScope_keeps kr h6)) (every_ite (appendLog_keeps kr h5) h5)) (takeName_keeps kr h4)) (keeps_mk kr
    (keeps_fst h3) rfl rfl rfl rfl rfl rfl rfl rfl)) (every_ite (keepsFst_mk (keeps_fst h2)) (pinTable_keeps kr
    (keeps_fst h2)))) (every_ite (keepsFst_mk h1) (admissionEnd_keeps kr h1))) (bump64_keeps kr hx)

theorem admitDesc_keeps {R hm s x ring d} (kr : Closed R true hm) (hx : Keeps R s x) :
    Keeps R s (admitDesc x ring d) := by
  unfold admitDesc
  exact enterTask_keeps kr (setF_keeps kr (keeps_mk kr hx rfl rfl rfl rfl rfl rfl rfl rfl))

theorem setRing_keeps {R dm hm s x n r} (kr : Closed R dm hm) (hx : Keeps R s x) :
    Keeps R s (setRing x n r) := by
  unfold setRing
  exact keeps_mk kr hx rfl rfl rfl rfl rfl rfl rfl rfl

theorem holdRing_keeps {R dm hm s x n q code} (kr : Closed R dm hm) (hx : Keeps R s x) :
    Keeps R s (holdRing x n q code) := by
  unfold holdRing
  exact every_keep (fun h1 => every_keep (fun h2 => every_ite (raiseErr_keeps kr h2) h2) (setF_keeps kr h1))
    (setRing_keeps kr hx)

theorem queueRecord_keeps {R dm hm s x q ring bytes} (kr : Closed R dm hm) (hx : Keeps R s x) :
    Keeps R s (queueRecord x q ring bytes) := by
  unfold queueRecord
  exact keeps_mk kr hx rfl rfl rfl rfl rfl rfl rfl rfl

theorem releaseTask_keeps {R dm hm s t0 x} (kr : Closed R dm hm) (hx : Keeps R s x) :
    Keeps R s (releaseTask t0 x) := by
  unfold releaseTask
  exact (by
    split
    exact hx
    exact (by
      split
      exact hx
      exact every_ite (every_keep (fun h1 => every_ite h1 (queueRecord_keeps kr h1)) (setTask_keeps kr hx)) hx))

theorem endWith_keeps {R dm hm s x t v status} (kr : Closed R dm hm) (hx : Keeps R s x) :
    Keeps R s (endWith x t v status) := by
  unfold endWith
  exact endTask_keeps kr hx

theorem settleTask_keeps {R dm hm s clock t0 x} (kr : Closed R dm hm) (hx : Keeps R s x) :
    Keeps R s (settleTask clock t0 x) := by
  unfold settleTask
  exact (by
    split
    exact hx
    exact every_ite hx (by
      split
      exact hx
      exact hx
      exact every_ite (endWith_keeps kr hx) (every_ite hx (every_ite (every_ite (endWith_keeps kr hx) (by
        split
        exact hx
        exact setTask_keeps kr hx)) hx))))

theorem settlePass_keeps {R dm hm s clock x} (kr : Closed R dm hm) (hx : Keeps R s x) :
    Keeps R s (settlePass clock x) := by
  unfold settlePass
  exact every_foldOver _ (every_foldOver _ hx (fun _ _ h1 => settleTask_keeps kr h1)) (fun _ _ h2 => releaseTask_keeps
    kr h2)

theorem settle_keeps {R dm hm s x} (kr : Closed R dm hm) (hx : Keeps R s x) :
    Keeps R s (settle x) := by
  unfold settle
  exact every_ite hx (every_iter _ (keeps_mk kr hx rfl rfl rfl rfl rfl rfl rfl rfl) (fun _ _ h1 => settlePass_keeps kr
    h1))

theorem ringAdvance_keeps {R dm hm s x n} (kr : Closed R dm hm) (hx : Keeps R s x) :
    Keeps R s (ringAdvance x n) := by
  unfold ringAdvance
  exact setRing_keeps kr hx

theorem refuseDesc_keeps {R dm hm s x ring d status} (kr : Closed R dm hm) (hx : Keeps R s x) :
    Keeps R s (refuseDesc x ring d status) := by
  unfold refuseDesc
  exact queueRecord_keeps kr (countOutcome_keeps kr (raiseErr_keeps kr (setReg_keeps kr (every_ite (takeName_keeps kr
    hx) hx))))

theorem admitFrom_keeps {R hm s x n} (kr : Closed R true hm) (hx : Keeps R s x) :
    Keeps R s (admitFrom x n) := by
  unfold admitFrom
  exact (by
    try dsimp only
    split
    exact hx
    exact every_ite (setRing_keeps kr hx) (every_ite hx (every_ite hx (every_ite (holdRing_keeps kr hx) (every_keep
      (fun h1 => (by
      try dsimp only
      split
      exact settle_keeps kr (ringAdvance_keeps kr (refuseDesc_keeps kr h1))
      exact settle_keeps kr (ringAdvance_keeps kr (admitDesc_keeps kr h1)))) (setF_keeps kr hx))))))

theorem dropReplies_keeps {R dm hm s x u} (kr : Closed R dm hm) (hx : Keeps R s x) :
    Keeps R s (dropReplies x u) := by
  unfold dropReplies
  exact keeps_mk kr hx rfl rfl rfl rfl rfl rfl rfl rfl

theorem dropHeld_keeps {R dm hm s x u} (kr : Closed R dm hm) (hx : Keeps R s x) :
    Keeps R s (dropHeld x u) := by
  unfold dropHeld
  exact every_ite (every_keep (fun h1 => (by
    try dsimp only
    split
    exact (by
      split
      exact setF_keeps kr (setF_keeps kr h1)
      exact h1)
    exact h1)) (keeps_mk kr hx rfl rfl rfl rfl rfl rfl rfl rfl)) (every_ite (setF_keeps kr hx) (every_ite (by
    split
    exact keeps_mk kr hx rfl rfl rfl rfl rfl rfl rfl rfl
    exact hx) hx))

theorem setEng_keeps {R dm hm s x u e} (kr : Closed R dm hm) (hx : Keeps R s x) :
    Keeps R s (setEng x u e) := by
  unfold setEng
  exact setF_keeps kr (keeps_mk kr hx rfl rfl rfl rfl rfl rfl rfl rfl)

theorem dropFromTill_keeps {R dm hm s s0 u seq} (kr : Closed R dm hm) (hs0 : Keeps R s s0) :
    Keeps R s (dropFromTill s0 u seq) := by
  unfold dropFromTill
  exact setEng_keeps kr (every_ite (setF_keeps kr (dropReplies_keeps kr (dropHeld_keeps kr hs0))) hs0)

theorem expireTask_keeps {R dm hm s x t} (kr : Closed R dm hm) (hx : Keeps R s x) :
    Keeps R s (expireTask x t) := by
  unfold expireTask
  exact endWith_keeps kr (by
    split
    exact bump_keeps kr (dropFromTill_keeps kr hx)
    exact hx)

theorem deadlineExpiry_keeps {R dm hm s x seq} (kr : Closed R dm hm) (hx : Keeps R s x) :
    Keeps R s (deadlineExpiry x seq) := by
  unfold deadlineExpiry
  exact (by
    split
    exact hx
    exact (by
      split
      exact hx
      exact every_ite hx (settle_keeps kr (expireTask_keeps kr (timeUpTo_keeps kr hx)))))

theorem delayTick_keeps {R dm hm s x q l time} (kr : Closed R dm hm) (hx : Keeps R s x) :
    Keeps R s (delayTick x q l time) := by
  unfold delayTick
  exact every_ite hx (settle_keeps kr (keeps_mk kr (timeUpTo_keeps kr hx) rfl rfl rfl rfl rfl rfl rfl rfl))

theorem switchContext_keeps {R hm s x u} (kr : Closed R true hm) (hx : Keeps R s x) :
    Keeps R s (switchContext x u) := by
  unfold switchContext
  exact (by
    try dsimp only
    split
    exact hx
    exact every_ite hx (every_keep (fun h1 => (by
      try dsimp only
      split
      exact every_ite (tileWrite_keeps kr (keeps_fst (loadFor_keeps kr h1))) h1
      exact h1)) (bump64_keeps kr (setEng_keeps kr hx))))

theorem dispatch_keeps {R hm s x q} (kr : Closed R true hm) (hx : Keeps R s x) :
    Keeps R s (dispatch x q) := by
  unfold dispatch
  exact every_ite hx (by
    split
    exact hx
    exact (by
      split
      exact hx
      exact every_keep (fun h1 => every_keep (fun h2 => every_ite (orWait_keeps kr h2 (fun _ h3 => switchContext_keeps
        kr h3)) h2) (setEng_keeps kr h1)) (bump64_keeps kr (setTask_keeps kr hx))))

theorem emptyLogs_keeps {R dm hm s x} (kr : Closed R dm hm) (hx : Keeps R s x) :
    Keeps R s (emptyLogs x) := by
  unfold emptyLogs
  exact every_keep (fun h1 => every_foldOver _ h1 (fun _ _ h2 => setF_keeps kr h2)) (keeps_mk kr hx rfl rfl rfl rfl
    rfl rfl rfl rfl)

theorem expirePassed_keeps {R dm hm s x} (kr : Closed R dm hm) (hx : Keeps R s x) :
    Keeps R s (expirePassed x) := by
  unfold expirePassed
  exact every_ite hx (settle_keeps kr (every_foldOver _ hx (fun _ _ h1 => expireTask_keeps kr h1)))

theorem releasePassed_keeps {R dm hm s x} (kr : Closed R dm hm) (hx : Keeps R s x) :
    Keeps R s (releasePassed x) := by
  unfold releasePassed
  exact settle_keeps kr (keeps_mk kr hx rfl rfl rfl rfl rfl rfl rfl rfl)

theorem returnTills_keeps {R dm hm s x u} (kr : Closed R dm hm) (hx : Keeps R s x) :
    Keeps R s (returnTills x u) := by
  unfold returnTills
  exact setEng_keeps kr (keeps_mk kr hx rfl rfl rfl rfl rfl rfl rfl rfl)

theorem retireUnit_keeps {R dm hm s x u} (kr : Closed R dm hm) (hx : Keeps R s x) :
    Keeps R s (retireUnit x u) := by
  unfold retireUnit
  exact settle_keeps kr (returnTills_keeps kr (markRetired_keeps kr hx))

theorem tableDrained_keeps {R dm hm s x n version} (kr : Closed R dm hm) (hx : Keeps R s x) :
    Keeps R s (tableDrained x n version) := by
  unfold tableDrained
  exact every_ite hx (by
    split
    exact hx
    exact queueRecord_keeps kr (setTblEntry_keeps kr hx))

theorem taskComplete_keeps {R hm s x u} (kr : Closed R true hm) (hx : Keeps R s x) :
    Keeps R s (taskComplete x u) := by
  unfold taskComplete
  exact (by
    try dsimp only
    split
    exact every_ite hx (every_keep (fun h1 => every_keep (fun h2 => orWait_keeps kr (settle_keeps kr h2) (fun _ h3 =>
      every_ite h3 (switchContext_keeps kr h3))) (endTask_keeps kr (dropFromTill_keeps kr (accountEnd_keeps kr h1))))
      (setTask_keeps kr hx))
    exact hx)

theorem timeStepped_keeps {R dm hm s x} (kr : Closed R dm hm) (hx : Keeps R s x) :
    Keeps R s (timeStepped x) := by
  unfold timeStepped
  exact expirePassed_keeps kr (releasePassed_keeps kr (compareDue_keeps kr hx))

end Sys2Proof.Machine
end

