-- ==== Sys2Proof/Laws/EpochsKept.lean ====
section
/-! SUPPORT. What the operations of Machine/Epochs.lean keep. -/

namespace Sys2Proof.Machine

open Sys2Proof

theorem assignRole_keeps {R dm hm s x} (kr : Closed R dm hm) (hx : Keeps R s x) :
    Keeps R s (assignRole x) := by
  unfold assignRole
  exact every_foldOver _ hx (fun _ _ h1 => setF_keeps kr h1)

theorem clearTransients_keeps {R dm hm s x} (kr : Closed R dm hm) (hx : Keeps R s x) :
    Keeps R s (clearTransients x) := by
  unfold clearTransients
  exact every_foldOver _ hx (fun _ _ h1 => setEng_keeps kr h1)

theorem setPhase_keeps {R dm hm s x p} (kr : Closed R dm hm) (hx : Keeps R s x) :
    Keeps R s (setPhase x p) := by
  unfold setPhase
  exact setF_keeps kr hx

theorem closeEpoch_keeps {R dm hm s x} (kr : Closed R dm hm) (hx : Keeps R s x) :
    Keeps R s (closeEpoch x) := by
  unfold closeEpoch
  exact every_ite hx (settle_keeps kr (keeps_mk kr (every_foldOver _ (setPhase_keeps kr hx) (fun _ _ h2 =>
    bump64_keeps kr h2)) rfl rfl rfl rfl rfl rfl rfl rfl))

theorem sendToken_keeps {R dm hm s x dest phase epoch count sender reason} (kr : Closed R dm hm) (hx : Keeps R s x) :
    Keeps R s (sendToken x dest phase epoch count sender reason) := by
  unfold sendToken
  exact (by
    split
    exact hx
    exact bump64_keeps kr (sendMessage_keeps kr hx))

theorem tokenDown_keeps {R dm hm s x phase epoch reason sender} (kr : Closed R dm hm) (hx : Keeps R s x) :
    Keeps R s (tokenDown x phase epoch reason sender) := by
  unfold tokenDown
  exact every_foldOver _ hx (fun _ _ h1 => sendToken_keeps kr h1)

theorem closeOrder_keeps {R dm hm s x} (kr : Closed R dm hm) (hx : Keeps R s x) :
    Keeps R s (closeOrder x) := by
  unfold closeOrder
  exact every_ite (closeEpoch_keeps kr (tokenDown_keeps kr hx)) hx

theorem tokenUp_keeps {R dm hm s x phase epoch count reason sender} (kr : Closed R dm hm) (hx : Keeps R s x) :
    Keeps R s (tokenUp x phase epoch count reason sender) := by
  unfold tokenUp
  exact sendToken_keeps kr hx

theorem requestCheck_keeps {R dm hm s x} (kr : Closed R dm hm) (hx : Keeps R s x) :
    Keeps R s (requestCheck x) := by
  unfold requestCheck
  exact every_ite (every_keep (fun h1 => every_ite (closeOrder_keeps kr h1) (tokenUp_keeps kr h1)) (keeps_mk kr hx rfl
    rfl rfl rfl rfl rfl rfl rfl)) hx

theorem closeCommand_keeps {R dm hm s x} (kr : Closed R dm hm) (hx : Keeps R s x) :
    Keeps R s (closeCommand x) := by
  unfold closeCommand
  exact requestCheck_keeps kr (requestClose_keeps kr hx)

theorem closeInstant_keeps {R dm hm s x} (kr : Closed R dm hm) (hx : Keeps R s x) :
    Keeps R s (closeInstant x) := by
  unfold closeInstant
  exact every_ite (closeEpoch_keeps kr (timeUpTo_keeps kr hx)) hx

theorem commitPages_keeps {R dm hm s x} (kr : Closed R dm hm) (hx : Keeps R s x) :
    Keeps R s (commitPages x) := by
  unfold commitPages
  exact every_keep (fun h1 => every_foldOver _ h1 (fun _ _ h2 => setF_keeps kr (setReg_keeps kr (setReg_keeps kr
    (setF_keeps kr h2))))) (keeps_mk kr hx rfl rfl rfl rfl rfl rfl rfl rfl)

theorem dropRemoteCopies_keeps {R dm hm s x} (kr : Closed R dm hm) (hx : Keeps R s x) :
    Keeps R s (dropRemoteCopies x) := by
  unfold dropRemoteCopies
  exact keeps_mk kr (every_foldOver _ hx (fun _ _ h2 => setBank_keeps kr h2)) rfl rfl rfl rfl rfl rfl rfl rfl

theorem releaseHeld_keeps {R dm hm s x} (kr : Closed R dm hm) (hx : Keeps R s x) :
    Keeps R s (releaseHeld x) := by
  unfold releaseHeld
  exact every_foldOver _ hx (fun _ _ h1 => every_ite (setRing_keeps kr h1) h1)

theorem logNext_keeps {R hm s x epoch} (kr : Closed R true hm) (hx : Keeps R s x) :
    Keeps R s (logNext x epoch) := by
  unfold logNext
  exact every_foldOver _ hx (fun _ _ h1 => appendLog_keeps kr h1)

theorem commitEpoch_keeps {R hm s x} (kr : Closed R true hm) (hx : Keeps R s x) :
    Keeps R s (commitEpoch x) := by
  unfold commitEpoch
  exact every_keep (fun h1 => every_keep (fun h2 => every_keep (fun h3 => every_keep (fun h4 => every_keep (fun h5 =>
    every_keep (fun h6 => every_keep (fun h7 => settle_keeps kr (every_ite h7 (setPhase_keeps kr h7))) (raiseInt_keeps
    kr (bump64_keeps kr h6))) (keeps_mk kr h5 rfl rfl rfl rfl rfl rfl rfl rfl)) (releaseHeld_keeps kr (every_ite h4
    (logNext_keeps kr h4)))) (setF_keeps kr (setF_keeps kr (setF_keeps kr h3)))) (emptyLogs_keeps kr (keeps_mk kr h2
    rfl rfl rfl rfl rfl rfl rfl rfl))) (clearTransients_keeps kr (dropRemoteCopies_keeps kr (commitReplicas_keeps kr
    (commitDirectory_keeps kr h1))))) (tallyCommit_keeps kr (commitPages_keeps kr hx))

theorem decideCommit_keeps {R hm s x} (kr : Closed R true hm) (hx : Keeps R s x) :
    Keeps R s (decideCommit x) := by
  unfold decideCommit
  exact commitEpoch_keeps kr (tokenDown_keeps kr hx)

theorem drainBuffers_keeps {R hm s x} (kr : Closed R true hm) (hx : Keeps R s x) :
    Keeps R s (drainBuffers x) := by
  unfold drainBuffers
  exact every_foldOver _ hx (fun _ _ h1 => every_iter _ h1 (fun _ _ h2 => drainOldest_keeps kr h2))

theorem voteCheck_keeps {R hm s x} (kr : Closed R true hm) (hx : Keeps R s x) :
    Keeps R s (voteCheck x) := by
  unfold voteCheck
  exact every_ite (every_keep (fun h1 => every_ite (every_ite (decideCommit_keeps kr h1) h1) (tokenUp_keeps kr h1))
    (setPhase_keeps kr hx)) hx

theorem drainComplete_keeps {R hm s x} (kr : Closed R true hm) (hx : Keeps R s x) :
    Keeps R s (drainComplete x) := by
  unfold drainComplete
  exact every_ite (every_keep (fun h1 => every_ite (voteCheck_keeps kr (keeps_mk kr h1 rfl rfl rfl rfl rfl rfl rfl
    rfl)) h1) (flushInvals_keeps kr (orWait_keeps kr hx (fun _ h2 => drainBuffers_keeps kr h2)))) hx

theorem openFirst_keeps {R dm hm s x} (kr : Closed R dm hm) (hx : Keeps R s x) :
    Keeps R s (openFirst x) := by
  unfold openFirst
  exact keeps_mk kr (setPhase_keeps kr (setF_keeps kr (setF_keeps kr hx))) rfl rfl rfl rfl rfl rfl rfl rfl

theorem startCheck_keeps {R dm hm s x} (kr : Closed R dm hm) (hx : Keeps R s x) :
    Keeps R s (startCheck x) := by
  unfold startCheck
  exact every_ite (every_ite (every_ite (openFirst_keeps kr (tokenDown_keeps kr hx)) hx) (every_ite hx (keeps_mk kr
    (tokenUp_keeps kr hx) rfl rfl rfl rfl rfl rfl rfl rfl))) hx

theorem epochPoll_keeps {R dm hm s x} (kr : Closed R dm hm) (hx : Keeps R s x) :
    Keeps R s (epochPoll x) := by
  unfold epochPoll
  exact requestCheck_keeps kr (startCheck_keeps kr hx)

theorem epochStart_keeps {R dm hm s x} (kr : Closed R dm hm) (hx : Keeps R s x) :
    Keeps R s (epochStart x) := by
  unfold epochStart
  exact every_ite hx (every_keep (fun h1 => every_ite h1 (every_keep (fun h2 => every_ite (setF_keeps kr (setF_keeps
    kr h2)) (startCheck_keeps kr (keeps_mk kr (setF_keeps kr h2) rfl rfl rfl rfl rfl rfl rfl rfl))) (assignRole_keeps
    kr h1))) (setF_keeps kr hx))

theorem epochStop_keeps {R dm hm s x} (kr : Closed R dm hm) (hx : Keeps R s x) :
    Keeps R s (epochStop x) := by
  unfold epochStop
  exact setF_keeps kr hx

theorem execClose_keeps {R dm hm s x} (kr : Closed R dm hm) (hx : Keeps R s x) :
    KeepsNext R s (execClose x) := by
  unfold execClose
  exact keepsNext_mk (every_ite (closeCommand_keeps kr hx) hx)

theorem execCloseInstant_keeps {R dm hm s x} (kr : Closed R dm hm) (hx : Keeps R s x) :
    KeepsNext R s (execCloseInstant x) := by
  unfold execCloseInstant
  exact keepsNext_mk (closeInstant_keeps kr hx)

theorem takeToken_keeps {R dm hm s x p} (kr : Closed R dm hm) (hx : Keeps R s x) :
    KeepsSomeSnd R s (takeToken x p) := by
  unfold takeToken
  exact (by
    try dsimp only
    split
    exact every_ite (keepsSomeSnd_mk (keepsSnd_mk (keeps_mk kr hx rfl rfl rfl rfl rfl rfl rfl rfl)))
      keepsSomeSnd_none
    exact keepsSomeSnd_none)

theorem startToken_keeps {R dm hm s x k} (kr : Closed R dm hm) (hx : Keeps R s x) :
    Keeps R s (startToken x k) := by
  unfold startToken
  exact every_ite hx (every_ite (every_ite (openFirst_keeps kr (tokenDown_keeps kr hx)) hx) (every_ite
    (startCheck_keeps kr (keeps_mk kr hx rfl rfl rfl rfl rfl rfl rfl rfl)) hx))

theorem execCommitStart_keeps {R dm hm s x} (kr : Closed R dm hm) (hx : Keeps R s x) :
    KeepsNext R s (execCommitStart x) := by
  unfold execCommitStart
  exact keepsNext_mk (by
    split
    exact startToken_keeps kr ((keeps_of_some_snd (takeToken_keeps kr hx) (by assumption)))
    exact hx)

theorem voteToken_keeps {R hm s x k} (kr : Closed R true hm) (hx : Keeps R s x) :
    Keeps R s (voteToken x k) := by
  unfold voteToken
  exact every_ite hx (every_ite (every_ite (closeEpoch_keeps kr (every_ite (tokenDown_keeps kr hx) hx)) (every_ite
    (every_ite (closeOrder_keeps kr hx) (tokenUp_keeps kr hx)) hx)) (every_ite (voteCheck_keeps kr (keeps_mk kr hx rfl
    rfl rfl rfl rfl rfl rfl rfl)) hx))

theorem execCommitVote_keeps {R hm s x} (kr : Closed R true hm) (hx : Keeps R s x) :
    KeepsNext R s (execCommitVote x) := by
  unfold execCommitVote
  exact keepsNext_mk (by
    split
    exact voteToken_keeps kr ((keeps_of_some_snd (takeToken_keeps kr hx) (by assumption)))
    exact hx)

theorem execDrainComplete_keeps {R hm s x} (kr : Closed R true hm) (hx : Keeps R s x) :
    KeepsNext R s (execDrainComplete x) := by
  unfold execDrainComplete
  exact keepsNext_mk (drainComplete_keeps kr hx)

theorem execEpochStart_keeps {R dm hm s x} (kr : Closed R dm hm) (hx : Keeps R s x) :
    KeepsNext R s (execEpochStart x) := by
  unfold execEpochStart
  exact keepsNext_mk (every_ite (epochStart_keeps kr hx) hx)

theorem execEpochStop_keeps {R dm hm s x} (kr : Closed R dm hm) (hx : Keeps R s x) :
    KeepsNext R s (execEpochStop x) := by
  unfold execEpochStop
  exact keepsNext_mk (every_ite (epochStop_keeps kr hx) hx)

theorem passRole_keeps {R dm hm s x} (kr : Closed R dm hm) (hx : Keeps R s x) :
    Keeps R s (passRole x) := by
  unfold passRole
  exact every_ite (assignRole_keeps kr hx) hx

end Sys2Proof.Machine
end

