-- ==== Sys2Proof/Laws/EngineCommonKept.lean ====
section
/-! SUPPORT. What the operations of Machine/EngineCommon.lean keep. -/

namespace Sys2Proof.Machine

open Sys2Proof

theorem engineTally_keeps {R dm hm s x slot kind count a b ident} (kr : Closed R dm hm) (hx : Keeps R s x) :
    Keeps R s (engineTally x slot kind count a b ident) := by
  unfold engineTally
  exact every_ite hx (tallyUpdate_keeps kr hx)

theorem startFront_keeps {R dm hm s x u} (kr : Closed R dm hm) (hx : Keeps R s x) :
    Keeps R s (startFront x u) := by
  unfold startFront
  exact setEng_keeps kr hx

theorem noteWait_keeps {R dm hm s x u attempt} (kr : Closed R dm hm) (hx : Keeps R s x) (hattempt : Keeps R s attempt) :
    Keeps R s (noteWait x u attempt) := by
  unfold noteWait
  exact setF_keeps kr (setF_keeps kr hx)

theorem engineWork_keeps {R hm s x u f} (kr : Closed R true hm) (hx : Keeps R s x) (hf : ∀ y0, Keeps R s y0 → Keeps R
  s (f y0)) :
    Keeps R s (engineWork x u f) := by
  unfold engineWork
  exact every_keep (fun h1 => every_keep (fun h2 => every_ite (noteWait_keeps kr (orWait_keeps kr h1 hf) h2)
    (setF_keeps kr h2)) (hf _ (keeps_mk kr h1 rfl rfl rfl rfl rfl rfl rfl rfl))) (startFront_keeps kr hx)

theorem finishFront_keeps {R dm hm s x u e} (kr : Closed R dm hm) (hx : Keeps R s x) :
    Keeps R s (finishFront x u e) := by
  unfold finishFront
  exact setEng_keeps kr hx

theorem finishBad_keeps {R dm hm s x u status detail flags} (kr : Closed R dm hm) (hx : Keeps R s x) :
    Keeps R s (finishBad x u status detail flags) := by
  unfold finishBad
  exact finishFront_keeps kr hx

theorem finishOk_keeps {R dm hm s x u flags} (kr : Closed R dm hm) (hx : Keeps R s x) :
    Keeps R s (finishOk x u flags) := by
  unfold finishOk
  exact finishFront_keeps kr hx

theorem runFront_keeps {R hm s x u op check f} (kr : Closed R true hm) (hx : Keeps R s x) (hf : ∀ y0 y1, Keeps R s y1
  → Keeps R s (f y0 y1)) :
    Keeps R s (runFront x u op check f) := by
  unfold runFront
  exact (by
    split
    exact hx
    exact (by
      split
      exact finishBad_keeps kr hx
      exact engineWork_keeps kr hx (fun _ h1 => hf _ _ h1)))

theorem undefinedOp_keeps {R dm hm s x u ops} (kr : Closed R dm hm) (hx : Keeps R s x) :
    Keeps R s (undefinedOp x u ops) := by
  unfold undefinedOp
  exact every_ite (by
    split
    exact every_ite (finishBad_keeps kr hx) hx
    exact hx) hx

end Sys2Proof.Machine
end

