-- ==== Sys2Proof/Laws/OperandsKept.lean ====
section
/-! SUPPORT. What the operations of Machine/Operands.lean keep. -/

namespace Sys2Proof.Machine

open Sys2Proof

theorem engineLoad_keeps {R dm hm s x u part a n} (kr : Closed R dm hm) (hx : Keeps R s x) :
    KeepsFst R s (engineLoad x u part a n) := by
  unfold engineLoad
  exact every_ite (keepsFst_mk hx) (loadFor_keeps kr hx)

theorem engineStore_keeps {R hm s x u part a data} (kr : Closed R true hm) (hx : Keeps R s x) :
    Keeps R s (engineStore x u part a data) := by
  unfold engineStore
  exact every_ite (tileWrite_keeps kr hx) (store_keeps kr hx)

end Sys2Proof.Machine
end

