-- ==== Sys2Proof/Laws/VectorsKept.lean ====
section
/-! SUPPORT. What the operations of Machine/Vectors.lean keep. -/

namespace Sys2Proof.Machine

open Sys2Proof

theorem accumulateAt_keeps {R hm s x who bank off float a5} (kr : Closed R true hm) (hx : Keeps R s x) :
    KeepsFst R s (accumulateAt x who bank off float a5) := by
  induction a5 generalizing x who bank off float with
  | nil => rw [accumulateAt]; exact keepsFst_mk hx
  | cons e t ih => rw [accumulateAt]; exact every_ite (keepsFst_mk (keeps_fst (ih (keeps_mk kr (putBytes_keeps kr hx)
    rfl rfl rfl rfl rfl rfl rfl rfl)))) (keepsFst_mk (noteBadMode_keeps kr hx))

theorem accumulateRow_keeps {R hm s x who addr float vs} (kr : Closed R true hm) (hx : Keeps R s x) :
    KeepsFst R s (accumulateRow x who addr float vs) := by
  unfold accumulateRow
  exact every_keep (fun h1 => every_ite (keepsFst_mk (bump64_keeps kr (keeps_fst h1))) h1) (accumulateAt_keeps kr hx)

theorem readRows_keeps {R dm hm s x u part base stride len a6} (kr : Closed R dm hm) (hx : Keeps R s x) :
    KeepsFst R s (readRows x u part base stride len a6) := by
  induction a6 generalizing x u part base stride len with
  | zero => rw [readRows]; exact keepsFst_mk hx
  | succ n ih => rw [readRows]; exact keepsFst_mk (keeps_fst (engineLoad_keeps kr (keeps_fst (ih hx))))

theorem tallyMax_keeps {R dm hm s x slot m} (kr : Closed R dm hm) (hx : Keeps R s x) :
    Keeps R s (tallyMax x slot m) := by
  unfold tallyMax
  exact (by
    split
    exact engineTally_keeps kr hx
    exact hx)

theorem writeRows_keeps {R hm s x u part base stride a5} (kr : Closed R true hm) (hx : Keeps R s x) :
    Keeps R s (writeRows x u part base stride a5) := by
  induction a5 generalizing x u part base stride with
  | nil => rw [writeRows]; exact hx
  | cons e t ih => rw [writeRows]; exact ih (engineStore_keeps kr hx)

end Sys2Proof.Machine
end

