-- ==== Sys2Proof/Laws/StacksKept.lean ====
section
/-! SUPPORT. What the operations of Machine/Stacks.lean keep. -/

namespace Sys2Proof.Machine

open Sys2Proof

theorem addFlags_keeps {R dm hm s x u f} (kr : Closed R dm hm) (hx : Keeps R s x) :
    Keeps R s (addFlags x u f) := by
  unfold addFlags
  exact (by
    try dsimp only
    split
    exact setEng_keeps kr hx
    exact (by
      split
      exact setEng_keeps kr hx
      exact setEng_keeps kr hx
      exact hx))

theorem accumulate_keeps {R hm s x bank off seq float values} (kr : Closed R true hm) (hx : Keeps R s x) :
    Keeps R s (accumulate x bank off seq float values) := by
  unfold accumulate
  exact (by
    split
    exact (by
      split
      exact every_ite (addFlags_keeps kr (keeps_fst (accumulateRow_keeps kr hx))) hx
      exact hx)
    exact hx)

theorem offerLine_keeps {R dm hm s x b l pathBusy} (kr : Closed R dm hm) (hx : Keeps R s x) :
    Keeps R s (offerLine x b l pathBusy) := by
  unfold offerLine
  exact (by
    split
    exact every_ite (bump_keeps kr hx) (bump_keeps kr (keeps_mk kr hx rfl rfl rfl rfl rfl rfl rfl rfl))
    exact bump_keeps kr hx)

theorem evict_keeps {R dm hm s x b victim pathBusy} (kr : Closed R dm hm) (hx : Keeps R s x) :
    Keeps R s (evict x b victim pathBusy) := by
  unfold evict
  exact (by
    try dsimp only
    split
    exact hx
    exact every_keep (fun h1 => every_ite (offerLine_keeps kr h1) h1) (setBank_keeps kr hx))

theorem allocLine_keeps {R dm hm s x b l victim pathBusy} (kr : Closed R dm hm) (hx : Keeps R s x) :
    Keeps R s (allocLine x b l victim pathBusy) := by
  unfold allocLine
  exact every_keep (fun h1 => every_ite h1 (setF_keeps kr (setBank_keeps kr h1))) (evict_keeps kr hx)

theorem noteSymbol_keeps {R dm hm s x st r symbol} (kr : Closed R dm hm) (hx : Keeps R s x) :
    Keeps R s (noteSymbol x st r symbol) := by
  unfold noteSymbol
  exact every_keep (fun h1 => every_ite (raiseErr_keeps kr h1) h1) (setStack_keeps kr hx)

theorem triggerRow_keeps {R dm hm s x st r} (kr : Closed R dm hm) (hx : Keeps R s x) :
    Keeps R s (triggerRow x st r) := by
  unfold triggerRow
  exact every_ite hx (setStack_keeps kr hx)

theorem countRow_keeps {R dm hm s x st r} (kr : Closed R dm hm) (hx : Keeps R s x) :
    Keeps R s (countRow x st r) := by
  unfold countRow
  exact every_keep (fun h1 => every_ite (triggerRow_keeps kr h1) h1) (setStack_keeps kr hx)

theorem applyEcc_keeps {R dm hm s x st off e} (kr : Closed R dm hm) (hx : Keeps R s x) :
    Keeps R s (applyEcc x st off e) := by
  unfold applyEcc
  exact (by
    split
    exact hx
    exact noteSymbol_keeps kr (countRow_keeps kr (noteCE_keeps kr hx))
    exact triggerRow_keeps kr (reportFault_keeps kr (noteUE_keeps kr (every_ite hx (keeps_mk kr hx rfl rfl rfl rfl rfl
      rfl rfl rfl)))))

theorem bankUE_keeps {R dm hm s x b inBuffer} (kr : Closed R dm hm) (hx : Keeps R s x) :
    Keeps R s (bankUE x b inBuffer) := by
  unfold bankUE
  exact every_ite (reportFault_keeps kr (raiseErr_keeps kr hx)) (reportFault_keeps kr (bump_keeps kr (raiseErr_keeps
    kr hx)))

theorem dropLine_keeps {R dm hm s x b addr} (kr : Closed R dm hm) (hx : Keeps R s x) :
    Keeps R s (dropLine x b addr) := by
  unfold dropLine
  exact every_ite (bump64_keeps kr (setBank_keeps kr hx)) hx

theorem memAccess_keeps {R hm s req x} (kr : Closed R true hm) (hx : Keeps R s x) :
    Keeps R s (memAccess req x) := by
  unfold memAccess
  exact every_ite (store_keeps kr hx) (every_keep (fun h1 => every_keep (fun h2 => every_ite (by
    split
    exact reportFault_keeps kr h2
    exact h2) h2) (keeps_mk kr (keeps_fst h1) rfl rfl rfl rfl rfl rfl rfl rfl)) (load_keeps kr hx))

theorem cacheAccess_keeps {R hm s x req ue} (kr : Closed R true hm) (hx : Keeps R s x) :
    Keeps R s (cacheAccess x req ue) := by
  unfold cacheAccess
  exact (by
    split
    exact (by
      split
      exact orWait_keeps kr (every_ite (dropLine_keeps kr hx) hx) (fun _ h1 => memAccess_keeps kr h1)
      exact hx)
    exact (by
      split
      exact orWait_keeps kr (every_ite (dropLine_keeps kr hx) hx) (fun _ h2 => memAccess_keeps kr h2)
      exact hx)
    exact hx)

theorem cacheFill_keeps {R dm hm s x addr victim pathBusy} (kr : Closed R dm hm) (hx : Keeps R s x) :
    Keeps R s (cacheFill x addr victim pathBusy) := by
  unfold cacheFill
  exact (by
    try dsimp only
    split
    exact every_ite (by
      split
      exact every_ite hx (allocLine_keeps kr hx)
      exact hx) hx
    exact (by
      split
      exact every_ite (every_ite hx (allocLine_keeps kr (setBank_keeps kr hx))) hx
      exact hx)
    exact hx)

theorem execAccumulate_keeps {R hm s bank offset seq float values x} (kr : Closed R true hm) (hx : Keeps R s x) :
    KeepsNext R s (execAccumulate bank offset seq float values x) := by
  unfold execAccumulate
  exact keepsNext_mk (accumulate_keeps kr hx)

theorem execCacheAccess_keeps {R hm s req ue x} (kr : Closed R true hm) (hx : Keeps R s x) :
    KeepsNext R s (execCacheAccess req ue x) := by
  unfold execCacheAccess
  exact keepsNext_mk (cacheAccess_keeps kr hx)

theorem execCacheFill_keeps {R dm hm s addr victim pathBusy x} (kr : Closed R dm hm) (hx : Keeps R s x) :
    KeepsNext R s (execCacheFill addr victim pathBusy x) := by
  unfold execCacheFill
  exact keepsNext_mk (cacheFill_keeps kr hx)

theorem invalidateDone_keeps {R dm hm s x b} (kr : Closed R dm hm) (hx : Keeps R s x) :
    Keeps R s (invalidateDone x b) := by
  unfold invalidateDone
  exact every_ite (raiseInt_keeps kr (setF_keeps kr (setBank_keeps kr hx))) hx

theorem execInvDone_keeps {R dm hm s bank x} (kr : Closed R dm hm) (hx : Keeps R s x) :
    KeepsNext R s (execInvDone bank x) := by
  unfold execInvDone
  exact keepsNext_mk (every_ite (invalidateDone_keeps kr hx) hx)

theorem invalidateStart_keeps {R dm hm s x b} (kr : Closed R dm hm) (hx : Keeps R s x) :
    Keeps R s (invalidateStart x b) := by
  unfold invalidateStart
  exact every_ite (raiseErr_keeps kr hx) (setF_keeps kr hx)

theorem execInvalidate_keeps {R dm hm s bank x} (kr : Closed R dm hm) (hx : Keeps R s x) :
    KeepsNext R s (execInvalidate bank x) := by
  unfold execInvalidate
  exact keepsNext_mk (every_ite (invalidateStart_keeps kr hx) hx)

theorem execMergeDrain_keeps {R hm s bank ue x} (kr : Closed R true hm) (hx : Keeps R s x) :
    KeepsNext R s (execMergeDrain bank ue x) := by
  unfold execMergeDrain
  exact keepsNext_mk (orWait_keeps kr hx (fun _ h1 => every_ite h1 (drainOldest_keeps kr (every_ite (bankUE_keeps kr
    h1) h1))))

theorem queueFlash_keeps {R dm hm s x type body} (kr : Closed R dm hm) (hx : Keeps R s x) :
    Keeps R s (queueFlash x type body) := by
  unfold queueFlash
  exact keeps_mk kr hx rfl rfl rfl rfl rfl rfl rfl rfl

theorem retirePage_keeps {R dm hm s st bank page x} (kr : Closed R dm hm) (hx : Keeps R s x) :
    Keeps R s (retirePage st bank page x) := by
  unfold retirePage
  exact every_ite (queueFlash_keeps kr (pushAer_keeps kr (pushErr_keeps kr (countRetired_keeps kr (setReg_keeps kr
    (setF_keeps kr (raiseErr_keeps kr (bump_keeps kr (setStack_keeps kr hx))))))))) (queueFlash_keeps kr
    (reportFault_keeps kr (pushAer_keeps kr (pushErr_keeps kr (setReg_keeps kr (raiseErr_keeps kr (setStack_keeps kr
    hx)))))))

theorem pageRetire_keeps {R dm hm s x st pages} (kr : Closed R dm hm) (hx : Keeps R s x) :
    Keeps R s (pageRetire x st pages) := by
  unfold pageRetire
  exact (by
    try dsimp only
    split
    exact hx
    exact every_ite hx (every_keep (fun h1 => setStack_keeps kr (every_foldOver _ h1 (fun _ _ h3 => retirePage_keeps
      kr h3))) (every_ite hx (bump_keeps kr (setStack_keeps kr hx)))))

theorem execPageRetire_keeps {R dm hm s stack pages x} (kr : Closed R dm hm) (hx : Keeps R s x) :
    KeepsNext R s (execPageRetire stack pages x) := by
  unfold execPageRetire
  exact keepsNext_mk (pageRetire_keeps kr hx)

theorem rowRemap_keeps {R dm hm s x st} (kr : Closed R dm hm) (hx : Keeps R s x) :
    Keeps R s (rowRemap x st) := by
  unfold rowRemap
  exact (by
    try dsimp only
    split
    exact hx
    exact every_ite (queueFlash_keeps kr (bump_keeps kr (raiseErr_keeps kr (setStack_keeps kr hx)))) hx)

theorem execRowRemap_keeps {R dm hm s stack x} (kr : Closed R dm hm) (hx : Keeps R s x) :
    KeepsNext R s (execRowRemap stack x) := by
  unfold execRowRemap
  exact keepsNext_mk (rowRemap_keeps kr hx)

theorem scrubRead_keeps {R dm hm s x st sector e} (kr : Closed R dm hm) (hx : Keeps R s x) :
    Keeps R s (scrubRead x st sector e) := by
  unfold scrubRead
  exact every_ite (by
    split
    exact every_ite (noteUE_keeps kr hx) hx
    exact applyEcc_keeps kr hx) hx

theorem execScrubRead_keeps {R dm hm s stack sector ecc x} (kr : Closed R dm hm) (hx : Keeps R s x) :
    KeepsNext R s (execScrubRead stack sector ecc x) := by
  unfold execScrubRead
  exact keepsNext_mk (scrubRead_keeps kr hx)

theorem stackAccess_keeps {R hm s x req e} (kr : Closed R true hm) (hx : Keeps R s x) :
    Keeps R s (stackAccess x req e) := by
  unfold stackAccess
  split
  · rename_i st off _
    refine every_ite hx (every_ite ?_ (orWait_keeps kr hx fun _ h => memAccess_keeps kr h))
    have h1 : Keeps R s (applyEcc x st off e) := applyEcc_keeps kr hx
    dsimp only
    generalize applyEcc x st off e = y at h1 ⊢
    refine every_ite (orWait_keeps kr h1 fun _ h => memAccess_keeps kr h) ?_
    split
    · have h2 := load_keeps kr (who := req.who) (part := req.part) (base := req.addr) (len := req.len) h1
      generalize load y req.who req.part req.addr req.len = r at h2 ⊢
      exact keeps_mk kr (keeps_fst h2) rfl rfl rfl rfl rfl rfl rfl rfl
    · exact orWait_keeps kr h1 fun _ h => memAccess_keeps kr h
  · exact memAccess_keeps kr hx
  · exact hx

theorem execStackAccess_keeps {R hm s req ecc x} (kr : Closed R true hm) (hx : Keeps R s x) :
    KeepsNext R s (execStackAccess req ecc x) := by
  unfold execStackAccess
  exact keepsNext_mk (stackAccess_keeps kr hx)

theorem vaultAccess_keeps {R hm s x req ue} (kr : Closed R true hm) (hx : Keeps R s x) :
    Keeps R s (vaultAccess x req ue) := by
  unfold vaultAccess
  exact (by
    split
    exact memAccess_keeps kr (every_ite (bankUE_keeps kr hx) hx)
    exact every_ite (memAccess_keeps kr hx) hx
    exact hx)

theorem execVaultAccess_keeps {R hm s req ue x} (kr : Closed R true hm) (hx : Keeps R s x) :
    KeepsNext R s (execVaultAccess req ue x) := by
  unfold execVaultAccess
  exact keepsNext_mk (vaultAccess_keeps kr hx)

end Sys2Proof.Machine
end

