-- ==== Sys2Proof/Laws/HostIfKept.lean ====
section
/-! SUPPORT. What the operations of Machine/HostIf.lean keep. -/

namespace Sys2Proof.Machine

open Sys2Proof

theorem cacheLine_keeps {R dm hm s x a} (kr : Closed R dm hm) (hx : Keeps R s x) :
    Keeps R s (cacheLine x a) := by
  unfold cacheLine
  exact keeps_mk kr hx rfl rfl rfl rfl rfl rfl rfl rfl

theorem clearPage_keeps {R dm hm s x u keep} (kr : Closed R dm hm) (hx : Keeps R s x) : Keeps R s (clearPage x u keep) :=
  keeps_iff.2 (kr.page s x u keep (keeps_iff.1 hx))

theorem coalesce_keeps {R dm hm s x n} (kr : Closed R dm hm) (hx : Keeps R s x) :
    Keeps R s (coalesce x n) := by
  unfold coalesce
  exact every_ite (setRing_keeps kr (timeUpTo_keeps kr hx)) hx

theorem dbRange_keeps {R dm hm s x n} (kr : Closed R dm hm) (hx : Keeps R s x) :
    Keeps R s (dbRange x n) := by
  unfold dbRange
  exact raiseErr_keeps kr (setRing_keeps kr hx)

theorem cqHeadWrite_keeps {R dm hm s x n v} (kr : Closed R dm hm) (hx : Keeps R s x) :
    Keeps R s (cqHeadWrite x n v) := by
  unfold cqHeadWrite
  exact every_ite hx (every_ite (setRing_keeps kr hx) (dbRange_keeps kr hx))

theorem setDecoder_keeps {R dm hm s x n d} (kr : Closed R dm hm) (hx : Keeps R s x) :
    Keeps R s (setDecoder x n d) := by
  unfold setDecoder
  exact keeps_mk kr hx rfl rfl rfl rfl rfl rfl rfl rfl

theorem decoderCommit_keeps {R dm hm s x n ways base size} (kr : Closed R dm hm) (hx : Keeps R s x) :
    Keeps R s (decoderCommit x n ways base size) := by
  unfold decoderCommit
  exact every_ite hx (every_ite (setDecoder_keeps kr hx) (setDecoder_keeps kr hx))

theorem drainCheck_keeps {R dm hm s n x} (kr : Closed R dm hm) (hx : Keeps R s x) :
    Keeps R s (drainCheck n x) := by
  unfold drainCheck
  exact every_ite (setRing_keeps kr hx) hx

theorem errFull_keeps {R dm hm s x} (kr : Closed R dm hm) (hx : Keeps R s x) :
    Keeps R s (errFull x) := by
  unfold errFull
  exact setF_keeps kr hx

theorem lostCheck_keeps {R dm hm s x} (kr : Closed R dm hm) (hx : Keeps R s x) :
    Keeps R s (lostCheck x) := by
  unfold lostCheck
  exact every_ite (keeps_mk kr hx rfl rfl rfl rfl rfl rfl rfl rfl) hx

theorem errHeadWrite_keeps {R dm hm s x mask v} (kr : Closed R dm hm) (hx : Keeps R s x) :
    Keeps R s (errHeadWrite x mask v) := by
  unfold errHeadWrite
  exact errFull_keeps kr (lostCheck_keeps kr (setReg_keeps kr hx))

theorem linkFault_keeps {R dm hm s x} (kr : Closed R dm hm) (hx : Keeps R s x) :
    Keeps R s (linkFault x) := by
  unfold linkFault
  exact raiseErr_keeps kr (bump64_keeps kr hx)

theorem writeRecord_keeps {R dm s x n ok} (kr : Closed R dm true) (hx : Keeps R s x) :
    Keeps R s (writeRecord x n ok) := by
  unfold writeRecord
  exact every_ite hx (by
    split
    exact hx
    exact every_keep (fun h1 => every_ite (bump64_keeps kr h1) (every_ite hx (every_ite (drainCheck_keeps kr
      (linkFault_keeps kr h1)) (setRing_keeps kr (bump64_keeps kr (hostWrite_keeps kr h1)))))) (keeps_mk kr hx rfl rfl
      rfl rfl rfl rfl rfl rfl))

theorem execCompletionRecord_keeps {R dm s ring linkOk x} (kr : Closed R dm true) (hx : Keeps R s x) :
    KeepsNext R s (execCompletionRecord ring linkOk x) := by
  unfold execCompletionRecord
  exact keepsNext_mk (every_ite (writeRecord_keeps kr hx) hx)

theorem execCqHead_keeps {R dm hm s ring head x} (kr : Closed R dm hm) (hx : Keeps R s x) :
    KeepsNext R s (execCqHead ring head x) := by
  unfold execCqHead
  exact keepsNext_mk (cqHeadWrite_keeps kr hx)

theorem hostLineRead_keeps {R hm s x a ecc} (kr : Closed R true hm) (hx : Keeps R s x) :
    Keeps R s (hostLineRead x a ecc) := by
  unfold hostLineRead
  exact every_ite (memAccess_keeps kr hx) (stackAccess_keeps kr hx)

theorem windowMiss_keeps {R dm hm s x a} (kr : Closed R dm hm) (hx : Keeps R s x) :
    Keeps R s (windowMiss x a) := by
  unfold windowMiss
  exact pushErr_keeps kr (noteUnmapped_keeps kr hx)

theorem windowRead_keeps {R hm s x hpa ecc} (kr : Closed R true hm) (hx : Keeps R s x) :
    Keeps R s (windowRead x hpa ecc) := by
  unfold windowRead
  exact (by
    split
    exact hx
    exact every_keep (fun h1 => every_ite (every_ite hx (every_keep (fun h2 => every_ite (pushErr_keeps kr
      (raiseErr_keeps kr h2)) h2) (hostLineRead_keeps kr h1))) (keeps_mk kr (windowMiss_keeps kr h1) rfl rfl rfl rfl
      rfl rfl rfl rfl)) (bump64_keeps kr hx))

theorem execCxlMemRead_keeps {R hm s hpa ecc x} (kr : Closed R true hm) (hx : Keeps R s x) :
    KeepsNext R s (execCxlMemRead hpa ecc x) := by
  unfold execCxlMemRead
  exact keepsNext_mk (windowRead_keeps kr hx)

theorem windowWrite_keeps {R hm s x hpa data} (kr : Closed R true hm) (hx : Keeps R s x) :
    Keeps R s (windowWrite x hpa data) := by
  unfold windowWrite
  exact (by
    split
    exact hx
    exact every_keep (fun h1 => every_ite (windowMiss_keeps kr h1) (every_ite (pushErr_keeps kr (raiseErr_keeps kr
      (setReg_keeps kr (bump64_keeps kr h1)))) (flushInvals_keeps kr (orWait_keeps kr hx (fun _ h3 => store_keeps kr
      (bump64_keeps kr h3)))))) (bump64_keeps kr hx))

theorem execCxlMemWrite_keeps {R hm s hpa data x} (kr : Closed R true hm) (hx : Keeps R s x) :
    KeepsNext R s (execCxlMemWrite hpa data x) := by
  unfold execCxlMemWrite
  exact keepsNext_mk (windowWrite_keeps kr hx)

theorem execDecoderCommit_keeps {R dm hm s n ways base size x} (kr : Closed R dm hm) (hx : Keeps R s x) :
    KeepsNext R s (execDecoderCommit n ways base size x) := by
  unfold execDecoderCommit
  exact keepsNext_mk (decoderCommit_keeps kr hx)

theorem ringFault_keeps {R dm hm s x n c} (kr : Closed R dm hm) (hx : Keeps R s x) :
    Keeps R s (ringFault x n c) := by
  unfold ringFault
  exact pushErr_keeps kr (raiseErr_keeps kr (setRing_keeps kr hx))

theorem fetchNext_keeps {R dm hm s x n linkError} (kr : Closed R dm hm) (hx : Keeps R s x) :
    Keeps R s (fetchNext x n linkError) := by
  unfold fetchNext
  exact every_ite (every_ite (ringFault_keeps kr hx) (bump64_keeps kr (setRing_keeps kr (cacheLine_keeps kr
    (cacheLine_keeps kr hx))))) hx

theorem execDescriptorFetch_keeps {R dm hm s ring linkError x} (kr : Closed R dm hm) (hx : Keeps R s x) :
    KeepsNext R s (execDescriptorFetch ring linkError x) := by
  unfold execDescriptorFetch
  exact keepsNext_mk (fetchNext_keeps kr hx)

theorem ringDone_keeps {R dm hm s x result} (kr : Closed R dm hm) (hx : Keeps R s x) :
    Keeps R s (ringDone x result) := by
  unfold ringDone
  exact setReg_keeps kr hx

theorem ringCommand_keeps {R dm hm s x op} (kr : Closed R dm hm) (hx : Keeps R s x) :
    Keeps R s (ringCommand x op) := by
  unfold ringCommand
  exact (by
    try dsimp only
    split
    exact ringDone_keeps kr (every_ite (setRing_keeps kr hx) hx)
    exact ringDone_keeps kr (every_ite (drainCheck_keeps kr (setRing_keeps kr hx)) hx)
    exact ringDone_keeps kr (keeps_fst (drawFree_keeps kr (keeps_fst (drawFree_keeps kr hx)))))

theorem execDisable_keeps {R dm hm s x} (kr : Closed R dm hm) (hx : Keeps R s x) :
    KeepsNext R s (execDisable x) := by
  unfold execDisable
  exact keepsNext_mk (every_ite (ringCommand_keeps kr hx) hx)

theorem execEnable_keeps {R dm hm s x} (kr : Closed R dm hm) (hx : Keeps R s x) :
    KeepsNext R s (execEnable x) := by
  unfold execEnable
  exact keepsNext_mk (every_ite (ringCommand_keeps kr hx) hx)

theorem execErrHead_keeps {R dm hm s head x} (kr : Closed R dm hm) (hx : Keeps R s x) :
    KeepsNext R s (execErrHead head x) := by
  unfold execErrHead
  exact keepsNext_mk (every_ite (errHeadWrite_keeps kr hx) hx)

theorem writeError_keeps {R dm s s0} (kr : Closed R dm true) (hs0 : Keeps R s s0) :
    Keeps R s (writeError s0) := by
  unfold writeError
  exact every_keep (fun h1 => (by
    try dsimp only
    split
    exact h1
    exact every_keep (fun h2 => every_ite (sendMsix_keeps kr (errFull_keeps kr (setReg_keeps kr (hostWrite_keeps kr
      h2)))) (errFull_keeps kr (raiseErr_keeps kr (bump64_keeps kr (keeps_mk kr h2 rfl rfl rfl rfl rfl rfl rfl
      rfl))))) (keeps_mk kr h1 rfl rfl rfl rfl rfl rfl rfl rfl))) (lostCheck_keeps kr hs0)

theorem execErrorRecord_keeps {R dm s x} (kr : Closed R dm true) (hx : Keeps R s x) :
    KeepsNext R s (execErrorRecord x) := by
  unfold execErrorRecord
  exact keepsNext_mk (writeError_keeps kr hx)

theorem resetHostIf_keeps {R dm hm s x msix} (kr : Closed R dm hm) (hx : Keeps R s x) :
    Keeps R s (resetHostIf x msix) := by
  unfold resetHostIf
  exact keeps_mk kr (clearPage_keeps kr hx) rfl rfl rfl rfl rfl rfl rfl rfl

theorem execFunctionLevelReset_keeps {R dm hm s x} (kr : Closed R dm hm) (hx : Keeps R s x) :
    KeepsNext R s (execFunctionLevelReset x) := by
  unfold execFunctionLevelReset
  exact keepsNext_mk (every_ite (resetHostIf_keeps kr hx) hx)

theorem ideStatus_keeps {R dm hm s x} (kr : Closed R dm hm) (hx : Keeps R s x) :
    Keeps R s (ideStatus x) := by
  unfold ideStatus
  exact setF_keeps kr hx

theorem ideFail_keeps {R dm hm s x mem} (kr : Closed R dm hm) (hx : Keeps R s x) :
    Keeps R s (ideFail x mem) := by
  unfold ideFail
  exact every_ite (pushAer_keeps kr (pushErr_keeps kr (raiseErr_keeps kr (ideStatus_keeps kr (keeps_mk kr hx rfl rfl
    rfl rfl rfl rfl rfl rfl))))) hx

theorem execIdeFail_keeps {R dm hm s mem x} (kr : Closed R dm hm) (hx : Keeps R s x) :
    KeepsNext R s (execIdeFail mem x) := by
  unfold execIdeFail
  exact keepsNext_mk (ideFail_keeps kr hx)

theorem msixUnmask_keeps {R dm hm s x v} (kr : Closed R dm hm) (hx : Keeps R s x) :
    Keeps R s (msixUnmask x v) := by
  unfold msixUnmask
  exact every_keep (fun h1 => every_ite (sendMsix_keeps kr (keeps_mk kr h1 rfl rfl rfl rfl rfl rfl rfl rfl)) h1)
    (keeps_mk kr hx rfl rfl rfl rfl rfl rfl rfl rfl)

theorem execMsixUnmask_keeps {R dm hm s vector x} (kr : Closed R dm hm) (hx : Keeps R s x) :
    KeepsNext R s (execMsixUnmask vector x) := by
  unfold execMsixUnmask
  exact keepsNext_mk (every_ite (msixUnmask_keeps kr hx) hx)

theorem execRingCoalesce_keeps {R dm hm s ring x} (kr : Closed R dm hm) (hx : Keeps R s x) :
    KeepsNext R s (execRingCoalesce ring x) := by
  unfold execRingCoalesce
  exact keepsNext_mk (coalesce_keeps kr hx)

theorem sqTailWrite_keeps {R dm hm s x n v} (kr : Closed R dm hm) (hx : Keeps R s x) :
    Keeps R s (sqTailWrite x n v) := by
  unfold sqTailWrite
  exact every_ite hx (every_ite (setRing_keeps kr hx) (dbRange_keeps kr hx))

theorem execSqTail_keeps {R dm hm s ring tail x} (kr : Closed R dm hm) (hx : Keeps R s x) :
    KeepsNext R s (execSqTail ring tail x) := by
  unfold execSqTail
  exact keepsNext_mk (sqTailWrite_keeps kr hx)

theorem writeLine_keeps {R dm s x n ok} (kr : Closed R dm true) (hx : Keeps R s x) :
    Keeps R s (writeLine x n ok) := by
  unfold writeLine
  exact every_ite (every_keep (fun h1 => every_keep (fun h2 => drainCheck_keeps kr (every_ite (sendMsix_keeps kr h2)
    h2)) (setRing_keeps kr h1)) (every_ite (hostWrite_keeps kr hx) (linkFault_keeps kr hx))) hx

theorem execStatusLineWrite_keeps {R dm s ring linkOk x} (kr : Closed R dm true) (hx : Keeps R s x) :
    KeepsNext R s (execStatusLineWrite ring linkOk x) := by
  unfold execStatusLineWrite
  exact keepsNext_mk (writeLine_keeps kr hx)

theorem snoopLine_keeps {R dm s x addr line} (kr : Closed R dm true) (hx : Keeps R s x) :
    Keeps R s (snoopLine x addr line) := by
  unfold snoopLine
  exact keeps_mk kr (hostWrite_keeps kr hx) rfl rfl rfl rfl rfl rfl rfl rfl

theorem execSubmissionLineSnoop_keeps {R dm s addr line x} (kr : Closed R dm true) (hx : Keeps R s x) :
    KeepsNext R s (execSubmissionLineSnoop addr line x) := by
  unfold execSubmissionLineSnoop
  exact keepsNext_mk (snoopLine_keeps kr hx)

theorem ringWrite_keeps {R dm hm s x off mask v} (kr : Closed R dm hm) (hx : Keeps R s x) :
    Keeps R s (ringWrite x off mask v) := by
  unfold ringWrite
  exact every_ite hx (by
    split
    exact setRing_keeps kr hx
    exact setRing_keeps kr hx
    exact setRing_keeps kr hx
    exact setRing_keeps kr hx
    exact setRing_keeps kr hx
    exact hx)

end Sys2Proof.Machine
end

