-- ==== Sys2Proof/Laws/LinksKept.lean ====
section
/-! SUPPORT. What the operations of Machine/Links.lean keep. -/

namespace Sys2Proof.Machine

open Sys2Proof

theorem stray_keeps {R dm hm s x q} (kr : Closed R dm hm) (hx : Keeps R s x) :
    Keeps R s (stray x q) := by
  unfold stray
  exact raiseErr_keeps kr (bump64_keeps kr hx)

theorem arriveWhole_keeps {R dm hm s x p m} (kr : Closed R dm hm) (hx : Keeps R s x) :
    Keeps R s (arriveWhole x p m) := by
  unfold arriveWhole
  exact every_ite (stray_keeps kr hx) (keeps_mk kr hx rfl rfl rfl rfl rfl rfl rfl rfl)

theorem setLink_keeps {R dm hm s x p v} (kr : Closed R dm hm) (hx : Keeps R s x) :
    Keeps R s (setLink x p v) := by
  unfold setLink
  exact setF_keeps kr hx

theorem setPort_keeps {R dm hm s x p x'} (kr : Closed R dm hm) (hx : Keeps R s x) :
    Keeps R s (setPort x p x') := by
  unfold setPort
  exact setF_keeps kr (keeps_mk kr hx rfl rfl rfl rfl rfl rfl rfl rfl)

theorem beginRetrain_keeps {R dm hm s x p} (kr : Closed R dm hm) (hx : Keeps R s x) :
    Keeps R s (beginRetrain x p) := by
  unfold beginRetrain
  exact setPort_keeps kr (raiseErr_keeps kr (bump_keeps kr (setLink_keeps kr hx)))

theorem commandRetrain_keeps {R dm hm s x p} (kr : Closed R dm hm) (hx : Keeps R s x) :
    Keeps R s (commandRetrain x p) := by
  unfold commandRetrain
  exact every_ite (beginRetrain_keeps kr (setPort_keeps kr hx)) hx

theorem startRetrain_keeps {R dm hm s x p} (kr : Closed R dm hm) (hx : Keeps R s x) :
    Keeps R s (startRetrain x p) := by
  unfold startRetrain
  exact every_ite (beginRetrain_keeps kr hx) hx

theorem laneFailed_keeps {R dm hm s x p l} (kr : Closed R dm hm) (hx : Keeps R s x) :
    Keeps R s (laneFailed x p l) := by
  unfold laneFailed
  exact every_ite (every_ite hx (every_ite (setPort_keeps kr hx) (startRetrain_keeps kr hx))) hx

theorem countFec_keeps {R dm hm s x p f} (kr : Closed R dm hm) (hx : Keeps R s x) :
    Keeps R s (countFec x p f) := by
  unfold countFec
  exact every_keep (fun h1 => every_keep (fun h2 => every_keep (fun h3 => every_foldOver _ h3 (fun _ _ h4 => every_ite
    (laneFailed_keeps kr h4) h4)) (setPort_keeps kr h2)) (every_ite h1 (raiseErr_keeps kr h1))) (bump_keeps kr
    (bump_keeps kr hx))

theorem countSer_keeps {R dm hm s x p lane n} (kr : Closed R dm hm) (hx : Keeps R s x) :
    Keeps R s (countSer x p lane n) := by
  unfold countSer
  exact every_ite (bump64_keeps kr hx) hx

theorem setNak_keeps {R dm hm s x p} (kr : Closed R dm hm) (hx : Keeps R s x) :
    Keeps R s (setNak x p) := by
  unfold setNak
  exact every_ite hx (bump_keeps kr (setPort_keeps kr hx))

theorem linkDown_keeps {R dm hm s x p} (kr : Closed R dm hm) (hx : Keeps R s x) :
    Keeps R s (linkDown x p) := by
  unfold linkDown
  exact every_ite (setLink_keeps kr hx) hx

theorem takeAck_keeps {R dm hm s x p ack} (kr : Closed R dm hm) (hx : Keeps R s x) :
    Keeps R s (takeAck x p ack) := by
  unfold takeAck
  exact every_ite (linkDown_keeps kr (setPort_keeps kr hx)) hx

theorem noteSlow_keeps {R dm hm s x dev factor} (kr : Closed R dm hm) (hx : Keeps R s x) :
    Keeps R s (noteSlow x dev factor) := by
  unfold noteSlow
  exact keeps_mk kr hx rfl rfl rfl rfl rfl rfl rfl rfl

theorem replay_keeps {R dm hm s x p} (kr : Closed R dm hm) (hx : Keeps R s x) :
    Keeps R s (replay x p) := by
  unfold replay
  exact every_ite hx (raiseErr_keeps kr (bump_keeps kr hx))

theorem takeHeader_keeps {R dm hm s x p h} (kr : Closed R dm hm) (hx : Keeps R s x) :
    Keeps R s (takeHeader x p h) := by
  unfold takeHeader
  exact every_keep (fun h1 => every_keep (fun h2 => every_keep (fun h3 => every_ite (replay_keeps kr h3) h3)
    (noteSlow_keeps kr h2)) (setPort_keeps kr h1)) (takeAck_keeps kr hx)

theorem takeCredits_keeps {R dm hm s x p h} (kr : Closed R dm hm) (hx : Keeps R s x) :
    Keeps R s (takeCredits x p h) := by
  unfold takeCredits
  exact setPort_keeps kr hx

theorem misroute_keeps {R dm hm s x} (kr : Closed R dm hm) (hx : Keeps R s x) :
    Keeps R s (misroute x) := by
  unfold misroute
  exact raiseErr_keeps kr (bump64_keeps kr hx)

theorem joinSeg_keeps {R dm hm s x p g} (kr : Closed R dm hm) (hx : Keeps R s x) :
    Keeps R s (joinSeg x p g) := by
  unfold joinSeg
  exact every_ite (arriveWhole_keeps kr (setPort_keeps kr hx)) (setPort_keeps kr hx)

theorem oweCredits_keeps {R dm hm s x p b n} (kr : Closed R dm hm) (hx : Keeps R s x) :
    Keeps R s (oweCredits x p b n) := by
  unfold oweCredits
  exact setPort_keeps kr hx

theorem routeSeg_keeps {R dm hm s x p g} (kr : Closed R dm hm) (hx : Keeps R s x) :
    Keeps R s (routeSeg x p g) := by
  unfold routeSeg
  exact (by
    try dsimp only
    split
    exact misroute_keeps kr hx
    exact every_ite (joinSeg_keeps kr (oweCredits_keeps kr hx)) (every_ite (misroute_keeps kr (oweCredits_keeps kr
      hx)) (keeps_mk kr hx rfl rfl rfl rfl rfl rfl rfl rfl)))

theorem parseUnits_keeps {R dm hm s p a1 x} (kr : Closed R dm hm) (hx : Keeps R s x) :
    Keeps R s (parseUnits p a1 x) := by
  induction a1 generalizing p x with
  | zero => rw [parseUnits]; exact hx
  | succ n ih => rw [parseUnits]; exact every_ite hx (every_ite (ih (setPort_keeps kr hx)) (every_ite hx (ih
    (routeSeg_keeps kr (setPort_keeps kr hx)))))

theorem dataFrame_keeps {R dm hm s x p f} (kr : Closed R dm hm) (hx : Keeps R s x) :
    Keeps R s (dataFrame x p f) := by
  unfold dataFrame
  exact every_ite (every_keep (fun h1 => every_ite (setNak_keeps kr (every_ite (raiseErr_keeps kr h1) h1)) (every_ite
    h1 (every_keep (fun h2 => every_ite (parseUnits_keeps kr (setPort_keeps kr (bump64_keeps kr (takeCredits_keeps kr
    (setPort_keeps kr h2))))) (every_ite (setNak_keeps kr h2) h2)) (takeHeader_keeps kr h1)))) (countFec_keeps kr hx))
    hx

theorem execDataFrame_keeps {R dm hm s port f x} (kr : Closed R dm hm) (hx : Keeps R s x) :
    KeepsNext R s (execDataFrame port f x) := by
  unfold execDataFrame
  exact keepsNext_mk (dataFrame_keeps kr hx)

theorem identityFrame_keeps {R dm hm s x p i} (kr : Closed R dm hm) (hx : Keeps R s x) :
    Keeps R s (identityFrame x p i) := by
  unfold identityFrame
  exact every_ite (every_ite (raiseErr_keeps kr (setLink_keeps kr hx)) (every_keep (fun h1 => every_ite
    (raiseInt_keeps kr (setPort_keeps kr (setLink_keeps kr h1))) (setPort_keeps kr h1)) (setReg_keeps kr hx))) hx

theorem execIdentityFrame_keeps {R dm hm s port i x} (kr : Closed R dm hm) (hx : Keeps R s x) :
    KeepsNext R s (execIdentityFrame port i x) := by
  unfold execIdentityFrame
  exact keepsNext_mk (identityFrame_keeps kr hx)

theorem idleFrame_keeps {R dm hm s x p f} (kr : Closed R dm hm) (hx : Keeps R s x) :
    Keeps R s (idleFrame x p f) := by
  unfold idleFrame
  exact every_ite (every_keep (fun h1 => every_ite (setNak_keeps kr (every_ite (raiseErr_keeps kr h1) h1)) (every_ite
    h1 (takeCredits_keeps kr (takeHeader_keeps kr h1)))) (countFec_keeps kr hx)) hx

theorem execIdleFrame_keeps {R dm hm s port f x} (kr : Closed R dm hm) (hx : Keeps R s x) :
    KeepsNext R s (execIdleFrame port f x) := by
  unfold execIdleFrame
  exact keepsNext_mk (idleFrame_keeps kr hx)

theorem laneRepaired_keeps {R dm hm s x p} (kr : Closed R dm hm) (hx : Keeps R s x) :
    Keeps R s (laneRepaired x p) := by
  unfold laneRepaired
  exact (by
    try dsimp only
    split
    exact every_ite (countRetired_keeps kr (raiseErr_keeps kr (setPort_keeps kr (setF_keeps kr (setF_keeps kr hx)))))
      hx
    exact hx)

theorem execLaneRepair_keeps {R dm hm s port x} (kr : Closed R dm hm) (hx : Keeps R s x) :
    KeepsNext R s (execLaneRepair port x) := by
  unfold execLaneRepair
  exact keepsNext_mk (laneRepaired_keeps kr hx)

theorem linkSilent_keeps {R dm hm s x p} (kr : Closed R dm hm) (hx : Keeps R s x) :
    Keeps R s (linkSilent x p) := by
  unfold linkSilent
  exact every_ite (beginRetrain_keeps kr (timeUpTo_keeps kr hx)) hx

theorem execLinkSilence_keeps {R dm hm s port x} (kr : Closed R dm hm) (hx : Keeps R s x) :
    KeepsNext R s (execLinkSilence port x) := by
  unfold execLinkSilence
  exact keepsNext_mk (linkSilent_keeps kr hx)

theorem failLink_keeps {R dm hm s x p fault} (kr : Closed R dm hm) (hx : Keeps R s x) :
    Keeps R s (failLink x p fault) := by
  unfold failLink
  exact every_keep (fun h1 => every_ite (reportFault_keeps kr h1) h1) (raiseErr_keeps kr (setLink_keeps kr hx))

theorem retrainFailed_keeps {R dm hm s x p} (kr : Closed R dm hm) (hx : Keeps R s x) :
    Keeps R s (retrainFailed x p) := by
  unfold retrainFailed
  exact every_keep (fun h1 => every_ite (failLink_keeps kr h1) (beginRetrain_keeps kr h1)) (setPort_keeps kr hx)

theorem trainLanes_keeps {R dm hm s x p lanes} (kr : Closed R dm hm) (hx : Keeps R s x) :
    Keeps R s (trainLanes x p lanes) := by
  unfold trainLanes
  exact every_ite (every_keep (fun h1 => every_ite (every_ite (failLink_keeps kr h1) (retrainFailed_keeps kr h1))
    (setPort_keeps kr (setF_keeps kr (setF_keeps kr (setF_keeps kr (setF_keeps kr h1)))))) (every_foldOver _ hx (fun _
    _ h4 => countSer_keeps kr h4))) hx

theorem execLinkTraining_keeps {R dm hm s port lanes x} (kr : Closed R dm hm) (hx : Keeps R s x) :
    KeepsNext R s (execLinkTraining port lanes x) := by
  unfold execLinkTraining
  exact keepsNext_mk (trainLanes_keeps kr hx)

theorem execLossOfDeskew_keeps {R dm hm s port x} (kr : Closed R dm hm) (hx : Keeps R s x) :
    KeepsNext R s (execLossOfDeskew port x) := by
  unfold execLossOfDeskew
  exact keepsNext_mk (startRetrain_keeps kr hx)

theorem execLossOfLock_keeps {R dm hm s port lane x} (kr : Closed R dm hm) (hx : Keeps R s x) :
    KeepsNext R s (execLossOfLock port lane x) := by
  unfold execLossOfLock
  exact keepsNext_mk (laneFailed_keeps kr hx)

theorem execRetrain_keeps {R dm hm s port x} (kr : Closed R dm hm) (hx : Keeps R s x) :
    KeepsNext R s (execRetrain port x) := by
  unfold execRetrain
  exact keepsNext_mk (every_ite (commandRetrain_keeps kr hx) hx)

theorem retrainEnd_keeps {R dm hm s x p ok} (kr : Closed R dm hm) (hx : Keeps R s x) :
    Keeps R s (retrainEnd x p ok) := by
  unfold retrainEnd
  exact every_ite (every_ite (every_ite (replay_keeps kr (raiseInt_keeps kr (setPort_keeps kr (setLink_keeps kr hx))))
    hx) (retrainFailed_keeps kr hx)) hx

theorem execRetrainingComplete_keeps {R dm hm s port ok x} (kr : Closed R dm hm) (hx : Keeps R s x) :
    KeepsNext R s (execRetrainingComplete port ok x) := by
  unfold execRetrainingComplete
  exact keepsNext_mk (retrainEnd_keeps kr hx)

theorem serWindow_keeps {R dm hm s x p lane m} (kr : Closed R dm hm) (hx : Keeps R s x) :
    Keeps R s (serWindow x p lane m) := by
  unfold serWindow
  exact every_ite (every_keep (fun h1 => every_ite h1 (every_ite (setF_keeps kr h1) (by
    split
    exact laneFailed_keeps kr h1
    exact h1))) (countSer_keeps kr hx)) hx

theorem execSerWindow_keeps {R dm hm s port lane m x} (kr : Closed R dm hm) (hx : Keeps R s x) :
    KeepsNext R s (execSerWindow port lane m x) := by
  unfold execSerWindow
  exact keepsNext_mk (serWindow_keeps kr hx)

theorem loadSeg_keeps {R dm hm s x p o} (kr : Closed R dm hm) (hx : Keeps R s x) :
    Keeps R s (loadSeg x p o) := by
  unfold loadSeg
  exact every_keep (fun h1 => every_keep (fun h2 => (by
    try dsimp only
    split
    exact oweCredits_keeps kr h2
    exact h2)) (keeps_mk kr h1 rfl rfl rfl rfl rfl rfl rfl rfl)) (setPort_keeps kr hx)

theorem fillFrame_keeps {R dm hm s p a1 x} (kr : Closed R dm hm) (hx : Keeps R s x) :
    Keeps R s (fillFrame p a1 x) := by
  induction a1 generalizing p x with
  | zero => rw [fillFrame]; exact hx
  | succ n ih => rw [fillFrame]; exact every_ite hx (by
    split
    exact ih (loadSeg_keeps kr hx)
    exact hx)

theorem releaseKeys_keeps {R dm hm s x} (kr : Closed R dm hm) (hx : Keeps R s x) :
    Keeps R s (releaseKeys x) := by
  unfold releaseKeys
  exact keeps_mk kr hx rfl rfl rfl rfl rfl rfl rfl rfl

theorem sendFrame_keeps {R dm hm s p x} (kr : Closed R dm hm) (hx : Keeps R s x) :
    Keeps R s (sendFrame p x) := by
  unfold sendFrame
  exact every_ite (every_keep (fun h1 => every_keep (fun h2 => every_ite (bump64_keeps kr (setPort_keeps kr h2))
    (bump64_keeps kr (setPort_keeps kr h2))) (every_ite h1 (setF_keeps kr h1))) (every_ite (fillFrame_keeps kr hx)
    hx)) hx

theorem sendFrames_keeps {R dm hm s x} (kr : Closed R dm hm) (hx : Keeps R s x) :
    Keeps R s (sendFrames x) := by
  unfold sendFrames
  exact releaseKeys_keeps kr (every_foldOver _ hx (fun _ _ h1 => sendFrame_keeps kr h1))

theorem startTraining_keeps {R dm hm s x p} (kr : Closed R dm hm) (hx : Keeps R s x) :
    Keeps R s (startTraining x p) := by
  unfold startTraining
  exact setPort_keeps kr (setLink_keeps kr (setF_keeps kr (setF_keeps kr hx)))

end Sys2Proof.Machine
end

