-- ==== Sys2Proof/Laws/AssayKept.lean ====
section
/-! SUPPORT. What the operations of Machine/Assay.lean keep. -/

namespace Sys2Proof.Machine

open Sys2Proof

theorem noteRefusal_keeps {R dm hm s x u reason} (kr : Closed R dm hm) (hx : Keeps R s x) :
    Keeps R s (noteRefusal x u reason) := by
  unfold noteRefusal
  exact setReg_keeps kr hx

theorem onDisable_keeps {R dm hm s u x} (kr : Closed R dm hm) (hx : Keeps R s x) :
    Keeps R s (onDisable u x) := by
  unfold onDisable
  exact (by
    split
    exact passRole_keeps kr (returnTills_keeps kr hx)
    exact setF_keeps kr hx
    exact linkDown_keeps kr hx
    exact setReg_keeps kr (setF_keeps kr hx)
    exact errFull_keeps kr hx
    exact every_ite (returnTills_keeps kr hx) hx)

theorem onEnable_keeps {R dm hm s u x} (kr : Closed R dm hm) (hx : Keeps R s x) :
    Keeps R s (onEnable u x) := by
  unfold onEnable
  exact (by
    split
    exact passRole_keeps kr hx
    exact setF_keeps kr hx
    exact startTraining_keeps kr hx
    exact setReg_keeps kr (setReg_keeps kr (setF_keeps kr hx))
    exact errFull_keeps kr (lostCheck_keeps kr hx)
    exact syncStart_keeps kr hx
    exact hx)

theorem finishCheck_keeps {R dm hm s x u} (kr : Closed R dm hm) (hx : Keeps R s x) :
    Keeps R s (finishCheck x u) := by
  unfold finishCheck
  exact every_keep (fun h1 => (by
    try dsimp only
    split
    exact noteRefusal_keeps kr (raiseInt_keeps kr (raiseInt_keeps kr h1))
    exact every_ite (onDisable_keeps kr (raiseInt_keeps kr (setF_keeps kr h1))) (onEnable_keeps kr (raiseInt_keeps kr
      (setF_keeps kr h1))))) (setReg_keeps kr (setF_keeps kr (keeps_mk kr hx rfl rfl rfl rfl rfl rfl rfl rfl)))

theorem assayDone_keeps {R dm hm s x u} (kr : Closed R dm hm) (hx : Keeps R s x) :
    Keeps R s (assayDone x u) := by
  unfold assayDone
  exact every_ite (every_ite (finishCheck_keeps kr hx) hx) (every_ite (noteRefusal_keeps kr (keeps_mk kr hx rfl rfl
    rfl rfl rfl rfl rfl rfl)) hx)

theorem clearTile_keeps {R hm s x u off n} (kr : Closed R true hm) (hx : Keeps R s x) : Keeps R s (clearTile x u off n) :=
  keeps_iff.2 (kr.clear rfl s x _ _ (keeps_iff.1 hx))

theorem resetStart_keeps {R dm hm s x u} (kr : Closed R dm hm) (hx : Keeps R s x) :
    Keeps R s (resetStart x u) := by
  unfold resetStart
  exact every_ite (raiseErr_keeps kr hx) (setF_keeps kr (setInt_keeps kr hx))

theorem startCheckOn_keeps {R dm hm s x u disable} (kr : Closed R dm hm) (hx : Keeps R s x) :
    Keeps R s (startCheckOn x u disable) := by
  unfold startCheckOn
  exact every_keep (fun h1 => every_ite (keeps_mk kr h1 rfl rfl rfl rfl rfl rfl rfl rfl) h1) (setF_keeps kr hx)

theorem ctrlWrite_keeps {R dm hm s x u reset enable} (kr : Closed R dm hm) (hx : Keeps R s x) :
    Keeps R s (ctrlWrite x u reset enable) := by
  unfold ctrlWrite
  exact every_ite (every_ite (keeps_mk kr hx rfl rfl rfl rfl rfl rfl rfl rfl) hx) (every_ite hx (every_ite
    (raiseErr_keeps kr hx) (every_ite (resetStart_keeps kr hx) (every_ite hx (startCheckOn_keeps kr hx)))))

theorem execAssay_keeps {R dm hm s u x} (kr : Closed R dm hm) (hx : Keeps R s x) :
    KeepsNext R s (execAssay u x) := by
  unfold execAssay
  exact keepsNext_mk (every_ite (ctrlWrite_keeps kr hx) hx)

theorem execAssayDone_keeps {R dm hm s u x} (kr : Closed R dm hm) (hx : Keeps R s x) :
    KeepsNext R s (execAssayDone u x) := by
  unfold execAssayDone
  exact keepsNext_mk (assayDone_keeps kr hx)

theorem execDisableCheck_keeps {R dm hm s u x} (kr : Closed R dm hm) (hx : Keeps R s x) :
    KeepsNext R s (execDisableCheck u x) := by
  unfold execDisableCheck
  exact keepsNext_mk (every_ite (ctrlWrite_keeps kr hx) hx)

theorem execReset_keeps {R dm hm s u x} (kr : Closed R dm hm) (hx : Keeps R s x) :
    KeepsNext R s (execReset u x) := by
  unfold execReset
  exact keepsNext_mk (every_ite (ctrlWrite_keeps kr hx) hx)

theorem resetEngine_keeps {R hm s x u} (kr : Closed R true hm) (hx : Keeps R s x) :
    Keeps R s (resetEngine x u) := by
  unfold resetEngine
  exact every_keep (fun h1 => (by
    try dsimp only
    split
    exact clearTile_keeps kr h1
    exact clearTile_keeps kr (every_ite (clearTile_keeps kr h1) h1)
    exact h1)) (setEng_keeps kr hx)

theorem keepLines_keeps {R dm hm s a0 x} (kr : Closed R dm hm) (hx : Keeps R s x) :
    KeepsFst R s (keepLines a0 x) := by
  induction a0 generalizing x with
  | nil => rw [keepLines]; exact keepsFst_mk hx
  | cons e t ih => rw [keepLines]; exact keepsFst_mk (keeps_fst (ih (keeps_fst (drawFree_keeps kr hx))))

theorem resetBank_keeps {R dm hm s before x u} (kr : Closed R dm hm) (hbefore : Keeps R s before) (hx : Keeps R s x) :
    Keeps R s (resetBank before x u) := by
  unfold resetBank
  exact every_ite (setF_keeps kr (setBank_keeps kr (keeps_fst (keepLines_keeps kr hx)))) (setF_keeps kr hx)

theorem resetInside_keeps {R hm s before u x} (kr : Closed R true hm) (hbefore : Keeps R s before) (hx : Keeps R s x) :
    Keeps R s (resetInside before u x) := by
  unfold resetInside
  exact (by
    split
    exact resetEngine_keeps kr (setReg_keeps kr hx)
    exact resetEngine_keeps kr hx
    exact resetEngine_keeps kr hx
    exact resetEngine_keeps kr hx
    exact resetEngine_keeps kr hx
    exact resetEngine_keeps kr hx
    exact resetEngine_keeps kr hx
    exact resetEngine_keeps kr hx
    exact resetBank_keeps kr hbefore hx
    exact setPort_keeps kr hx
    exact ideStatus_keeps kr (resetHostIf_keeps kr hx)
    exact keeps_mk kr hx rfl rfl rfl rfl rfl rfl rfl rfl
    exact flushReplicas_keeps kr (setReg_keeps kr hx)
    exact keeps_mk kr hx rfl rfl rfl rfl rfl rfl rfl rfl
    exact hx)

theorem resetComplete_keeps {R hm s x u} (kr : Closed R true hm) (hx : Keeps R s x) :
    Keeps R s (resetComplete x u) := by
  unfold resetComplete
  exact every_ite (every_keep (fun h1 => every_ite (setF_keeps kr h1) h1) (resetInside_keeps kr hx (clearPage_keeps kr
    hx))) hx

theorem execResetComplete_keeps {R hm s u x} (kr : Closed R true hm) (hx : Keeps R s x) :
    KeepsNext R s (execResetComplete u x) := by
  unfold execResetComplete
  exact keepsNext_mk (resetComplete_keeps kr hx)

end Sys2Proof.Machine
end

