-- ==== Sys2Proof/Laws/FlashKept.lean ====
section
/-! SUPPORT. What the operations of Machine/Flash.lean keep. -/

namespace Sys2Proof.Machine

open Sys2Proof

theorem setHalf_keeps {R dm hm s x half l} (kr : Closed R dm hm) (hx : Keeps R s x) :
    Keeps R s (setHalf x half l) := by
  unfold setHalf
  exact every_ite (keeps_mk kr hx rfl rfl rfl rfl rfl rfl rfl rfl) (keeps_mk kr hx rfl rfl rfl rfl rfl rfl rfl rfl)

theorem noteStore_keeps {R dm hm s x seq} (kr : Closed R dm hm) (hx : Keeps R s x) :
    Keeps R s (noteStore x seq) := by
  unfold noteStore
  exact setF_keeps kr (setReg_keeps kr hx)

theorem appendRecord_keeps {R dm hm s x type body torn} (kr : Closed R dm hm) (hx : Keeps R s x) :
    Keeps R s (appendRecord x type body torn) := by
  unfold appendRecord
  exact noteStore_keeps kr (setHalf_keeps kr hx)

theorem compact_keeps {R dm hm s x} (kr : Closed R dm hm) (hx : Keeps R s x) :
    Keeps R s (compact x) := by
  unfold compact
  exact every_keep (fun h1 => every_keep (fun h2 => every_keep (fun h3 => setHalf_keeps kr (appendRecord_keeps kr
    (every_foldOver _ h3 (fun _ _ h5 => appendRecord_keeps kr h5)))) (appendRecord_keeps kr h2)) (keeps_mk kr h1 rfl
    rfl rfl rfl rfl rfl rfl rfl)) (setHalf_keeps kr hx)

theorem flashSet_keeps {R dm hm s x a b} (kr : Closed R dm hm) (hx : Keeps R s x) :
    Keeps R s (flashSet x a b) := by
  unfold flashSet
  exact keeps_mk kr hx rfl rfl rfl rfl rfl rfl rfl rfl

theorem flashPut_keeps {R dm hm s x a a2} (kr : Closed R dm hm) (hx : Keeps R s x) :
    Keeps R s (flashPut x a a2) := by
  induction a2 generalizing x a with
  | nil => rw [flashPut]; exact hx
  | cons e t ih => rw [flashPut]; exact ih (flashSet_keeps kr hx)

theorem flashErase_keeps {R dm hm s x a n} (kr : Closed R dm hm) (hx : Keeps R s x) :
    Keeps R s (flashErase x a n) := by
  unfold flashErase
  exact flashPut_keeps kr hx

theorem putRecord_keeps {R dm hm s x type body torn} (kr : Closed R dm hm) (hx : Keeps R s x) :
    Keeps R s (putRecord x type body torn) := by
  unfold putRecord
  exact every_ite (raiseErr_keeps kr (bump_keeps kr hx)) (every_keep (fun h1 => every_ite (appendRecord_keeps kr h1)
    h1) (every_ite (compact_keeps kr hx) hx))

theorem logFailure_keeps {R dm hm s x reason detail} (kr : Closed R dm hm) (hx : Keeps R s x) :
    Keeps R s (logFailure x reason detail) := by
  unfold logFailure
  exact setF_keeps kr (setF_keeps kr (keeps_mk kr (putRecord_keeps kr hx) rfl rfl rfl rfl rfl rfl rfl rfl))

theorem noteBoot_keeps {R dm hm s x rs} (kr : Closed R dm hm) (hx : Keeps R s x) :
    Keeps R s (noteBoot x rs) := by
  unfold noteBoot
  exact every_keep (fun h1 => (by
    try dsimp only
    split
    exact h1
    exact setReg_keeps kr (setF_keeps kr (setF_keeps kr h1)))) (setF_keeps kr hx)

theorem replayStore_keeps {R dm hm s x} (kr : Closed R dm hm) (hx : Keeps R s x) :
    Keeps R s (replayStore x) := by
  unfold replayStore
  exact every_keep (fun h1 => every_keep (fun h2 => every_keep (fun h3 => every_ite h3 (raiseErr_keeps kr h3))
    (noteBoot_keeps kr (setF_keeps kr (noteStore_keeps kr h2)))) (keeps_mk kr h1 rfl rfl rfl rfl rfl rfl rfl rfl))
    (every_ite (setHalf_keeps kr hx) hx)

theorem writeCount_keeps {R dm hm s x c} (kr : Closed R dm hm) (hx : Keeps R s x) :
    Keeps R s (writeCount x c) := by
  unfold writeCount
  exact setF_keeps kr (setF_keeps kr (keeps_mk kr (putRecord_keeps kr hx) rfl rfl rfl rfl rfl rfl rfl rfl))

end Sys2Proof.Machine
end

