-- ==== Sys2Proof/Laws/GatherKept.lean ====
section
/-! SUPPORT. What the operations of Machine/Gather.lean keep. -/

namespace Sys2Proof.Machine

open Sys2Proof

theorem addPartial_keeps {R hm s x u part v slot acc} (kr : Closed R true hm) (hx : Keeps R s x) :
    KeepsFst R s (addPartial x u part v slot acc) := by
  unfold addPartial
  exact every_ite (keepsFst_mk (store_keeps kr (keeps_fst (load_keeps kr hx)))) (accumulateRow_keeps kr hx)

theorem segmentOf_keeps {R dm hm s x u t k} (kr : Closed R dm hm) (hx : Keeps R s x) :
    KeepsFst R s (segmentOf x u t k) := by
  unfold segmentOf
  exact every_ite (keepsFst_mk (keeps_fst (loadFor_keeps kr hx))) (keepsFst_mk hx)

theorem allPositions_keeps {R dm hm s x u t} (kr : Closed R dm hm) (hx : Keeps R s x) :
    KeepsFst R s (allPositions x u t) := by
  unfold allPositions
  exact every_foldl _ (keepsFst_mk hx) (fun _ _ h1 => keepsFst_mk (keeps_fst (segmentOf_keeps kr (keeps_fst h1))))

theorem mapGeRun_keeps {R dm hm s x u f} (kr : Closed R dm hm) (hx : Keeps R s x) :
    Keeps R s (mapGeRun x u f) := by
  unfold mapGeRun
  exact (by
    split
    exact setEng_keeps kr hx
    exact hx)

theorem splitSegment_keeps {R dm hm s x ge t r start stop T slot} (kr : Closed R dm hm) (hx : Keeps R s x) :
    Keeps R s (splitSegment x ge t r start stop T slot) := by
  unfold splitSegment
  exact mapGeRun_keeps kr (bump_keeps kr (keeps_mk kr hx rfl rfl rfl rfl rfl rfl rfl rfl))

theorem beginSegment_keeps {R hm s x ge t r} (kr : Closed R true hm) (hx : Keeps R s x) :
    KeepsSome R s (beginSegment x ge t r) := by
  unfold beginSegment
  exact every_keep (fun h1 => every_ite (keepsSome_mk (mapGeRun_keeps kr (every_ite (store_keeps kr (keeps_fst h1))
    (keeps_fst h1)))) (every_ite (every_ite (keepsSome_map (fun _ => splitSegment_keeps kr (keeps_mk kr (store_keeps
    kr (keeps_fst h1)) rfl rfl rfl rfl rfl rfl rfl rfl))) (keepsSome_mk (splitSegment_keeps kr (keeps_fst h1))))
    (keepsSome_mk (mapGeRun_keeps kr (keeps_fst h1))))) (segmentOf_keeps kr hx)

theorem writePooled_keeps {R hm s x u t v seg count acc} (kr : Closed R true hm) (hx : Keeps R s x) :
    KeepsFst R s (writePooled x u t v seg count acc) := by
  unfold writePooled
  exact keepsFst_mk (store_keeps kr hx)

theorem slotSums_keeps {R dm hm s x u part v slot} (kr : Closed R dm hm) (hx : Keeps R s x) :
    KeepsFst R s (slotSums x u part v slot) := by
  unfold slotSums
  exact every_ite (keepsFst_mk (keeps_fst (load_keeps kr hx))) (keepsFst_mk (keeps_fst (load_keeps kr hx)))

theorem decrementSlot_keeps {R hm s x u t j slot} (kr : Closed R true hm) (hx : Keeps R s x) :
    Keeps R s (decrementSlot x u t j slot) := by
  unfold decrementSlot
  exact every_keep (fun h1 => every_keep (fun h2 => every_ite (keeps_mk kr (mapGeRun_keeps kr (keeps_fst
    (writePooled_keeps kr (keeps_fst (slotSums_keeps kr h2))))) rfl rfl rfl rfl rfl rfl rfl rfl) h2) (store_keeps kr
    (keeps_fst h1))) (load_keeps kr hx)

theorem closeJob_keeps {R hm s x u t j} (kr : Closed R true hm) (hx : Keeps R s x) :
    KeepsFst R s (closeJob x u t j) := by
  unfold closeJob
  exact every_ite (by
    split
    exact keepsFst_mk (mapGeRun_keeps kr (keeps_fst (writePooled_keeps kr hx)))
    exact every_ite (keepsFst_mk (decrementSlot_keeps kr hx)) (keepsFst_mk (mapGeRun_keeps kr (keeps_fst
      (addPartial_keeps kr hx))))) (keepsFst_mk hx)

theorem readRow_keeps {R dm hm s x u part base n} (kr : Closed R dm hm) (hx : Keeps R s x) :
    KeepsFst R s (readRow x u part base n) := by
  unfold readRow
  exact every_foldl _ (keepsFst_mk hx) (fun _ _ h1 => (by
    try dsimp only
    split
    exact keepsFst_mk (countHit_keeps kr (keeps_fst (load_keeps kr (keeps_fst h1))))
    exact keepsFst_mk (countLoad_keeps kr (keeps_fst (remoteRead_keeps kr (keeps_fst h1))))
    exact keepsFst_mk (keeps_fst (loadFor_keeps kr (keeps_fst h1)))))

theorem forgetRow_keeps {R dm hm s x u base n} (kr : Closed R dm hm) (hx : Keeps R s x) :
    Keeps R s (forgetRow x u base n) := by
  unfold forgetRow
  exact keeps_mk kr hx rfl rfl rfl rfl rfl rfl rfl rfl

theorem defaultRow_keeps {R dm hm s x u t v owner} (kr : Closed R dm hm) (hx : Keeps R s x) :
    KeepsFst R s (defaultRow x u t v owner) := by
  unfold defaultRow
  exact (by
    split
    exact keepsFst_mk hx
    exact (by
      split
      exact keepsFst_mk hx
      exact every_keep (fun h1 => keepsFst_mk (every_ite (keeps_fst h1) (mapGeRun_keeps kr (forgetRow_keeps kr
        (keeps_fst h1))))) (readRow_keeps kr hx)))

theorem deliver_keeps {R hm s x u t v j row} (kr : Closed R true hm) (hx : Keeps R s x) :
    KeepsFst R s (deliver x u t v j row) := by
  unfold deliver
  exact every_ite (keepsFst_mk (mapGeRun_keeps kr hx)) (keepsFst_mk (store_keeps kr hx))

theorem dropFragment_keeps {R dm hm s x ge} (kr : Closed R dm hm) (hx : Keeps R s x) :
    Keeps R s (dropFragment x ge) := by
  unfold dropFragment
  exact setF_keeps kr (setEng_keeps kr hx)

theorem entryHeader_keeps {R dm hm s x u t v e} (kr : Closed R dm hm) (hx : Keeps R s x) :
    KeepsFst R s (entryHeader x u t v e) := by
  unfold entryHeader
  exact keepsFst_mk (keeps_fst (load_keeps kr hx))

theorem geGo_keeps {R hm s x u f} (kr : Closed R true hm) (hx : Keeps R s x) (hf : ∀ y0, Keeps R s y0 → KeepsSome R s
  (f y0)) :
    KeepsFst R s (geGo x u f) := by
  unfold geGo
  exact (by
    split
    exact keepsFst_mk hx
    exact every_ite (keepsFst_mk (noteWait_keeps kr (orWait_keeps kr hx (fun _ h1 => keeps_getD (hf _ h1) h1))
      ((keeps_of_some (hf _ (keeps_mk kr hx rfl rfl rfl rfl rfl rfl rfl rfl)) (by assumption))))) (keepsFst_mk
      (setF_keeps kr ((keeps_of_some (hf _ (keeps_mk kr hx rfl rfl rfl rfl rfl rfl rfl rfl)) (by assumption))))))

theorem fragmentDone_keeps {R dm hm s x j} (kr : Closed R dm hm) (hx : Keeps R s x) :
    Keeps R s (fragmentDone x j) := by
  unfold fragmentDone
  exact every_ite (mapGeRun_keeps kr hx) hx

theorem indexAt_keeps {R dm hm s x u t p} (kr : Closed R dm hm) (hx : Keeps R s x) :
    KeepsFst R s (indexAt x u t p) := by
  unfold indexAt
  exact loadLE_keeps kr hx

theorem substitute_keeps {R hm s x u t v j f} (kr : Closed R true hm) (hx : Keeps R s x) :
    KeepsFst R s (substitute x u t v j f) := by
  unfold substitute
  exact deliver_keeps kr (mapGeRun_keeps kr (bump64_keeps kr (keeps_fst (defaultRow_keeps kr hx))))

theorem fetchRow_keeps {R dm hm s x u t v i} (kr : Closed R dm hm) (hx : Keeps R s x) :
    KeepsFst R s (fetchRow x u t v i) := by
  unfold fetchRow
  exact every_ite (keepsFst_mk (forgetRow_keeps kr hx)) (every_keep (fun h1 => keepsFst_mk (every_ite (keeps_fst h1)
    (forgetRow_keeps kr (every_ite (countRequest_keeps kr (bump64_keeps kr (keeps_fst h1))) (bump64_keeps kr
    (bump64_keeps kr (keeps_fst h1))))))) (readRow_keeps kr hx))

theorem fetchPlain_keeps {R hm s x u t v j i f} (kr : Closed R true hm) (hx : Keeps R s x) :
    KeepsFst R s (fetchPlain x u t v j i f) := by
  unfold fetchPlain
  exact every_keep (fun h1 => (by
    try dsimp only
    split
    exact deliver_keeps kr (mapGeRun_keeps kr (keeps_fst h1))
    exact substitute_keeps kr (keeps_fst h1))) (fetchRow_keeps kr hx)

theorem useEntry_keeps {R hm s x u t v j e st f} (kr : Closed R true hm) (hx : Keeps R s x) :
    KeepsFst R s (useEntry x u t v j e st f) := by
  unfold useEntry
  exact every_ite (deliver_keeps kr (mapGeRun_keeps kr (bump64_keeps kr (keeps_fst (load_keeps kr hx)))))
    (substitute_keeps kr hx)

theorem probe_keeps {R hm s x u t v j i} (kr : Closed R true hm) (hx : Keeps R s x) :
    KeepsFst R s (probe x u t v j i) := by
  unfold probe
  exact (by
    try dsimp only
    split
    exact keepsFst_mk (mapGeRun_keeps kr hx)
    exact every_keep (fun h1 => every_keep (fun h2 => every_ite (keepsFst_mk (mapGeRun_keeps kr h2)) (useEntry_keeps
      kr h2)) (store_keeps kr (keeps_fst h1))) (entryHeader_keeps kr hx)
    exact keepsFst_mk (mapGeRun_keeps kr (store_keeps kr hx)))

theorem setEntryState_keeps {R hm s x u t v e st} (kr : Closed R true hm) (hx : Keeps R s x) :
    Keeps R s (setEntryState x u t v e st) := by
  unfold setEntryState
  exact store_keeps kr hx

theorem fillEntry_keeps {R hm s x u t v j i e} (kr : Closed R true hm) (hx : Keeps R s x) :
    KeepsFst R s (fillEntry x u t v j i e) := by
  unfold fillEntry
  exact every_keep (fun h1 => (by
    try dsimp only
    split
    exact deliver_keeps kr (mapGeRun_keeps kr (setEntryState_keeps kr (store_keeps kr (keeps_fst h1))))
    exact substitute_keeps kr (setEntryState_keeps kr (keeps_fst h1)))) (fetchRow_keeps kr hx)

theorem stepPosition_keeps {R hm s x u t j} (kr : Closed R true hm) (hx : Keeps R s x) :
    KeepsSomeFst R s (stepPosition x u t j) := by
  unfold stepPosition
  exact every_keep (fun h1 => (by
    try dsimp only
    split
    exact every_ite (keepsSomeFst_mk (substitute_keeps kr (keeps_fst h1))) (every_ite (keepsSomeFst_mk
      (fetchPlain_keeps kr (keeps_fst h1))) (keepsSomeFst_mk (probe_keeps kr (keeps_fst h1))))
    exact keepsSomeFst_mk (fetchPlain_keeps kr (keeps_fst h1))
    exact keepsSomeFst_mk (fillEntry_keeps kr (keeps_fst h1))
    exact every_ite keepsSomeFst_none (keepsSomeFst_mk (useEntry_keeps kr (keeps_fst (entryHeader_keeps kr (keeps_fst
      h1)))))
    exact keepsSomeFst_none)) (indexAt_keeps kr hx)

theorem stepJob_keeps {R hm s x u t j} (kr : Closed R true hm) (hx : Keeps R s x) :
    KeepsSomeFst R s (stepJob x u t j) := by
  unfold stepJob
  exact every_ite (keepsSomeFst_map' (stepPosition_keeps kr hx) (fun _ h1 => keepsFst_mk (keeps_fst h1)))
    (keepsSomeFst_mk (closeJob_keeps kr hx))

theorem fragLoop_keeps {R hm s ge a1 x} (kr : Closed R true hm) (hx : Keeps R s x) :
    Keeps R s (fragLoop ge a1 x) := by
  induction a1 generalizing ge x with
  | zero => rw [fragLoop]; exact hx
  | succ n ih => rw [fragLoop]; exact (by
    split
    exact hx
    exact (by
      split
      exact dropFragment_keeps kr hx
      exact every_keep (fun h1 => every_ite (ih (keeps_fst h1)) (keeps_fst h1)) (geGo_keeps kr hx (fun _ h2 =>
        keepsSome_map' (stepJob_keeps kr h2) (fun _ h3 => (by
        split
        exact setEng_keeps kr (keeps_fst h3)
        exact dropFragment_keeps kr (fragmentDone_keeps kr (keeps_fst h3))))))))

theorem geTallies_keeps {R dm hm s x d r} (kr : Closed R dm hm) (hx : Keeps R s x) :
    Keeps R s (geTallies x d r) := by
  unfold geTallies
  exact engineTally_keeps kr (engineTally_keeps kr hx)

theorem stepOwn_keeps {R hm s x ge t r} (kr : Closed R true hm) (hx : Keeps R s x) :
    KeepsSome R s (stepOwn x ge t r) := by
  unfold stepOwn
  exact (by
    try dsimp only
    split
    exact keepsSome_map' (stepJob_keeps kr hx) (fun _ h1 => (by
      split
      exact mapGeRun_keeps kr (keeps_fst h1)
      exact mapGeRun_keeps kr (keeps_fst h1)))
    exact (by
      split
      exact keepsSome_mk (mapGeRun_keeps kr hx)
      exact every_ite keepsSome_none (every_ite (beginSegment_keeps kr hx) (every_ite (keepsSome_mk (finishOk_keeps kr
        (geTallies_keeps kr hx))) keepsSome_none))))

theorem oneStage_keeps {R hm s x ge p} (kr : Closed R true hm) (hx : Keeps R s x) :
    Keeps R s (oneStage x ge p) := by
  unfold oneStage
  exact every_ite hx (by
    split
    exact every_ite (fragLoop_keeps kr hx) hx
    exact (by
      split
      exact (by
        split
        exact every_ite (keeps_fst (geGo_keeps kr hx (fun _ h1 => stepOwn_keeps kr h1))) hx
        exact hx)
      exact hx))

theorem execCoalesceEntryFilled_keeps {R hm s ge x} (kr : Closed R true hm) (hx : Keeps R s x) :
    KeepsNext R s (execCoalesceEntryFilled ge x) := by
  unfold execCoalesceEntryFilled
  exact keepsNext_mk (oneStage_keeps kr hx)

theorem execCoalesceProbe_keeps {R hm s ge x} (kr : Closed R true hm) (hx : Keeps R s x) :
    KeepsNext R s (execCoalesceProbe ge x) := by
  unfold execCoalesceProbe
  exact keepsNext_mk (oneStage_keeps kr hx)

theorem fragmentTake_keeps {R hm s x ge} (kr : Closed R true hm) (hx : Keeps R s x) :
    Keeps R s (fragmentTake x ge) := by
  unfold fragmentTake
  exact (by
    try dsimp only
    split
    exact every_ite hx (fragLoop_keeps kr hx)
    exact every_ite (by
      split
      exact hx
      exact fragLoop_keeps kr (bump_keeps kr (setF_keeps kr (setEng_keeps kr (keeps_mk kr hx rfl rfl rfl rfl rfl rfl
        rfl rfl))))) hx)

theorem execFragmentTake_keeps {R hm s ge x} (kr : Closed R true hm) (hx : Keeps R s x) :
    KeepsNext R s (execFragmentTake ge x) := by
  unfold execFragmentTake
  exact keepsNext_mk (fragmentTake_keeps kr hx)

theorem geLoop_keeps {R hm s ge op a2 x} (kr : Closed R true hm) (hx : Keeps R s x) :
    Keeps R s (geLoop ge op a2 x) := by
  induction a2 generalizing ge op x with
  | zero => rw [geLoop]; exact hx
  | succ n ih => rw [geLoop]; exact (by
    split
    exact every_ite hx (every_keep (fun h1 => every_ite (ih (keeps_fst h1)) (keeps_fst h1)) (geGo_keeps kr hx (fun _
      h2 => stepOwn_keeps kr h2)))
    exact hx)

theorem geRunTask_keeps {R hm s x ge op} (kr : Closed R true hm) (hx : Keeps R s x) :
    Keeps R s (geRunTask x ge op) := by
  unfold geRunTask
  exact (by
    try dsimp only
    split
    exact hx
    exact geLoop_keeps kr (every_ite hx (by
      split
      exact finishBad_keeps kr hx
      exact setEng_keeps kr hx)))

theorem execGather_keeps {R hm s ge x} (kr : Closed R true hm) (hx : Keeps R s x) :
    KeepsNext R s (execGather ge x) := by
  unfold execGather
  exact keepsNext_mk (geRunTask_keeps kr (undefinedOp_keeps kr hx))

theorem execPoolMean_keeps {R hm s ge x} (kr : Closed R true hm) (hx : Keeps R s x) :
    KeepsNext R s (execPoolMean ge x) := by
  unfold execPoolMean
  exact keepsNext_mk (geRunTask_keeps kr hx)

theorem execPoolSum_keeps {R hm s ge x} (kr : Closed R true hm) (hx : Keeps R s x) :
    KeepsNext R s (execPoolSum ge x) := by
  unfold execPoolSum
  exact keepsNext_mk (geRunTask_keeps kr hx)

theorem scatterRun_keeps {R hm s u t x} (kr : Closed R true hm) (hx : Keeps R s x) :
    Keeps R s (scatterRun u t x) := by
  unfold scatterRun
  exact every_keep (fun h1 => finishOk_keeps kr (geTallies_keeps kr (keeps_fst (every_foldl _ (keepsFst_mk (keeps_fst
    h1)) (fun _ _ h3 => every_keep (fun h4 => every_ite (keepsFst_mk (keeps_fst h4)) (every_ite (keepsFst_mk
    (keeps_fst h4)) (keepsFst_mk (store_keeps kr (keeps_fst (loadFor_keeps kr (keeps_fst h4))))))) (indexAt_keeps kr
    (keeps_fst h3))))))) (allPositions_keeps kr hx)

theorem execScatter_keeps {R hm s ge x} (kr : Closed R true hm) (hx : Keeps R s x) :
    KeepsNext R s (execScatter ge x) := by
  unfold execScatter
  exact keepsNext_mk (every_ite hx (runFront_keeps kr hx (fun _ _ h1 => scatterRun_keeps kr h1)))

theorem execSplitSlotDecrement_keeps {R hm s ge x} (kr : Closed R true hm) (hx : Keeps R s x) :
    KeepsNext R s (execSplitSlotDecrement ge x) := by
  unfold execSplitSlotDecrement
  exact keepsNext_mk (oneStage_keeps kr hx)

theorem queryStart_keeps {R dm hm s x ge table} (kr : Closed R dm hm) (hx : Keeps R s x) :
    Keeps R s (queryStart x ge table) := by
  unfold queryStart
  exact every_ite (setReg_keeps kr hx) hx

theorem execTblQuery_keeps {R dm hm s ge table x} (kr : Closed R dm hm) (hx : Keeps R s x) :
    KeepsNext R s (execTblQuery ge table x) := by
  unfold execTblQuery
  exact keepsNext_mk (every_ite (queryStart_keeps kr hx) hx)

theorem queryDone_keeps {R dm hm s x ge} (kr : Closed R dm hm) (hx : Keeps R s x) :
    Keeps R s (queryDone x ge) := by
  unfold queryDone
  exact every_ite (setF_keeps kr (setReg_keeps kr (setReg_keeps kr (setReg_keeps kr (setReg_keeps kr (setReg_keeps kr
    (setReg_keeps kr hx))))))) hx

theorem execTblQueryDone_keeps {R dm hm s ge x} (kr : Closed R dm hm) (hx : Keeps R s x) :
    KeepsNext R s (execTblQueryDone ge x) := by
  unfold execTblQueryDone
  exact keepsNext_mk (queryDone_keeps kr hx)

theorem uniqueStep_keeps {R dm hm s u t v r p} (kr : Closed R dm hm) (hr : KeepsFst R s r) :
    KeepsFst R s (uniqueStep u t v r p) := by
  unfold uniqueStep
  exact every_ite hr (every_keep (fun h1 => every_ite (keepsFst_mk (keeps_fst h1)) (by
    split
    exact keepsFst_mk (keeps_fst h1)
    exact every_keep (fun h2 => every_ite (keepsFst_mk (keeps_fst h2)) (keepsFst_mk (keeps_fst h2))) (loadFor_keeps kr
      (keeps_fst h1)))) (indexAt_keeps kr (keeps_fst hr)))

theorem writeHashEntry_keeps {R hm s u t y x} (kr : Closed R true hm) (hx : Keeps R s x) :
    Keeps R s (writeHashEntry u t y x) := by
  unfold writeHashEntry
  exact store_keeps kr (keeps_fst (every_foldl _ (keepsFst_mk hx) (fun _ _ h2 => keepsFst_mk (keeps_fst
    (drawFree_keeps kr (keeps_fst h2))))))

theorem uniqueRun_keeps {R hm s u t x} (kr : Closed R true hm) (hx : Keeps R s x) :
    Keeps R s (uniqueRun u t x) := by
  unfold uniqueRun
  exact every_keep (fun h1 => every_keep (fun h2 => every_keep (fun h3 => every_ite (finishBad_keeps kr
    (geTallies_keeps kr (store_keeps kr h3))) (every_keep (fun h4 => finishOk_keeps kr (geTallies_keeps kr
    (every_foldl _ h4 (fun _ _ h6 => store_keeps kr h6)))) (store_keeps kr h3))) (every_foldOver _ (keeps_fst h2) (fun
    _ _ h7 => writeHashEntry_keeps kr h7))) (every_foldl _ (keepsFst_mk (keeps_fst h1)) (fun _ _ h8 =>
    uniqueStep_keeps kr h8))) (allPositions_keeps kr hx)

theorem execUnique_keeps {R hm s ge x} (kr : Closed R true hm) (hx : Keeps R s x) :
    KeepsNext R s (execUnique ge x) := by
  unfold execUnique
  exact keepsNext_mk (every_ite hx (runFront_keeps kr hx (fun _ _ h1 => uniqueRun_keeps kr h1)))

end Sys2Proof.Machine
end

