-- ==== Sys2Proof/Laws/SyncMessagesKept.lean ====
section
/-! SUPPORT. What the operations of Machine/SyncMessages.lean keep. -/

namespace Sys2Proof.Machine

open Sys2Proof

theorem sendSync_keeps {R dm hm s x device hops ports} (kr : Closed R dm hm) (hx : Keeps R s x) :
    Keeps R s (sendSync x device hops ports) := by
  unfold sendSync
  exact every_foldOver _ hx (fun _ _ h1 => sendMessage_keeps kr h1)

theorem applySync_keeps {R dm hm s x m errEst rate} (kr : Closed R dm hm) (hx : Keeps R s x) :
    Keeps R s (applySync x m errEst rate) := by
  unfold applySync
  exact every_keep (fun h1 => every_keep (fun h2 => every_keep (fun h3 => every_keep (fun h4 => every_keep (fun h5 =>
    every_keep (fun h6 => every_ite (timeStepped_keeps kr (keeps_mk kr h6 rfl rfl rfl rfl rfl rfl rfl rfl)) h6)
    (sendSync_keeps kr h5)) (setErrEst_keeps kr h4)) (every_ite (raiseInt_keeps kr (setF_keeps kr (setTime_keeps kr
    h3))) (setReg_keeps kr h3))) (keeps_mk kr h2 rfl rfl rfl rfl rfl rfl rfl rfl)) (setF_keeps kr (setF_keeps kr
    (setF_keeps kr h1)))) (setReg_keeps kr hx)

theorem takeMessage_keeps {R dm hm s x p} (kr : Closed R dm hm) (hx : Keeps R s x) :
    KeepsSomeSnd R s (takeMessage x p) := by
  unfold takeMessage
  exact keepsSomeSnd_map (fun _ => keepsSnd_mk (keeps_mk kr hx rfl rfl rfl rfl rfl rfl rfl rfl))

theorem delayReq_keeps {R dm hm s x} (kr : Closed R dm hm) (hx : Keeps R s x) :
    Keeps R s (delayReq x) := by
  unfold delayReq
  exact (by
    split
    exact hx
    exact sendMessage_keeps kr ((keeps_of_some_snd (takeMessage_keeps kr hx) (by assumption))))

theorem delayRsp_keeps {R dm hm s x} (kr : Closed R dm hm) (hx : Keeps R s x) :
    Keeps R s (delayRsp x) := by
  unfold delayRsp
  exact (by
    split
    exact hx
    exact every_ite (keeps_mk kr ((keeps_of_some_snd (takeMessage_keeps kr hx) (by assumption))) rfl rfl rfl rfl rfl
      rfl rfl rfl) ((keeps_of_some_snd (takeMessage_keeps kr hx) (by assumption))))

theorem execDelayReq_keeps {R dm hm s x} (kr : Closed R dm hm) (hx : Keeps R s x) :
    KeepsNext R s (execDelayReq x) := by
  unfold execDelayReq
  exact keepsNext_mk (delayReq_keeps kr hx)

theorem execDelayRsp_keeps {R dm hm s x} (kr : Closed R dm hm) (hx : Keeps R s x) :
    KeepsNext R s (execDelayRsp x) := by
  unfold execDelayRsp
  exact keepsNext_mk (delayRsp_keeps kr hx)

theorem syncMessage_keeps {R dm hm s x errEst rate} (kr : Closed R dm hm) (hx : Keeps R s x) :
    Keeps R s (syncMessage x errEst rate) := by
  unfold syncMessage
  exact (by
    split
    exact hx
    exact every_ite ((keeps_of_some_snd (takeMessage_keeps kr hx) (by assumption))) (every_ite (every_ite
      (applySync_keeps kr ((keeps_of_some_snd (takeMessage_keeps kr hx) (by assumption)))) ((keeps_of_some_snd
      (takeMessage_keeps kr hx) (by assumption)))) (every_ite (every_ite ((keeps_of_some_snd (takeMessage_keeps kr hx)
      (by assumption))) (every_keep (fun h1 => every_ite (every_keep (fun h2 => every_ite (applySync_keeps kr h2) h2)
      (keeps_mk kr h1 rfl rfl rfl rfl rfl rfl rfl rfl)) h1) (raiseErr_keeps kr ((keeps_of_some_snd (takeMessage_keeps
      kr hx) (by assumption)))))) ((keeps_of_some_snd (takeMessage_keeps kr hx) (by assumption))))))

theorem execSync_keeps {R dm hm s errEst rate x} (kr : Closed R dm hm) (hx : Keeps R s x) :
    KeepsNext R s (execSync errEst rate x) := by
  unfold execSync
  exact keepsNext_mk (syncMessage_keeps kr hx)

theorem syncTick_keeps {R dm hm s x} (kr : Closed R dm hm) (hx : Keeps R s x) :
    Keeps R s (syncTick x) := by
  unfold syncTick
  exact every_ite (every_keep (fun h1 => every_ite (sendSync_keeps kr h1) (every_ite (every_ite (keeps_mk kr
    (sendMessage_keeps kr h1) rfl rfl rfl rfl rfl rfl rfl rfl) h1) h1)) (every_ite (keeps_mk kr hx rfl rfl rfl rfl rfl
    rfl rfl rfl) hx)) hx

theorem execSyncInterval_keeps {R dm hm s x} (kr : Closed R dm hm) (hx : Keeps R s x) :
    KeepsNext R s (execSyncInterval x) := by
  unfold execSyncInterval
  exact keepsNext_mk (syncTick_keeps kr hx)

end Sys2Proof.Machine
end

