-- ==== Sys2Proof/Laws/ClearingKept.lean ====
section
/-! SUPPORT. What the operations of Machine/Clearing.lean keep. -/

namespace Sys2Proof.Machine

open Sys2Proof

theorem foreign_keeps {R dm hm s x} (kr : Closed R dm hm) (hx : Keeps R s x) :
    Keeps R s (foreign x) := by
  unfold foreign
  exact raiseErr_keeps kr (bump64_keeps kr hx)

theorem acceptRows_keeps {R hm s who fmt a2 a3 x a5 a6} (kr : Closed R true hm) (hx : Keeps R s x) :
    KeepsFst R s (acceptRows who fmt a2 a3 x a5 a6) := by
  induction a2 generalizing who fmt a3 x a5 a6 with
  | zero => rw [acceptRows]; exact keepsFst_mk hx
  | succ n ih => rw [acceptRows]; exact every_ite (keepsFst_mk hx) (every_ite (ih (store_keeps kr hx)) (ih
    (foreign_keeps kr hx)))

theorem countSent_keeps {R dm hm s x q raw m} (kr : Closed R dm hm) (hx : Keeps R s x) :
    Keeps R s (countSent x q raw m) := by
  unfold countSent
  exact bump64_keeps kr (bump64_keeps kr hx)

theorem setBatches_keeps {R dm hm s x l} (kr : Closed R dm hm) (hx : Keeps R s x) :
    Keeps R s (setBatches x l) := by
  unfold setBatches
  exact every_keep (fun h1 => every_foldOver _ h1 (fun _ _ h2 => setReg_keeps kr h2)) (keeps_mk kr hx rfl rfl rfl rfl
    rfl rfl rfl rfl)

theorem sendBatch_keeps {R dm hm s x b} (kr : Closed R dm hm) (hx : Keeps R s x) :
    Keeps R s (sendBatch x b) := by
  unfold sendBatch
  exact every_keep (fun h1 => every_keep (fun h2 => setBatches_keeps kr (every_ite h2 (bump64_keeps kr h2)))
    (bump64_keeps kr h1)) (countSent_keeps kr (sendMessage_keeps kr hx))

theorem openBatch_keeps {R dm hm s x q dest write} (kr : Closed R dm hm) (hx : Keeps R s x) :
    KeepsFst R s (openBatch x q dest write) := by
  unfold openBatch
  exact (by
    split
    exact keepsFst_mk hx
    exact keepsFst_mk (setBatches_keeps kr (keeps_mk kr (every_ite (by
      split
      exact sendBatch_keeps kr hx
      exact hx) hx) rfl rfl rfl rfl rfl rfl rfl rfl)))

theorem addEntry_keeps {R dm hm s x q dest write e data} (kr : Closed R dm hm) (hx : Keeps R s x) :
    KeepsFst R s (addEntry x q dest write e data) := by
  unfold addEntry
  exact every_keep (fun h1 => every_keep (fun h2 => keepsFst_mk (every_ite (sendBatch_keeps kr h2) h2))
    (setBatches_keeps kr (keeps_fst h1))) (openBatch_keeps kr hx)

theorem collectReads_keeps {R dm hm s a0 x} (kr : Closed R dm hm) (hx : Keeps R s x) :
    Keeps R s (collectReads a0 x) := by
  induction a0 generalizing x with
  | zero => rw [collectReads]; exact hx
  | succ n ih => rw [collectReads]; exact (by
    split
    exact hx
    exact (by
      split
      exact hx
      exact ih (keeps_mk kr hx rfl rfl rfl rfl rfl rfl rfl rfl)
      exact ih (keeps_fst (addEntry_keeps kr (keeps_mk kr hx rfl rfl rfl rfl rfl rfl rfl rfl)))))

theorem collectWrites_keeps {R dm hm s a0 x} (kr : Closed R dm hm) (hx : Keeps R s x) :
    Keeps R s (collectWrites a0 x) := by
  induction a0 generalizing x with
  | nil => rw [collectWrites]; exact hx
  | cons e t ih => rw [collectWrites]; exact every_ite (ih hx) (by
    split
    exact ih (keeps_mk kr (keeps_fst (addEntry_keeps kr hx)) rfl rfl rfl rfl rfl rfl rfl rfl)
    exact ih (keeps_mk kr hx rfl rfl rfl rfl rfl rfl rfl rfl)
    exact ih hx)

theorem collect_keeps {R dm hm s x} (kr : Closed R dm hm) (hx : Keeps R s x) :
    Keeps R s (collect x) := by
  unfold collect
  exact every_ite hx (flushInvals_keeps kr (collectWrites_keeps kr (collectReads_keeps kr hx)))

theorem batchTimeout_keeps {R dm hm s s0 id} (kr : Closed R dm hm) (hs0 : Keeps R s s0) :
    Keeps R s (batchTimeout s0 id) := by
  unfold batchTimeout
  exact every_keep (fun h1 => (by
    try dsimp only
    split
    exact every_ite h1 (sendBatch_keeps kr (timeUpTo_keeps kr h1))
    exact h1)) (collect_keeps kr hs0)

theorem setCl_keeps {R dm hm s x q r} (kr : Closed R dm hm) (hx : Keeps R s x) :
    Keeps R s (setCl x q r) := by
  unfold setCl
  exact setEng_keeps kr hx

theorem finishExchange_keeps {R dm hm s x q} (kr : Closed R dm hm) (hx : Keeps R s x) :
    Keeps R s (finishExchange x q) := by
  unfold finishExchange
  exact (by
    split
    exact hx
    exact every_ite (every_keep (fun h1 => (by
      try dsimp only
      split
      exact finishBad_keeps kr h1
      exact finishOk_keeps kr h1)) (engineTally_keeps kr hx)) hx)

theorem clSettle_keeps {R dm hm s x q} (kr : Closed R dm hm) (hx : Keeps R s x) :
    Keeps R s (clSettle x q) := by
  unfold clSettle
  exact (by
    split
    exact hx
    exact every_ite (every_keep (fun h1 => finishExchange_keeps kr (every_foldOver _ h1 (fun _ _ h2 => every_ite h2
      (sendMessage_keeps kr h2)))) (setCl_keeps kr hx)) hx)

theorem clSettleAll_keeps {R dm hm s x} (kr : Closed R dm hm) (hx : Keeps R s x) :
    Keeps R s (clSettleAll x) := by
  unfold clSettleAll
  exact every_foldOver _ hx (fun _ _ h1 => clSettle_keeps kr h1)

theorem drawBytes_keeps {R dm hm s x a1} (kr : Closed R dm hm) (hx : Keeps R s x) :
    KeepsFst R s (drawBytes x a1) := by
  induction a1 generalizing x with
  | zero => rw [drawBytes]; exact keepsFst_mk hx
  | succ n ih => rw [drawBytes]; exact keepsFst_mk (keeps_fst (ih (keeps_fst (drawFree_keeps kr hx))))

theorem rowOut_keeps {R dm hm s x mask fmt row} (kr : Closed R dm hm) (hx : Keeps R s x) :
    KeepsFst R s (rowOut x mask fmt row) := by
  unfold rowOut
  exact every_ite (keepsFst_mk (keeps_fst (drawBytes_keeps kr hx))) (keepsFst_mk hx)

theorem packRows_keeps {R dm hm s mask fmt rowLen a3 a4 x} (kr : Closed R dm hm) (hx : Keeps R s x) :
    KeepsFst R s (packRows mask fmt rowLen a3 a4 x) := by
  induction a3 generalizing mask fmt rowLen a4 x with
  | zero => rw [packRows]; exact keepsFst_mk hx
  | succ n ih => rw [packRows]; exact keepsFst_mk (keeps_fst (ih (keeps_fst (rowOut_keeps kr hx))))

theorem sendRows_keeps {R dm hm s x q t r k x'} (kr : Closed R dm hm) (hx : Keeps R s x) :
    Keeps R s (sendRows x q t r k x') := by
  unfold sendRows
  exact setCl_keeps kr (countSent_keeps kr (sendMessage_keeps kr (keeps_fst (packRows_keeps kr (keeps_fst
    (engineLoad_keeps kr hx))))))

theorem ctsMessage_keeps {R dm hm s x} (kr : Closed R dm hm) (hx : Keeps R s x) :
    Keeps R s (ctsMessage x) := by
  unfold ctsMessage
  exact every_ite hx (by
    split
    exact hx
    exact (by
      split
      exact stray_keeps kr ((keeps_of_some_snd (takeMessage_keeps kr hx) (by assumption)))
      exact (by
        split
        exact stray_keeps kr ((keeps_of_some_snd (takeMessage_keeps kr hx) (by assumption)))
        exact (by
          try dsimp only
          split
          exact (by
            split
            exact sendRows_keeps kr ((keeps_of_some_snd (takeMessage_keeps kr hx) (by assumption)))
            exact (keeps_of_some_snd (takeMessage_keeps kr hx) (by assumption)))
          exact clSettle_keeps kr (setCl_keeps kr ((keeps_of_some_snd (takeMessage_keeps kr hx) (by assumption))))
          exact setCl_keeps kr ((keeps_of_some_snd (takeMessage_keeps kr hx) (by assumption)))))))

theorem deliverRows_keeps {R hm s x q t k rows off data} (kr : Closed R true hm) (hx : Keeps R s x) :
    Keeps R s (deliverRows x q t k rows off data) := by
  unfold deliverRows
  exact engineStore_keeps kr (engineStore_keeps kr hx)

theorem exchAck_keeps {R dm hm s x} (kr : Closed R dm hm) (hx : Keeps R s x) :
    Keeps R s (exchAck x) := by
  unfold exchAck
  exact (by
    split
    exact hx
    exact (by
      split
      exact stray_keeps kr ((keeps_of_some_snd (takeMessage_keeps kr hx) (by assumption)))
      exact (by
        split
        exact stray_keeps kr ((keeps_of_some_snd (takeMessage_keeps kr hx) (by assumption)))
        exact clSettle_keeps kr (setCl_keeps kr ((keeps_of_some_snd (takeMessage_keeps kr hx) (by assumption)))))))

theorem recordSlip_keeps {R dm hm s x q x'} (kr : Closed R dm hm) (hx : Keeps R s x) :
    Keeps R s (recordSlip x q x') := by
  unfold recordSlip
  exact setReg_keeps kr hx

theorem exchData_keeps {R hm s x} (kr : Closed R true hm) (hx : Keeps R s x) :
    Keeps R s (exchData x) := by
  unfold exchData
  exact every_ite hx (by
    split
    exact hx
    exact (by
      split
      exact stray_keeps kr ((keeps_of_some_snd (takeMessage_keeps kr hx) (by assumption)))
      exact (by
        split
        exact stray_keeps kr ((keeps_of_some_snd (takeMessage_keeps kr hx) (by assumption)))
        exact (by
          try dsimp only
          split
          exact finishBad_keeps kr (engineStore_keeps kr (recordSlip_keeps kr ((keeps_of_some_snd (takeMessage_keeps
            kr hx) (by assumption)))))
          exact clSettle_keeps kr (setCl_keeps kr (deliverRows_keeps kr ((keeps_of_some_snd (takeMessage_keeps kr hx)
            (by assumption)))))))))

theorem readSends_keeps {R dm hm s x u t} (kr : Closed R dm hm) (hx : Keeps R s x) :
    KeepsFst R s (readSends x u t) := by
  unfold readSends
  exact keepsFst_mk (keeps_fst (engineLoad_keeps kr hx))

theorem readRecvs_keeps {R dm hm s x u t} (kr : Closed R dm hm) (hx : Keeps R s x) :
    KeepsFst R s (readRecvs x u t) := by
  unfold readRecvs
  exact keepsFst_mk (keeps_fst (engineLoad_keeps kr hx))

theorem takeOffer_keeps {R dm hm s x q t r src rows} (kr : Closed R dm hm) (hx : Keeps R s x) :
    Keeps R s (takeOffer x q t r src rows) := by
  unfold takeOffer
  exact (by
    split
    exact stray_keeps kr hx
    exact sendMessage_keeps kr (setCl_keeps kr hx)
    exact sendMessage_keeps kr (setReg_keeps kr (setCl_keeps kr hx)))

theorem localSend_keeps {R hm s q t k x x'} (kr : Closed R true hm) (hx' : Keeps R s x') :
    Keeps R s (localSend q t k x x') := by
  unfold localSend
  exact (by
    split
    exact hx'
    exact (by
      try dsimp only
      split
      exact setCl_keeps kr (stray_keeps kr hx')
      exact setCl_keeps kr (setReg_keeps kr hx')
      exact setCl_keeps kr (deliverRows_keeps kr (keeps_fst (engineLoad_keeps kr hx')))))

theorem exchangeStart_keeps {R hm s u t x} (kr : Closed R true hm) (hx : Keeps R s x) :
    Keeps R s (exchangeStart u t x) := by
  unfold exchangeStart
  exact every_ite hx (every_keep (fun h1 => every_keep (fun h2 => every_keep (fun h3 => every_keep (fun h4 =>
    every_keep (fun h5 => every_keep (fun h6 => clSettle_keeps kr (every_foldOver _ h6 (fun _ _ h7 => every_ite
    (localSend_keeps kr h7) (sendMessage_keeps kr h7)))) (every_foldOver _ h5 (fun _ _ h8 => (by
    split
    exact takeOffer_keeps kr h8
    exact h8)))) (every_foldOver _ h4 (fun _ _ h9 => setF_keeps kr h9))) (keeps_mk kr h3 rfl rfl rfl rfl rfl rfl rfl
    rfl)) (setCl_keeps kr (keeps_fst h2))) (readRecvs_keeps kr (keeps_fst h1))) (readSends_keeps kr hx))

theorem execBatchNs_keeps {R dm hm s batch x} (kr : Closed R dm hm) (hx : Keeps R s x) :
    KeepsNext R s (execBatchNs batch x) := by
  unfold execBatchNs
  exact keepsNext_mk (batchTimeout_keeps kr hx)

theorem execCts_keeps {R hm s x} (kr : Closed R true hm) (hx : Keeps R s x) :
    KeepsNext R s (execCts x) := by
  unfold execCts
  exact keepsNext_mk (orWait_keeps kr hx (fun _ h1 => ctsMessage_keeps kr h1))

theorem execExchAck_keeps {R dm hm s x} (kr : Closed R dm hm) (hx : Keeps R s x) :
    KeepsNext R s (execExchAck x) := by
  unfold execExchAck
  exact keepsNext_mk (exchAck_keeps kr hx)

theorem execExchData_keeps {R hm s x} (kr : Closed R true hm) (hx : Keeps R s x) :
    KeepsNext R s (execExchData x) := by
  unfold execExchData
  exact keepsNext_mk (orWait_keeps kr hx (fun _ h1 => exchData_keeps kr h1))

theorem execExchange_keeps {R hm s cl x} (kr : Closed R true hm) (hx : Keeps R s x) :
    KeepsNext R s (execExchange cl x) := by
  unfold execExchange
  exact keepsNext_mk (runFront_keeps kr (undefinedOp_keeps kr hx) (fun _ _ h1 => exchangeStart_keeps kr h1))

theorem invalMessage_keeps {R dm hm s x} (kr : Closed R dm hm) (hx : Keeps R s x) :
    Keeps R s (invalMessage x) := by
  unfold invalMessage
  exact (by
    split
    exact hx
    exact sendMessage_keeps kr (every_foldOver _ ((keeps_of_some_snd (takeMessage_keeps kr hx) (by assumption))) (fun
      _ _ h2 => freeGranule_keeps kr h2)))

theorem execInval_keeps {R dm hm s x} (kr : Closed R dm hm) (hx : Keeps R s x) :
    KeepsNext R s (execInval x) := by
  unfold execInval
  exact keepsNext_mk (invalMessage_keeps kr hx)

theorem releaseAcks_keeps {R dm hm s x} (kr : Closed R dm hm) (hx : Keeps R s x) :
    Keeps R s (releaseAcks x) := by
  unfold releaseAcks
  exact every_keep (fun h1 => every_foldOver _ h1 (fun _ _ h2 => sendMessage_keeps kr h2)) (keeps_mk kr hx rfl rfl rfl
    rfl rfl rfl rfl rfl)

theorem invalAck_keeps {R dm hm s x} (kr : Closed R dm hm) (hx : Keeps R s x) :
    Keeps R s (invalAck x) := by
  unfold invalAck
  exact (by
    split
    exact hx
    exact clSettleAll_keeps kr (releaseAcks_keeps kr (keeps_mk kr ((keeps_of_some_snd (takeMessage_keeps kr hx) (by
      assumption))) rfl rfl rfl rfl rfl rfl rfl rfl)))

theorem execInvalAck_keeps {R dm hm s x} (kr : Closed R dm hm) (hx : Keeps R s x) :
    KeepsNext R s (execInvalAck x) := by
  unfold execInvalAck
  exact keepsNext_mk (invalAck_keeps kr hx)

theorem runParts_keeps {R dm hm s x u op check f} (kr : Closed R dm hm) (hx : Keeps R s x) (hf : ∀ y0 y1, Keeps R s y1
  → Keeps R s (f y0 y1)) :
    Keeps R s (runParts x u op check f) := by
  unfold runParts
  exact (by
    split
    exact hx
    exact (by
      split
      exact finishBad_keeps kr hx
      exact hf _ _ (startFront_keeps kr hx)))

theorem migratePiece_keeps {R hm s u t copied k x} (kr : Closed R true hm) (hx : Keeps R s x) :
    Keeps R s (migratePiece u t copied k x) := by
  unfold migratePiece
  exact keeps_mk kr (store_keeps kr (keeps_fst (loadFor_keeps kr hx))) rfl rfl rfl rfl rfl rfl rfl rfl

theorem migrateOne_keeps {R hm s u t x} (kr : Closed R true hm) (hx : KeepsFst R s x) :
    KeepsFst R s (migrateOne u t x) := by
  unfold migrateOne
  exact every_ite hx (every_keep (fun h1 => every_ite (keepsFst_mk (keeps_mk kr (orWait_keeps kr (keeps_fst hx) (fun _
    h3 => migratePiece_keeps kr h3)) rfl rfl rfl rfl rfl rfl rfl rfl)) (keepsFst_mk h1)) (migratePiece_keeps kr
    (keeps_mk kr (keeps_fst hx) rfl rfl rfl rfl rfl rfl rfl rfl)))

theorem migrate_keeps {R hm s u t x} (kr : Closed R true hm) (hx : Keeps R s x) :
    Keeps R s (migrate u t x) := by
  unfold migrate
  exact every_keep (fun h1 => every_keep (fun h2 => every_ite (finishOk_keeps kr h2) h2) (setF_keeps kr (setCl_keeps
    kr (keeps_fst h1)))) (every_iter _ (keepsFst_mk hx) (fun _ _ h3 => migrateOne_keeps kr h3))

theorem execMigrate_keeps {R hm s cl x} (kr : Closed R true hm) (hx : Keeps R s x) :
    KeepsNext R s (execMigrate cl x) := by
  unfold execMigrate
  exact keepsNext_mk (runParts_keeps kr hx (fun _ _ h1 => migrate_keeps kr h1))

theorem serveRows_keeps {R dm hm s who q fmt a3 a4 x a6 a7 a8} (kr : Closed R dm hm) (hx : Keeps R s x) :
    KeepsFst R s (serveRows who q fmt a3 a4 x a6 a7 a8) := by
  induction a3 generalizing who q fmt a4 x a6 a7 a8 with
  | zero => rw [serveRows]; exact keepsFst_mk hx
  | succ n ih => rw [serveRows]; exact every_ite (keepsFst_mk hx) (every_ite (ih (keeps_fst (rowOut_keeps kr
    (keeps_fst (loadFor_keeps kr hx))))) (ih (foreign_keeps kr hx)))

theorem readReq_keeps {R dm hm s x} (kr : Closed R dm hm) (hx : Keeps R s x) :
    Keeps R s (readReq x) := by
  unfold readReq
  exact every_ite hx (by
    split
    exact hx
    exact countSent_keeps kr (bump64_keeps kr (sendMessage_keeps kr (keeps_fst (serveRows_keeps kr ((keeps_of_some_snd
      (takeMessage_keeps kr hx) (by assumption))))))))

theorem execReadReq_keeps {R hm s x} (kr : Closed R true hm) (hx : Keeps R s x) :
    KeepsNext R s (execReadReq x) := by
  unfold execReadReq
  exact keepsNext_mk (orWait_keeps kr hx (fun _ h1 => readReq_keeps kr h1))

theorem giveRow_keeps {R dm hm s x who addr len row} (kr : Closed R dm hm) (hx : Keeps R s x) :
    Keeps R s (giveRow x who addr len row) := by
  unfold giveRow
  exact every_foldOver _ hx (fun _ _ h1 => every_ite (by
    split
    exact keeps_mk kr h1 rfl rfl rfl rfl rfl rfl rfl rfl
    exact keeps_mk kr h1 rfl rfl rfl rfl rfl rfl rfl rfl) h1)

theorem giveRows_keeps {R dm hm s q fmt a2 a3 x} (kr : Closed R dm hm) (hx : Keeps R s x) :
    Keeps R s (giveRows q fmt a2 a3 x) := by
  induction a2 generalizing q fmt a3 x with
  | nil => rw [giveRows]; exact hx
  | cons e t ih => rw [giveRows]; exact every_ite (ih (giveRow_keeps kr hx)) (by
    split
    exact every_keep (fun h1 => every_ite (finishBad_keeps kr h1) h1) (recordSlip_keeps kr hx)
    exact ih (giveRow_keeps kr hx))

theorem readRsp_keeps {R dm hm s x} (kr : Closed R dm hm) (hx : Keeps R s x) :
    Keeps R s (readRsp x) := by
  unfold readRsp
  exact (by
    split
    exact hx
    exact (by
      split
      exact stray_keeps kr ((keeps_of_some_snd (takeMessage_keeps kr hx) (by assumption)))
      exact every_keep (fun h1 => every_ite (giveRows_keeps kr h1) (stray_keeps kr h1)) (setBatches_keeps kr
        ((keeps_of_some_snd (takeMessage_keeps kr hx) (by assumption))))))

theorem execReadRsp_keeps {R dm hm s x} (kr : Closed R dm hm) (hx : Keeps R s x) :
    KeepsNext R s (execReadRsp x) := by
  unfold execReadRsp
  exact keepsNext_mk (readRsp_keeps kr hx)

theorem rtsMessage_keeps {R dm hm s x} (kr : Closed R dm hm) (hx : Keeps R s x) :
    Keeps R s (rtsMessage x) := by
  unfold rtsMessage
  exact every_ite hx (by
    split
    exact hx
    exact (by
      try dsimp only
      split
      exact clSettle_keeps kr (takeOffer_keeps kr ((keeps_of_some_snd (takeMessage_keeps kr hx) (by assumption))))
      exact every_ite (stray_keeps kr ((keeps_of_some_snd (takeMessage_keeps kr hx) (by assumption)))) (every_ite
        (setF_keeps kr (keeps_mk kr ((keeps_of_some_snd (takeMessage_keeps kr hx) (by assumption))) rfl rfl rfl rfl
        rfl rfl rfl rfl)) (sendMessage_keeps kr ((keeps_of_some_snd (takeMessage_keeps kr hx) (by assumption)))))))

theorem execRts_keeps {R hm s x} (kr : Closed R true hm) (hx : Keeps R s x) :
    KeepsNext R s (execRts x) := by
  unfold execRts
  exact keepsNext_mk (orWait_keeps kr hx (fun _ h1 => rtsMessage_keeps kr h1))

theorem rtsRetry_keeps {R dm hm s x q} (kr : Closed R dm hm) (hx : Keeps R s x) :
    Keeps R s (rtsRetry x q) := by
  unfold rtsRetry
  exact every_ite hx (by
    split
    exact hx
    exact (by
      try dsimp only
      split
      exact hx
      exact (by
        split
        exact hx
        exact sendMessage_keeps kr (setCl_keeps kr (timeUpTo_keeps kr hx)))))

theorem execRtsRetry_keeps {R dm hm s cl x} (kr : Closed R dm hm) (hx : Keeps R s x) :
    KeepsNext R s (execRtsRetry cl x) := by
  unfold execRtsRetry
  exact keepsNext_mk (rtsRetry_keeps kr hx)

theorem writeAck_keeps {R dm hm s x} (kr : Closed R dm hm) (hx : Keeps R s x) :
    Keeps R s (writeAck x) := by
  unfold writeAck
  exact (by
    split
    exact hx
    exact (by
      split
      exact stray_keeps kr ((keeps_of_some_snd (takeMessage_keeps kr hx) (by assumption)))
      exact clSettleAll_keeps kr (keeps_mk kr (setBatches_keeps kr ((keeps_of_some_snd (takeMessage_keeps kr hx) (by
        assumption)))) rfl rfl rfl rfl rfl rfl rfl rfl)))

theorem execWriteAck_keeps {R dm hm s x} (kr : Closed R dm hm) (hx : Keeps R s x) :
    KeepsNext R s (execWriteAck x) := by
  unfold execWriteAck
  exact keepsNext_mk (writeAck_keeps kr hx)

theorem writeReq_keeps {R hm s x} (kr : Closed R true hm) (hx : Keeps R s x) :
    Keeps R s (writeReq x) := by
  unfold writeReq
  exact every_ite hx (by
    split
    exact hx
    exact every_keep (fun h1 => every_keep (fun h2 => every_ite (flushInvals_keeps kr (keeps_mk kr (keeps_fst h2) rfl
      rfl rfl rfl rfl rfl rfl rfl)) (sendMessage_keeps kr (keeps_fst h2))) (acceptRows_keeps kr h1))
      (flushInvals_keeps kr ((keeps_of_some_snd (takeMessage_keeps kr hx) (by assumption)))))

theorem execWriteReq_keeps {R hm s x} (kr : Closed R true hm) (hx : Keeps R s x) :
    KeepsNext R s (execWriteReq x) := by
  unfold execWriteReq
  exact keepsNext_mk (orWait_keeps kr hx (fun _ h1 => writeReq_keeps kr h1))

end Sys2Proof.Machine
end

