-- ==== Sys2Proof/Laws/MgmtKept.lean ====
section
/-! SUPPORT. What the operations of Machine/Mgmt.lean keep. -/

namespace Sys2Proof.Machine

open Sys2Proof

theorem keepsDone_mk {R s x result data} (h : Keeps R s x) : KeepsAt McDone.st R s ⟨x, result, data⟩ := h

theorem mcStatus_keeps {R dm hm s x b on} (kr : Closed R dm hm) (hx : Keeps R s x) :
    Keeps R s (mcStatus x b on) := by
  unfold mcStatus
  exact setF_keeps kr hx

theorem cfgLock_keeps {R dm hm s x} (kr : Closed R dm hm) (hx : Keeps R s x) :
    Keeps R s (cfgLock x) := by
  unfold cfgLock
  exact mcStatus_keeps kr (setF_keeps kr hx)

theorem report_keeps {R dm hm s x} (kr : Closed R dm hm) (hx : Keeps R s x) :
    KeepsAt McDone.st R s (report x) := by
  unfold report
  exact keepsDone_mk (keeps_fst (drawBytes_keeps kr hx))

theorem diagPort_keeps {R dm hm s x c} (kr : Closed R dm hm) (hx : Keeps R s x) :
    KeepsAt McDone.st R s (diagPort x c) := by
  unfold diagPort
  exact every_ite (keepsDone_mk hx) (every_ite (keepsDone_mk hx) (report_keeps kr hx))

theorem trainStack_keeps {R dm hm s x st bad} (kr : Closed R dm hm) (hx : Keeps R s x) :
    Keeps R s (trainStack x st bad) := by
  unfold trainStack
  exact every_ite (setStack_keeps kr (setF_keeps kr (setReg_keeps kr hx))) (setF_keeps kr hx)

theorem diagTrain_keeps {R dm hm s x c bad} (kr : Closed R dm hm) (hx : Keeps R s x) :
    KeepsAt McDone.st R s (diagTrain x c bad) := by
  unfold diagTrain
  exact every_ite (keepsDone_mk hx) (every_ite (keepsDone_mk hx) (report_keeps kr (trainStack_keeps kr hx)))

theorem doePut_keeps {R dm hm s x a} (kr : Closed R dm hm) (hx : Keeps R s x) :
    Keeps R s (doePut x a) := by
  unfold doePut
  exact sendMsix_keeps kr (keeps_mk kr hx rfl rfl rfl rfl rfl rfl rfl rfl)

theorem spdmAnswer_keeps {R dm hm s x doe secured r} (kr : Closed R dm hm) (hx : Keeps R s x) :
    KeepsFst R s (spdmAnswer x doe secured r) := by
  unfold spdmAnswer
  exact (by
    split
    exact keepsFst_mk hx
    exact keepsFst_mk hx
    exact keepsFst_mk hx
    exact keepsFst_mk hx
    exact keepsFst_mk hx
    exact every_ite (keepsFst_mk (keeps_mk kr hx rfl rfl rfl rfl rfl rfl rfl rfl)) (keepsFst_mk hx)
    exact every_ite (keepsFst_mk (keeps_mk kr hx rfl rfl rfl rfl rfl rfl rfl rfl)) (keepsFst_mk hx))

theorem ideKeys_keeps {R dm hm s x mem} (kr : Closed R dm hm) (hx : Keeps R s x) :
    Keeps R s (ideKeys x mem) := by
  unfold ideKeys
  exact ideStatus_keeps kr (keeps_mk kr hx rfl rfl rfl rfl rfl rfl rfl rfl)

theorem doeObject_keeps {R dm hm s x o} (kr : Closed R dm hm) (hx : Keeps R s x) :
    Keeps R s (doeObject x o) := by
  unfold doeObject
  exact every_ite hx (every_ite (keeps_mk kr hx rfl rfl rfl rfl rfl rfl rfl rfl) (by
    split
    exact doePut_keeps kr hx
    exact doePut_keeps kr (keeps_fst (spdmAnswer_keeps kr hx))
    exact every_ite (doePut_keeps kr (keeps_fst (spdmAnswer_keeps kr hx))) (doePut_keeps kr hx)
    exact every_ite (doePut_keeps kr (ideKeys_keeps kr hx)) (doePut_keeps kr hx)
    exact doePut_keeps kr hx))

theorem execCfgLock_keeps {R dm hm s x} (kr : Closed R dm hm) (hx : Keeps R s x) :
    KeepsNext R s (execCfgLock x) := by
  unfold execCfgLock
  exact keepsNext_mk (every_ite (cfgLock_keeps kr hx) hx)

theorem mcFinish_keeps {R dm s c r} (kr : Closed R dm true) (hr : KeepsAt McDone.st R s r) :
    Keeps R s (mcFinish c r) := by
  unfold mcFinish
  exact every_ite (raiseInt_keeps kr (keeps_mk kr (keeps_at hr) rfl rfl rfl rfl rfl rfl rfl rfl)) (every_keep (fun h2 =>
    raiseInt_keeps kr (setReg_keeps kr (every_ite h2 (hostWrite_keeps kr h2)))) (keeps_mk kr (keeps_at hr) rfl rfl rfl
    rfl rfl rfl rfl rfl))

theorem newNonce_keeps {R dm hm s x} (kr : Closed R dm hm) (hx : Keeps R s x) :
    Keeps R s (newNonce x) := by
  unfold newNonce
  exact setReg_keeps kr (keeps_fst (drawFree_keeps kr hx))

theorem refuseOp_keeps {R dm hm s x op result} (kr : Closed R dm hm) (hx : Keeps R s x) :
    KeepsAt McDone.st R s (refuseOp x op result) := by
  unfold refuseOp
  exact keepsDone_mk (every_ite (newNonce_keeps kr hx) hx)

theorem flashFailed_keeps {R dm hm s x} (kr : Closed R dm hm) (hx : Keeps R s x) :
    KeepsAt McDone.st R s (flashFailed x) := by
  unfold flashFailed
  exact keepsDone_mk (raiseErr_keeps kr hx)

theorem flashOpen_keeps {R dm hm s x a n} (kr : Closed R dm hm) (hx : Keeps R s x) :
    Keeps R s (flashOpen x a n) := by
  unfold flashOpen
  exact flashPut_keeps kr (keeps_fst (drawBytes_keeps kr hx))

theorem setSession_keeps {R dm hm s x x'} (kr : Closed R dm hm) (hx : Keeps R s x) :
    Keeps R s (setSession x x') := by
  unfold setSession
  exact setReg_keeps kr (mcStatus_keeps kr (keeps_mk kr hx rfl rfl rfl rfl rfl rfl rfl rfl))

theorem updateBegin_keeps {R dm hm s x c} (kr : Closed R dm hm) (hx : Keeps R s x) :
    KeepsAt McDone.st R s (updateBegin x c) := by
  unfold updateBegin
  exact (by
    split
    exact keepsDone_mk hx
    exact every_ite (keepsDone_mk hx) (every_ite (keepsDone_mk hx) (every_ite (keepsDone_mk hx) (every_keep (fun h1 =>
      every_ite (flashFailed_keeps kr (flashOpen_keeps kr h1)) (keepsDone_mk (setSession_keeps kr (flashPut_keeps kr
      (flashErase_keeps kr h1))))) (mcStatus_keeps kr hx)))))

theorem touchSession_keeps {R dm hm s x} (kr : Closed R dm hm) (hx : Keeps R s x) :
    Keeps R s (touchSession x) := by
  unfold touchSession
  exact (by
    split
    exact keeps_mk kr hx rfl rfl rfl rfl rfl rfl rfl rfl
    exact hx)

theorem updateData_keeps {R dm hm s s0 c} (kr : Closed R dm hm) (hs0 : Keeps R s s0) :
    KeepsAt McDone.st R s (updateData s0 c) := by
  unfold updateData
  exact (by
    split
    exact keepsDone_mk hs0
    exact keepsDone_mk hs0
    exact every_keep (fun h1 => every_ite (keepsDone_mk h1) (every_ite (keepsDone_mk h1) (every_ite (flashFailed_keeps
      kr (flashOpen_keeps kr h1)) (keepsDone_mk (setSession_keeps kr (flashPut_keeps kr (flashErase_keeps kr h1)))))))
      (touchSession_keeps kr hs0))

theorem updateEnd_keeps {R dm hm s s0 c} (kr : Closed R dm hm) (hs0 : Keeps R s s0) :
    KeepsAt McDone.st R s (updateEnd s0 c) := by
  unfold updateEnd
  exact (by
    split
    exact keepsDone_mk hs0
    exact keepsDone_mk hs0
    exact every_keep (fun h1 => every_ite (keepsDone_mk h1) (every_keep (fun h2 => every_ite (every_keep (fun h3 =>
      every_ite (keepsDone_mk (writeCount_keeps kr h3)) (flashFailed_keeps kr (putRecord_keeps kr h3)))
      (mcStatus_keeps kr h2)) (keepsDone_mk (raiseErr_keeps kr h2))) (setSession_keeps kr h1))) (touchSession_keeps kr
      hs0))

theorem updateAbort_keeps {R dm hm s x c} (kr : Closed R dm hm) (hx : Keeps R s x) :
    KeepsAt McDone.st R s (updateAbort x c) := by
  unfold updateAbort
  exact (by
    split
    exact keepsDone_mk hx
    exact keepsDone_mk (setSession_keeps kr hx))

theorem profileWrite_keeps {R dm hm s x c} (kr : Closed R dm hm) (hx : Keeps R s x) :
    KeepsAt McDone.st R s (profileWrite x c) := by
  unfold profileWrite
  exact every_ite (keepsDone_mk hx) (every_ite (keepsDone_mk hx) (every_ite (every_ite (keepsDone_mk (putRecord_keeps
    kr hx)) (flashFailed_keeps kr (putRecord_keeps kr hx))) (keepsDone_mk hx)))

theorem profileSelectNext_keeps {R dm hm s x c} (kr : Closed R dm hm) (hx : Keeps R s x) :
    KeepsAt McDone.st R s (profileSelectNext x c) := by
  unfold profileSelectNext
  exact every_ite (keepsDone_mk (setF_keeps kr (setF_keeps kr hx))) (keepsDone_mk hx)

theorem profileRead_keeps {R dm hm s x c} (kr : Closed R dm hm) (hx : Keeps R s x) :
    KeepsAt McDone.st R s (profileRead x c) := by
  unfold profileRead
  exact (by
    split
    exact keepsDone_mk hx
    exact keepsDone_mk hx)

theorem fuseSvn_keeps {R dm hm s x c} (kr : Closed R dm hm) (hx : Keeps R s x) :
    KeepsAt McDone.st R s (fuseSvn x c) := by
  unfold fuseSvn
  exact every_ite (keepsDone_mk (newNonce_keeps kr hx)) (every_ite (keepsDone_mk (newNonce_keeps kr hx)) (every_ite
    (keepsDone_mk (newNonce_keeps kr hx)) (keepsDone_mk (newNonce_keeps kr (setF_keeps kr hx)))))

theorem revokeSlot_keeps {R dm hm s x c} (kr : Closed R dm hm) (hx : Keeps R s x) :
    KeepsAt McDone.st R s (revokeSlot x c) := by
  unfold revokeSlot
  exact every_ite (keepsDone_mk (newNonce_keeps kr hx)) (every_ite (keepsDone_mk (newNonce_keeps kr hx)) (every_ite
    (keepsDone_mk (newNonce_keeps kr hx)) (every_ite (keepsDone_mk (newNonce_keeps kr hx)) (keepsDone_mk
    (newNonce_keeps kr (setF_keeps kr hx))))))

theorem recordRead_keeps {R dm hm s x c} (kr : Closed R dm hm) (hx : Keeps R s x) :
    KeepsAt McDone.st R s (recordRead x c) := by
  unfold recordRead
  exact every_ite (keepsDone_mk hx) (keepsDone_mk hx)

theorem mcOp_keeps {R dm hm s x op c bad} (kr : Closed R dm hm) (hx : Keeps R s x) :
    KeepsAt McDone.st R s (mcOp x op c bad) := by
  unfold mcOp
  exact every_ite (keepsDone_mk hx) (every_ite (refuseOp_keeps kr hx) (every_ite (refuseOp_keeps kr hx) (by
    split
    exact updateBegin_keeps kr hx
    exact updateData_keeps kr hx
    exact updateEnd_keeps kr hx
    exact updateAbort_keeps kr hx
    exact profileWrite_keeps kr hx
    exact profileSelectNext_keeps kr hx
    exact profileRead_keeps kr hx
    exact every_ite (keepsDone_mk (writeCount_keeps kr hx)) (flashFailed_keeps kr (putRecord_keeps kr hx))
    exact keepsDone_mk (keeps_mk kr hx rfl rfl rfl rfl rfl rfl rfl rfl)
    exact fuseSvn_keeps kr hx
    exact revokeSlot_keeps kr hx
    exact diagTrain_keeps kr hx
    exact diagPort_keeps kr hx
    exact recordRead_keeps kr hx)))

theorem mcCommand_keeps {R dm s x op c bad} (kr : Closed R dm true) (hx : Keeps R s x) :
    Keeps R s (mcCommand x op c bad) := by
  unfold mcCommand
  exact every_ite hx (every_ite (every_ite (keeps_mk kr hx rfl rfl rfl rfl rfl rfl rfl rfl) (mcFinish_keeps kr
    (mcOp_keeps kr hx))) (every_ite (raiseErr_keeps kr hx) (mcFinish_keeps kr (mcOp_keeps kr hx))))

theorem execClearBootCount_keeps {R dm s c x} (kr : Closed R dm true) (hx : Keeps R s x) :
    KeepsNext R s (execClearBootCount c x) := by
  unfold execClearBootCount
  exact keepsNext_mk (mcCommand_keeps kr hx)

theorem execDiagPort_keeps {R dm s c a1 x} (kr : Closed R dm true) (hx : Keeps R s x) :
    KeepsNext R s (execDiagPort c a1 x) := by
  unfold execDiagPort
  exact keepsNext_mk (mcCommand_keeps kr hx)

theorem execDiagTrain_keeps {R dm s c bad x} (kr : Closed R dm true) (hx : Keeps R s x) :
    KeepsNext R s (execDiagTrain c bad x) := by
  unfold execDiagTrain
  exact keepsNext_mk (mcCommand_keeps kr hx)

theorem execDoeObject_keeps {R dm hm s o x} (kr : Closed R dm hm) (hx : Keeps R s x) :
    KeepsNext R s (execDoeObject o x) := by
  unfold execDoeObject
  exact keepsNext_mk (doeObject_keeps kr hx)

theorem execEnterStrongbox_keeps {R dm s c x} (kr : Closed R dm true) (hx : Keeps R s x) :
    KeepsNext R s (execEnterStrongbox c x) := by
  unfold execEnterStrongbox
  exact keepsNext_mk (mcCommand_keeps kr hx)

theorem execFuseSvn_keeps {R dm s c x} (kr : Closed R dm true) (hx : Keeps R s x) :
    KeepsNext R s (execFuseSvn c x) := by
  unfold execFuseSvn
  exact keepsNext_mk (mcCommand_keeps kr hx)

theorem mcCommandOpen_keeps {R dm s x op c} (kr : Closed R dm true) (hx : Keeps R s x) :
    Keeps R s (mcCommandOpen x op c) := by
  unfold mcCommandOpen
  exact mcCommand_keeps kr (keeps_fst (drawBytes_keeps kr hx))

theorem mctpRequest_keeps {R dm s x m} (kr : Closed R dm true) (hx : Keeps R s x) :
    Keeps R s (mctpRequest x m) := by
  unfold mctpRequest
  exact every_ite (by
    split
    exact keeps_mk kr hx rfl rfl rfl rfl rfl rfl rfl rfl
    exact keeps_mk kr hx rfl rfl rfl rfl rfl rfl rfl rfl
    exact every_ite (mcCommandOpen_keeps kr hx) (keeps_mk kr hx rfl rfl rfl rfl rfl rfl rfl rfl)
    exact keeps_mk kr (keeps_fst (spdmAnswer_keeps kr hx)) rfl rfl rfl rfl rfl rfl rfl rfl
    exact mcCommandOpen_keeps kr hx) hx

theorem execMctpRequest_keeps {R dm s m x} (kr : Closed R dm true) (hx : Keeps R s x) :
    KeepsNext R s (execMctpRequest m x) := by
  unfold execMctpRequest
  exact keepsNext_mk (mctpRequest_keeps kr hx)

theorem execProfileRead_keeps {R dm s c x} (kr : Closed R dm true) (hx : Keeps R s x) :
    KeepsNext R s (execProfileRead c x) := by
  unfold execProfileRead
  exact keepsNext_mk (mcCommand_keeps kr hx)

theorem execProfileSelectNext_keeps {R dm s c x} (kr : Closed R dm true) (hx : Keeps R s x) :
    KeepsNext R s (execProfileSelectNext c x) := by
  unfold execProfileSelectNext
  exact keepsNext_mk (mcCommand_keeps kr hx)

theorem execProfileWrite_keeps {R dm s c x} (kr : Closed R dm true) (hx : Keeps R s x) :
    KeepsNext R s (execProfileWrite c x) := by
  unfold execProfileWrite
  exact keepsNext_mk (mcCommand_keeps kr hx)

theorem execRecordRead_keeps {R dm s c x} (kr : Closed R dm true) (hx : Keeps R s x) :
    KeepsNext R s (execRecordRead c x) := by
  unfold execRecordRead
  exact keepsNext_mk (mcCommand_keeps kr hx)

theorem execRevokeSlot_keeps {R dm s c x} (kr : Closed R dm true) (hx : Keeps R s x) :
    KeepsNext R s (execRevokeSlot c x) := by
  unfold execRevokeSlot
  exact keepsNext_mk (mcCommand_keeps kr hx)

theorem sessionTimeout_keeps {R dm hm s x} (kr : Closed R dm hm) (hx : Keeps R s x) :
    Keeps R s (sessionTimeout x) := by
  unfold sessionTimeout
  exact (by
    split
    exact setSession_keeps kr (timeUpTo_keeps kr hx)
    exact hx)

theorem execSessionTimeout_keeps {R dm hm s x} (kr : Closed R dm hm) (hx : Keeps R s x) :
    KeepsNext R s (execSessionTimeout x) := by
  unfold execSessionTimeout
  exact keepsNext_mk (sessionTimeout_keeps kr hx)

theorem execUndefinedMcOp_keeps {R dm s op c x} (kr : Closed R dm true) (hx : Keeps R s x) :
    KeepsNext R s (execUndefinedMcOp op c x) := by
  unfold execUndefinedMcOp
  exact keepsNext_mk (every_ite hx (mcCommand_keeps kr hx))

theorem execUpdateAbort_keeps {R dm s c x} (kr : Closed R dm true) (hx : Keeps R s x) :
    KeepsNext R s (execUpdateAbort c x) := by
  unfold execUpdateAbort
  exact keepsNext_mk (mcCommand_keeps kr hx)

theorem execUpdateBegin_keeps {R dm s c x} (kr : Closed R dm true) (hx : Keeps R s x) :
    KeepsNext R s (execUpdateBegin c x) := by
  unfold execUpdateBegin
  exact keepsNext_mk (mcCommand_keeps kr hx)

theorem execUpdateData_keeps {R dm s c x} (kr : Closed R dm true) (hx : Keeps R s x) :
    KeepsNext R s (execUpdateData c x) := by
  unfold execUpdateData
  exact keepsNext_mk (mcCommand_keeps kr hx)

theorem execUpdateEnd_keeps {R dm s c x} (kr : Closed R dm true) (hx : Keeps R s x) :
    KeepsNext R s (execUpdateEnd c x) := by
  unfold execUpdateEnd
  exact keepsNext_mk (mcCommand_keeps kr hx)

theorem mcRunOn_keeps {R dm s x} (kr : Closed R dm true) (hx : Keeps R s x) :
    Keeps R s (mcRunOn x) := by
  unfold mcRunOn
  exact (by
    split
    exact mcCommandOpen_keeps kr hx
    exact hx)

theorem mcStart_keeps {R dm hm s x op} (kr : Closed R dm hm) (hx : Keeps R s x) :
    Keeps R s (mcStart x op) := by
  unfold mcStart
  exact every_ite (raiseErr_keeps kr hx) (setF_keeps kr (keeps_mk kr hx rfl rfl rfl rfl rfl rfl rfl rfl))

end Sys2Proof.Machine
end

