-- ==== Sys2Proof/Laws/SchedulerKept.lean ====
section
/-! SUPPORT. What the operations of Machine/Scheduler.lean keep. -/

namespace Sys2Proof.Machine

open Sys2Proof

theorem admitKind_keeps {R hm s x ring p} (kr : Closed R true hm) (hx : Keeps R s x) :
    Keeps R s (admitKind x ring p) := by
  unfold admitKind
  exact (by
    split
    exact every_ite (admitFrom_keeps kr hx) hx
    exact hx)

theorem execAdmission_keeps {R hm s ring x} (kr : Closed R true hm) (hx : Keeps R s x) :
    KeepsNext R s (execAdmission ring x) := by
  unfold execAdmission
  exact keepsNext_mk (epochPoll_keeps kr (orWait_keeps kr hx (fun _ h1 => admitFrom_keeps kr h1)))

theorem execCtxSet_keeps {R hm s ring x} (kr : Closed R true hm) (hx : Keeps R s x) :
    KeepsNext R s (execCtxSet ring x) := by
  unfold execCtxSet
  exact keepsNext_mk (epochPoll_keeps kr (orWait_keeps kr hx (fun _ h1 => admitKind_keeps kr h1)))

theorem execDeadlineExpiry_keeps {R dm hm s seq x} (kr : Closed R dm hm) (hx : Keeps R s x) :
    KeepsNext R s (execDeadlineExpiry seq x) := by
  unfold execDeadlineExpiry
  exact keepsNext_mk (deadlineExpiry_keeps kr hx)

theorem execDelayTick_keeps {R dm hm s q list time x} (kr : Closed R dm hm) (hx : Keeps R s x) :
    KeepsNext R s (execDelayTick q list time x) := by
  unfold execDelayTick
  exact keepsNext_mk (delayTick_keeps kr hx)

theorem joinTask_keeps {R dm hm s x seq} (kr : Closed R dm hm) (hx : Keeps R s x) :
    Keeps R s (joinTask x seq) := by
  unfold joinTask
  exact (by
    split
    exact hx
    exact every_ite (every_ite (every_ite (settle_keeps kr (endWith_keeps kr hx)) (settle_keeps kr (endWith_keeps kr
      hx))) hx) (every_ite (settle_keeps kr (endWith_keeps kr hx)) (every_ite (settle_keeps kr (endWith_keeps kr hx))
      hx)))

theorem execJoin_keeps {R dm hm s seq x} (kr : Closed R dm hm) (hx : Keeps R s x) :
    KeepsNext R s (execJoin seq x) := by
  unfold execJoin
  exact keepsNext_mk (joinTask_keeps kr hx)

theorem loadTime_keeps {R dm hm s x} (kr : Closed R dm hm) (hx : Keeps R s x) :
    Keeps R s (loadTime x) := by
  unfold loadTime
  exact every_ite (raiseErr_keeps kr hx) (timeStepped_keeps kr (setTime_keeps kr hx))

theorem execLoad_keeps {R dm hm s x} (kr : Closed R dm hm) (hx : Keeps R s x) :
    KeepsNext R s (execLoad x) := by
  unfold execLoad
  exact keepsNext_mk (every_ite (loadTime_keeps kr hx) hx)

theorem markTask_keeps {R dm hm s x seq} (kr : Closed R dm hm) (hx : Keeps R s x) :
    Keeps R s (markTask x seq) := by
  unfold markTask
  exact (by
    split
    exact hx
    exact every_ite (settle_keeps kr (endWith_keeps kr hx)) (every_ite (settle_keeps kr (endWith_keeps kr hx)) hx))

theorem execMark_keeps {R dm hm s seq x} (kr : Closed R dm hm) (hx : Keeps R s x) :
    KeepsNext R s (execMark seq x) := by
  unfold execMark
  exact keepsNext_mk (markTask_keeps kr hx)

theorem execTableDrained_keeps {R dm hm s table version x} (kr : Closed R dm hm) (hx : Keeps R s x) :
    KeepsNext R s (execTableDrained table version x) := by
  unfold execTableDrained
  exact keepsNext_mk (tableDrained_keeps kr hx)

theorem execTableSwitch_keeps {R hm s ring x} (kr : Closed R true hm) (hx : Keeps R s x) :
    KeepsNext R s (execTableSwitch ring x) := by
  unfold execTableSwitch
  exact keepsNext_mk (epochPoll_keeps kr (orWait_keeps kr hx (fun _ h1 => admitKind_keeps kr h1)))

theorem execTaskComplete_keeps {R hm s u x} (kr : Closed R true hm) (hx : Keeps R s x) :
    KeepsNext R s (execTaskComplete u x) := by
  unfold execTaskComplete
  exact keepsNext_mk (epochPoll_keeps kr (taskComplete_keeps kr hx))

theorem execTaskDispatch_keeps {R hm s q x} (kr : Closed R true hm) (hx : Keeps R s x) :
    KeepsNext R s (execTaskDispatch q x) := by
  unfold execTaskDispatch
  exact keepsNext_mk (dispatch_keeps kr hx)

end Sys2Proof.Machine
end

