-- ==== Sys2Proof/Laws/HostWriteKept.lean ====
section
/-! SUPPORT. What the operations of Machine/HostWrite.lean keep. -/

namespace Sys2Proof.Machine

open Sys2Proof

theorem writeDev_keeps {R dm hm s x off mask v} (kr : Closed R dm hm) (hx : Keeps R s x) :
    Keeps R s (writeDev x off mask v) := by
  unfold writeDev
  exact (by
    split
    exact every_ite (clearAll_keeps kr hx) hx
    exact snapStart_keeps kr hx
    exact plainWrite_keeps kr hx)

theorem writeHi_keeps {R dm hm s x off mask v} (kr : Closed R dm hm) (hx : Keeps R s x) :
    Keeps R s (writeHi x off mask v) := by
  unfold writeHi
  exact every_ite (ringWrite_keeps kr hx) (by
    split
    exact every_ite (ringCommand_keeps kr hx) hx
    exact errHeadWrite_keeps kr hx
    exact plainWrite_keeps kr hx)

theorem writeMc_keeps {R dm hm s x off mask v} (kr : Closed R dm hm) (hx : Keeps R s x) :
    Keeps R s (writeMc x off mask v) := by
  unfold writeMc
  exact (by
    split
    exact every_ite (mcStart_keeps kr hx) hx
    exact every_ite (cfgLock_keeps kr hx) hx
    exact plainWrite_keeps kr hx)

theorem writeTb_keeps {R dm hm s x off mask v} (kr : Closed R dm hm) (hx : Keeps R s x) :
    Keeps R s (writeTb x off mask v) := by
  unfold writeTb
  exact (by
    split
    exact every_ite (loadTime_keeps kr hx) hx
    exact compareWrite_keeps kr hx
    exact plainWrite_keeps kr hx)

theorem routeWrite_keeps {R dm hm s x mask v} (kr : Closed R dm hm) (hx : Keeps R s x) :
    Keeps R s (routeWrite x mask v) := by
  unfold routeWrite
  exact every_ite (every_ite hx (raiseErr_keeps kr hx)) (keeps_mk kr hx rfl rfl rfl rfl rfl rfl rfl rfl)

theorem writePd_keeps {R dm hm s x off mask v} (kr : Closed R dm hm) (hx : Keeps R s x) :
    Keeps R s (writePd x off mask v) := by
  unfold writePd
  exact (by
    split
    exact every_ite (entryCommand_keeps kr hx) hx
    exact routeWrite_keeps kr hx
    exact every_ite (flushReplicas_keeps kr hx) hx
    exact plainWrite_keeps kr hx)

theorem writeEx_keeps {R dm hm s x off mask v} (kr : Closed R dm hm) (hx : Keeps R s x) :
    Keeps R s (writeEx x off mask v) := by
  unfold writeEx
  exact (by
    split
    exact every_ite (every_ite (epochStart_keeps kr hx) (epochStop_keeps kr hx)) hx
    exact every_ite (closeCommand_keeps kr hx) hx
    exact plainWrite_keeps kr hx)

theorem writePage_keeps {R dm hm s x u off mask v} (kr : Closed R dm hm) (hx : Keeps R s x) :
    Keeps R s (writePage x u off mask v) := by
  unfold writePage
  exact (by
    split
    exact writeDev_keeps kr hx
    exact writeHi_keeps kr hx
    exact writeMc_keeps kr hx
    exact writeTb_keeps kr hx
    exact writePd_keeps kr hx
    exact writeEx_keeps kr hx
    exact every_ite (every_ite (queryStart_keeps kr hx) hx) (plainWrite_keeps kr hx)
    exact every_ite (every_ite (invalidateStart_keeps kr hx) hx) (plainWrite_keeps kr hx)
    exact every_ite (plainWrite_keeps kr hx) (plainWrite_keeps kr hx)
    exact every_ite (every_ite (commandRetrain_keeps kr hx) hx) (plainWrite_keeps kr hx)
    exact plainWrite_keeps kr hx)

theorem regWrite_keeps {R dm hm s x u off mask v} (kr : Closed R dm hm) (hx : Keeps R s x) :
    Keeps R s (regWrite x u off mask v) := by
  unfold regWrite
  exact every_ite (every_ite (ctrlWrite_keeps kr hx) hx) (every_ite hx (every_ite hx (writePage_keeps kr hx)))

theorem hostWriteAt_keeps {R dm hm s x off size v} (kr : Closed R dm hm) (hx : Keeps R s x) :
    Keeps R s (hostWriteAt x off size v) := by
  unfold hostWriteAt
  exact every_ite hx (every_ite (badAccess_keeps kr hx) (by
    try dsimp only
    split
    exact regWrite_keeps kr hx
    exact every_ite (tallyWrite_keeps kr hx) (badAccess_keeps kr hx)))

theorem execRegisterWrite_keeps {R dm hm s off size val x} (kr : Closed R dm hm) (hx : Keeps R s x) :
    KeepsNext R s (execRegisterWrite off size val x) := by
  unfold execRegisterWrite
  exact keepsNext_mk (hostWriteAt_keeps kr hx)

end Sys2Proof.Machine
end

