-- ==== Sys2Proof/Laws/BootKept.lean ====
section
/-! SUPPORT. What the operations of Machine/Boot.lean keep. -/

namespace Sys2Proof.Machine

open Sys2Proof

theorem applyEntry_keeps {R dm hm s x e} (kr : Closed R dm hm) (hx : Keeps R s x) :
    KeepsFst R s (applyEntry x e) := by
  unfold applyEntry
  exact (by
    split
    exact keepsFst_mk (badAccess_keeps kr hx)
    exact every_keep (fun h1 => every_ite (keepsFst_mk (assayDone_keeps kr h1)) (keepsFst_mk h1)) (regWrite_keeps kr
      hx))

theorem resetDevice_keeps {R hm s x k} (kr : Closed R true hm) (hx : Keeps R s x) : Keeps R s (resetDevice x k) :=
  keeps_iff.2 (kr.reset rfl s x k (keeps_iff.1 hx))

theorem takeMeasures_keeps {R dm hm s x verified} (kr : Closed R dm hm) (hx : Keeps R s x) :
    Keeps R s (takeMeasures x verified) := by
  unfold takeMeasures
  exact keeps_mk kr hx rfl rfl rfl rfl rfl rfl rfl rfl

theorem enterStrongbox_keeps {R hm s x reason detail} (kr : Closed R true hm) (hx : Keeps R s x) :
    Keeps R s (enterStrongbox x reason detail) := by
  unfold enterStrongbox
  exact takeMeasures_keeps kr (setF_keeps kr (setF_keeps kr (mcStatus_keeps kr (setReg_keeps kr (setReg_keeps kr
    (resetDevice_keeps kr hx))))))

theorem countedFailure_keeps {R hm s x reason detail} (kr : Closed R true hm) (hx : Keeps R s x) :
    Keeps R s (countedFailure x reason detail) := by
  unfold countedFailure
  exact every_keep (fun h1 => every_ite (enterStrongbox_keeps kr h1) (keeps_mk kr h1 rfl rfl rfl rfl rfl rfl rfl rfl))
    (logFailure_keeps kr hx)

theorem setFailInfo_keeps {R dm hm s x entry page reason} (kr : Closed R dm hm) (hx : Keeps R s x) :
    Keeps R s (setFailInfo x entry page reason) := by
  unfold setFailInfo
  exact setReg_keeps kr hx

theorem applyEntries_keeps {R hm s a0 a1 x} (kr : Closed R true hm) (hx : Keeps R s x) :
    KeepsFst R s (applyEntries a0 a1 x) := by
  induction a1 generalizing a0 x with
  | nil => rw [applyEntries]; exact keepsFst_mk hx
  | cons e t ih => rw [applyEntries]; exact (by
    split
    exact ih ((keeps_of_pair (applyEntry_keeps kr hx) (by assumption)))
    exact keepsFst_mk (countedFailure_keeps kr (setFailInfo_keeps kr ((keeps_of_pair (applyEntry_keeps kr hx) (by
      assumption))))))

theorem applySpares_keeps {R dm hm s x st} (kr : Closed R dm hm) (hx : Keeps R s x) :
    Keeps R s (applySpares x st) := by
  unfold applySpares
  exact setF_keeps kr (setReg_keeps kr (setStack_keeps kr hx))

theorem auxDown_keeps {R hm s x} (kr : Closed R true hm) (hx : Keeps R s x) : Keeps R s (auxDown x) :=
  keeps_iff.2 (kr.off rfl s x (keeps_iff.1 hx))

theorem mainCheck_keeps {R dm hm s x} (kr : Closed R dm hm) (hx : Keeps R s x) :
    Keeps R s (mainCheck x) := by
  unfold mainCheck
  exact keeps_mk kr hx rfl rfl rfl rfl rfl rfl rfl rfl

theorem auxUp_keeps {R dm hm s x identityOk} (kr : Closed R dm hm) (hx : Keeps R s x) :
    Keeps R s (auxUp x identityOk) := by
  unfold auxUp
  exact replayStore_keeps kr (mcStatus_keeps kr (setF_keeps kr (mainCheck_keeps kr (keeps_mk kr hx rfl rfl rfl rfl rfl
    rfl rfl rfl))))

theorem uncountedFailure_keeps {R hm s x reason detail} (kr : Closed R true hm) (hx : Keeps R s x) :
    Keeps R s (uncountedFailure x reason detail) := by
  unfold uncountedFailure
  exact enterStrongbox_keeps kr (logFailure_keeps kr hx)

theorem bootCounter_keeps {R hm s x} (kr : Closed R true hm) (hx : Keeps R s x) :
    Keeps R s (bootCounter x) := by
  unfold bootCounter
  exact every_ite (uncountedFailure_keeps kr (keeps_mk kr hx rfl rfl rfl rfl rfl rfl rfl rfl)) (every_ite
    (enterStrongbox_keeps kr hx) (keeps_mk kr (writeCount_keeps kr (every_ite (logFailure_keeps kr hx) hx)) rfl rfl
    rfl rfl rfl rfl rfl rfl))

theorem restoreColumns_keeps {R dm hm s x} (kr : Closed R dm hm) (hx : Keeps R s x) :
    Keeps R s (restoreColumns x) := by
  unfold restoreColumns
  exact setF_keeps kr (every_foldOver _ hx (fun _ _ h2 => every_ite (setReg_keeps kr h2) h2))

theorem bootRestart_keeps {R hm s x} (kr : Closed R true hm) (hx : Keeps R s x) :
    Keeps R s (bootRestart x) := by
  unfold bootRestart
  exact every_ite (bootCounter_keeps kr (restoreColumns_keeps kr (keeps_mk kr (newNonce_keeps kr (setSession_keeps kr
    (resetDevice_keeps kr hx))) rfl rfl rfl rfl rfl rfl rfl rfl))) hx

theorem bootWatchdog_keeps {R hm s x} (kr : Closed R true hm) (hx : Keeps R s x) :
    Keeps R s (bootWatchdog x) := by
  unfold bootWatchdog
  exact every_ite (countedFailure_keeps kr (timeUpTo_keeps kr hx)) hx

theorem chooseProfile_keeps {R dm hm s x release} (kr : Closed R dm hm) (hx : Keeps R s x) :
    Keeps R s (chooseProfile x release) := by
  unfold chooseProfile
  exact every_ite (setF_keeps kr (setF_keeps kr (setF_keeps kr hx))) (setF_keeps kr (setF_keeps kr hx))

theorem startDevice_keeps {R hm s x release} (kr : Closed R true hm) (hx : Keeps R s x) :
    Keeps R s (startDevice x release) := by
  unfold startDevice
  exact every_keep (fun h1 => every_keep (fun h2 => every_keep (fun h3 => bootCounter_keeps kr (every_foldOver _ h3
    (fun _ _ h4 => every_ite (startTraining_keeps kr h4) h4))) (restoreColumns_keeps kr (setF_keeps kr h2))) (keeps_mk
    kr h1 rfl rfl rfl rfl rfl rfl rfl rfl)) (newNonce_keeps kr (setSession_keeps kr (chooseProfile_keeps kr
    (mcStatus_keeps kr hx))))

theorem cxlReset_keeps {R hm s x} (kr : Closed R true hm) (hx : Keeps R s x) :
    Keeps R s (cxlReset x) := by
  unfold cxlReset
  exact every_ite (startDevice_keeps kr (resetDevice_keeps kr hx)) hx

theorem execAuxPowerLoss_keeps {R hm s x} (kr : Closed R true hm) (hx : Keeps R s x) :
    KeepsNext R s (execAuxPowerLoss x) := by
  unfold execAuxPowerLoss
  exact keepsNext_mk (every_ite (auxDown_keeps kr hx) hx)

theorem execAuxPowerUp_keeps {R dm hm s identityOk x} (kr : Closed R dm hm) (hx : Keeps R s x) :
    KeepsNext R s (execAuxPowerUp identityOk x) := by
  unfold execAuxPowerUp
  exact keepsNext_mk (every_ite hx (auxUp_keeps kr hx))

theorem execBootRestart_keeps {R hm s x} (kr : Closed R true hm) (hx : Keeps R s x) :
    KeepsNext R s (execBootRestart x) := by
  unfold execBootRestart
  exact keepsNext_mk (bootRestart_keeps kr hx)

theorem execBootWatchdog_keeps {R hm s x} (kr : Closed R true hm) (hx : Keeps R s x) :
    KeepsNext R s (execBootWatchdog x) := by
  unfold execBootWatchdog
  exact keepsNext_mk (bootWatchdog_keeps kr hx)

theorem execCompaction_keeps {R dm hm s x} (kr : Closed R dm hm) (hx : Keeps R s x) :
    KeepsNext R s (execCompaction x) := by
  unfold execCompaction
  exact keepsNext_mk (every_ite (compact_keeps kr hx) hx)

theorem linkTrained_keeps {R dm hm s x width speed} (kr : Closed R dm hm) (hx : Keeps R s x) :
    Keeps R s (linkTrained x width speed) := by
  unfold linkTrained
  exact every_ite (setReg_keeps kr hx) hx

theorem execCxlLinkTrained_keeps {R dm hm s width speed x} (kr : Closed R dm hm) (hx : Keeps R s x) :
    KeepsNext R s (execCxlLinkTrained width speed x) := by
  unfold execCxlLinkTrained
  exact keepsNext_mk (linkTrained_keeps kr hx)

theorem execCxlReset_keeps {R hm s x} (kr : Closed R true hm) (hx : Keeps R s x) :
    KeepsNext R s (execCxlReset x) := by
  unfold execCxlReset
  exact keepsNext_mk (cxlReset_keeps kr hx)

theorem ready_keeps {R dm hm s x} (kr : Closed R dm hm) (hx : Keeps R s x) :
    Keeps R s (ready x) := by
  unfold ready
  refine every_ite hx ?_
  extract_lets s1
  have h1 : Keeps R s s1 := setF_keeps kr (setF_keeps kr (writeCount_keeps kr hx))
  clear_value s1
  exact keeps_mk kr h1 rfl rfl rfl rfl rfl rfl rfl rfl

theorem execDeviceReady_keeps {R dm hm s x} (kr : Closed R dm hm) (hx : Keeps R s x) :
    KeepsNext R s (execDeviceReady x) := by
  unfold execDeviceReady
  exact keepsNext_mk (ready_keeps kr hx)

theorem profilePower_keeps {R dm hm s x} (kr : Closed R dm hm) (hx : Keeps R s x) :
    Keeps R s (profilePower x) := by
  unfold profilePower
  exact every_foldOver _ hx (fun _ _ h1 => every_ite (plainWrite_keeps kr h1) h1)

theorem imageVerify_keeps {R hm s x readOk} (kr : Closed R true hm) (hx : Keeps R s x) :
    Keeps R s (imageVerify x readOk) := by
  unfold imageVerify
  refine every_ite hx (every_ite ?_ (every_ite (uncountedFailure_keeps kr (setReg_keeps kr (mcStatus_keeps kr hx)))
    (uncountedFailure_keeps kr (setReg_keeps kr (mcStatus_keeps kr hx)))))
  extract_lets s1 _ s2
  have h1 : Keeps R s s1 := setF_keeps kr (setReg_keeps kr (mcStatus_keeps kr hx))
  clear_value s1
  exact profilePower_keeps kr (takeMeasures_keeps kr (keeps_mk kr h1 rfl rfl rfl rfl rfl rfl rfl rfl))

theorem execImageVerify_keeps {R hm s readOk x} (kr : Closed R true hm) (hx : Keeps R s x) :
    KeepsNext R s (execImageVerify readOk x) := by
  unfold execImageVerify
  exact keepsNext_mk (imageVerify_keeps kr hx)

theorem loopbackTest_keeps {R hm s x failed} (kr : Closed R true hm) (hx : Keeps R s x) :
    Keeps R s (loopbackTest x failed) := by
  unfold loopbackTest
  exact every_ite hx (by
    split
    exact countedFailure_keeps kr hx
    exact keeps_mk kr hx rfl rfl rfl rfl rfl rfl rfl rfl)

theorem execLoopbackSelftest_keeps {R hm s failed x} (kr : Closed R true hm) (hx : Keeps R s x) :
    KeepsNext R s (execLoopbackSelftest failed x) := by
  unfold execLoopbackSelftest
  exact keepsNext_mk (loopbackTest_keeps kr hx)

theorem firmwareWatchdog_keeps {R hm s x} (kr : Closed R true hm) (hx : Keeps R s x) :
    Keeps R s (firmwareWatchdog x) := by
  unfold firmwareWatchdog
  exact every_ite (countedFailure_keeps kr hx) hx

theorem execMcFirmwareWatchdog_keeps {R hm s x} (kr : Closed R true hm) (hx : Keeps R s x) :
    KeepsNext R s (execMcFirmwareWatchdog x) := by
  unfold execMcFirmwareWatchdog
  exact keepsNext_mk (firmwareWatchdog_keeps kr hx)

theorem restorePageCount_keeps {R dm hm s x} (kr : Closed R dm hm) (hx : Keeps R s x) :
    Keeps R s (restorePageCount x) := by
  unfold restorePageCount
  exact setF_keeps kr hx

theorem memoryTraining_keeps {R hm s x st lanes} (kr : Closed R true hm) (hx : Keeps R s x) :
    Keeps R s (memoryTraining x st lanes) := by
  unfold memoryTraining
  exact every_ite hx (every_keep (fun h1 => every_keep (fun h2 => every_ite (restorePageCount_keeps kr
    (applySpares_keeps kr h2)) (every_ite (countedFailure_keeps kr h2) h2)) (keeps_mk kr h1 rfl rfl rfl rfl rfl rfl
    rfl rfl)) (trainStack_keeps kr hx))

theorem execMemoryTraining_keeps {R hm s stack bad x} (kr : Closed R true hm) (hx : Keeps R s x) :
    KeepsNext R s (execMemoryTraining stack bad x) := by
  unfold execMemoryTraining
  exact keepsNext_mk (memoryTraining_keeps kr hx)

theorem mainOff_keeps {R hm s x} (kr : Closed R true hm) (hx : Keeps R s x) :
    Keeps R s (mainOff x) := by
  unfold mainOff
  exact keeps_mk kr (resetDevice_keeps kr hx) rfl rfl rfl rfl rfl rfl rfl rfl

theorem tripInfo_keeps {R dm hm s x cause sensor value} (kr : Closed R dm hm) (hx : Keeps R s x) :
    Keeps R s (tripInfo x cause sensor value) := by
  unfold tripInfo
  exact setReg_keeps kr hx

theorem supplyFails_keeps {R hm s x cause value} (kr : Closed R true hm) (hx : Keeps R s x) :
    Keeps R s (supplyFails x cause value) := by
  unfold supplyFails
  exact every_keep (fun h1 => every_ite (mainOff_keeps kr (tripInfo_keeps kr h1)) h1) (keeps_mk kr hx rfl rfl rfl rfl
    rfl rfl rfl rfl)

theorem execP54Overvoltage_keeps {R hm s value x} (kr : Closed R true hm) (hx : Keeps R s x) :
    KeepsNext R s (execP54Overvoltage value x) := by
  unfold execP54Overvoltage
  exact keepsNext_mk (every_ite (supplyFails_keeps kr hx) hx)

theorem execP54Undervoltage_keeps {R hm s value x} (kr : Closed R true hm) (hx : Keeps R s x) :
    KeepsNext R s (execP54Undervoltage value x) := by
  unfold execP54Undervoltage
  exact keepsNext_mk (every_ite (supplyFails_keeps kr hx) hx)

theorem execP54WithinRange_keeps {R dm hm s x} (kr : Closed R dm hm) (hx : Keeps R s x) :
    KeepsNext R s (execP54WithinRange x) := by
  unfold execP54WithinRange
  exact keepsNext_mk (mainCheck_keeps kr (keeps_mk kr hx rfl rfl rfl rfl rfl rfl rfl rfl))

theorem perstAssert_keeps {R hm s x} (kr : Closed R true hm) (hx : Keeps R s x) :
    Keeps R s (perstAssert x) := by
  unfold perstAssert
  exact every_ite (resetDevice_keeps kr (keeps_mk kr hx rfl rfl rfl rfl rfl rfl rfl rfl)) hx

theorem execPerstAssert_keeps {R hm s x} (kr : Closed R true hm) (hx : Keeps R s x) :
    KeepsNext R s (execPerstAssert x) := by
  unfold execPerstAssert
  exact keepsNext_mk (perstAssert_keeps kr hx)

theorem perstRelease_keeps {R hm s x pins} (kr : Closed R true hm) (hx : Keeps R s x) :
    Keeps R s (perstRelease x pins) := by
  unfold perstRelease
  exact every_ite hx (startDevice_keeps kr (mcStatus_keeps kr (setF_keeps kr (setF_keeps kr (keeps_mk kr hx rfl rfl
    rfl rfl rfl rfl rfl rfl)))))

theorem execPerstRelease_keeps {R hm s pins x} (kr : Closed R true hm) (hx : Keeps R s x) :
    KeepsNext R s (execPerstRelease pins x) := by
  unfold execPerstRelease
  exact keepsNext_mk (perstRelease_keeps kr hx)

theorem profileApply_keeps {R hm s x} (kr : Closed R true hm) (hx : Keeps R s x) :
    Keeps R s (profileApply x) := by
  unfold profileApply
  refine every_ite hx ?_
  split
  · exact countedFailure_keeps kr (setFailInfo_keeps kr hx)
  · refine every_ite (countedFailure_keeps kr (setFailInfo_keeps kr hx)) ?_
    extract_lets r
    have h1 : KeepsFst R s r := applyEntries_keeps kr (setF_keeps kr hx)
    clear_value r
    exact every_ite (keeps_mk kr (keeps_fst h1) rfl rfl rfl rfl rfl rfl rfl rfl) (keeps_fst h1)

theorem execProfileApply_keeps {R hm s x} (kr : Closed R true hm) (hx : Keeps R s x) :
    KeepsNext R s (execProfileApply x) := by
  unfold execProfileApply
  exact keepsNext_mk (profileApply_keeps kr hx)

theorem execPwrGood_keeps {R dm hm s x} (kr : Closed R dm hm) (hx : Keeps R s x) :
    KeepsNext R s (execPwrGood x) := by
  unfold execPwrGood
  exact keepsNext_mk (mainCheck_keeps kr (keeps_mk kr hx rfl rfl rfl rfl rfl rfl rfl rfl))

theorem pwrGoodOff_keeps {R hm s x} (kr : Closed R true hm) (hx : Keeps R s x) :
    Keeps R s (pwrGoodOff x) := by
  unfold pwrGoodOff
  exact every_keep (fun h1 => every_ite (mainOff_keeps kr (every_ite (tripInfo_keeps kr h1) h1)) h1) (keeps_mk kr hx
    rfl rfl rfl rfl rfl rfl rfl rfl)

theorem execPwrGoodDeassert_keeps {R hm s x} (kr : Closed R true hm) (hx : Keeps R s x) :
    KeepsNext R s (execPwrGoodDeassert x) := by
  unfold execPwrGoodDeassert
  exact keepsNext_mk (pwrGoodOff_keeps kr hx)

theorem recordWrite_keeps {R dm hm s x torn} (kr : Closed R dm hm) (hx : Keeps R s x) :
    Keeps R s (recordWrite x torn) := by
  unfold recordWrite
  exact (by
    split
    exact hx
    exact every_keep (fun h1 => every_ite (raiseErr_keeps kr h1) h1) (putRecord_keeps kr (keeps_mk kr hx rfl rfl rfl
      rfl rfl rfl rfl rfl)))

theorem execRecordWrite_keeps {R dm hm s torn x} (kr : Closed R dm hm) (hx : Keeps R s x) :
    KeepsNext R s (execRecordWrite torn x) := by
  unfold execRecordWrite
  exact keepsNext_mk (every_ite (recordWrite_keeps kr hx) hx)

theorem thermalTrip_keeps {R hm s x sensor value} (kr : Closed R true hm) (hx : Keeps R s x) :
    Keeps R s (thermalTrip x sensor value) := by
  unfold thermalTrip
  exact every_ite hx (mainOff_keeps kr (keeps_mk kr (tripInfo_keeps kr hx) rfl rfl rfl rfl rfl rfl rfl rfl))

theorem execThermalTrip_keeps {R hm s sensor value x} (kr : Closed R true hm) (hx : Keeps R s x) :
    KeepsNext R s (execThermalTrip sensor value x) := by
  unfold execThermalTrip
  exact keepsNext_mk (thermalTrip_keeps kr hx)

end Sys2Proof.Machine
end

