-- ==== Sys2Proof/Laws/CodecKept.lean ====
section
/-! SUPPORT. What the operations of Machine/Codec.lean keep. -/

namespace Sys2Proof.Machine

open Sys2Proof

theorem keepsEmitted_mk {R s x off tiles dense bytes stop} (h : Keeps R s x) : KeepsAt Emitted.s R s ⟨x, off, tiles, dense, bytes, stop⟩ := h

theorem keepsExpanded_mk {R s x stop} (h : Keeps R s x) : KeepsAt Expanded.s R s ⟨x, stop⟩ := h

theorem codecEnd_keeps {R dm hm s x u slip flags} (kr : Closed R dm hm) (hx : Keeps R s x) :
    Keeps R s (codecEnd x u slip flags) := by
  unfold codecEnd
  exact (by
    split
    exact finishBad_keeps kr (setReg_keeps kr hx)
    exact finishOk_keeps kr hx)

theorem codecTallies_keeps {R dm hm s x d ps} (kr : Closed R dm hm) (hx : Keeps R s x) :
    Keeps R s (codecTallies x d ps) := by
  unfold codecTallies
  exact tallyMax_keeps kr (engineTally_keeps kr hx)

theorem readSource_keeps {R dm hm s x u t} (kr : Closed R dm hm) (hx : Keeps R s x) :
    KeepsFst R s (readSource x u t) := by
  unfold readSource
  exact every_keep (fun h1 => keepsFst_mk (keeps_fst (every_ite (keepsFst_mk (keeps_fst (engineLoad_keeps kr
    (keeps_fst (engineLoad_keeps kr (keeps_fst (engineLoad_keeps kr (keeps_fst h1)))))))) (every_ite (keepsFst_mk
    (keeps_fst (engineLoad_keeps kr (keeps_fst h1)))) (keepsFst_mk (keeps_fst h1)))))) (readRows_keeps kr hx)

theorem emitTile_keeps {R hm s u t tile rows e} (kr : Closed R true hm) (he : KeepsAt Emitted.s R s e) :
    KeepsAt Emitted.s R s (emitTile u t tile rows e) := by
  unfold emitTile
  exact every_ite he (every_ite (keepsEmitted_mk (keeps_at he)) (keepsEmitted_mk (bump64_keeps kr (bump64_keeps kr
    (bump64_keeps kr (engineStore_keeps kr (engineStore_keeps kr (keeps_at he))))))))

theorem countElements_keeps {R dm hm s x u limit} (kr : Closed R dm hm) (hx : Keeps R s x) :
    Keeps R s (countElements x u limit) := by
  unfold countElements
  exact bump64_keeps kr hx

theorem compressRun_keeps {R hm s u t x} (kr : Closed R true hm) (hx : Keeps R s x) :
    Keeps R s (compressRun u t x) := by
  unfold compressRun
  extract_lets d r src code cols rows flags nt cell whole tiles e s1 s2
  have h1 : KeepsFst R s r := readSource_keeps kr hx
  have h2 : KeepsAt Emitted.s R s e := every_foldOver _ (keepsEmitted_mk (keeps_fst h1)) fun _ _ h => emitTile_keeps kr h
  have h3 : Keeps R s s2 := countElements_keeps kr (engineTally_keeps kr (codecTallies_keeps kr (keeps_at h2)))
  split
  · exact finishBad_keeps kr h3
  · exact codecEnd_keeps kr h3

theorem writeScales_keeps {R hm s x u t rows total scales} (kr : Closed R true hm) (hx : Keeps R s x) :
    Keeps R s (writeScales x u t rows total scales) := by
  unfold writeScales
  exact every_ite (engineStore_keeps kr (engineStore_keeps kr (engineStore_keeps kr hx))) hx

theorem writeSums_keeps {R hm s x u t val} (kr : Closed R true hm) (hx : Keeps R s x) :
    Keeps R s (writeSums x u t val) := by
  unfold writeSums
  exact every_ite (every_foldOver _ hx (fun _ _ h1 => every_foldOver _ h1 (fun _ _ h2 => every_ite h2
    (engineStore_keeps kr h2)))) hx

theorem convertRun_keeps {R hm s u t x} (kr : Closed R true hm) (hx : Keeps R s x) :
    Keeps R s (convertRun u t x) := by
  unfold convertRun
  exact codecEnd_keeps kr (countElements_keeps kr (codecTallies_keeps kr (writeSums_keeps kr (writeScales_keeps kr
    (writeRows_keeps kr (keeps_fst (readSource_keeps kr hx)))))))

theorem execCompress_keeps {R hm s qc x} (kr : Closed R true hm) (hx : Keeps R s x) :
    KeepsNext R s (execCompress qc x) := by
  unfold execCompress
  exact keepsNext_mk (runFront_keeps kr hx (fun _ _ h1 => compressRun_keeps kr h1))

theorem execConvert_keeps {R hm s qc x} (kr : Closed R true hm) (hx : Keeps R s x) :
    KeepsNext R s (execConvert qc x) := by
  unfold execConvert
  exact keepsNext_mk (runFront_keeps kr (undefinedOp_keeps kr hx) (fun _ _ h1 => convertRun_keeps kr h1))

theorem expandTile_keeps {R hm s u t tile e} (kr : Closed R true hm) (he : KeepsAt Expanded.s R s e) :
    KeepsAt Expanded.s R s (expandTile u t tile e) := by
  unfold expandTile
  exact every_ite he (every_keep (fun h1 => every_keep (fun h2 => every_ite (keepsExpanded_mk (keeps_fst h2))
    (keepsExpanded_mk (writeRows_keeps kr (keeps_fst (engineLoad_keeps kr (keeps_fst h2)))))) (engineLoad_keeps kr
    (keeps_fst h1))) (engineLoad_keeps kr (keeps_at he)))

theorem expandRun_keeps {R hm s u t x} (kr : Closed R true hm) (hx : Keeps R s x) :
    Keeps R s (expandRun u t x) := by
  unfold expandRun
  exact every_keep (fun h1 => (by
    try dsimp only
    split
    exact finishBad_keeps kr (setReg_keeps kr (keeps_at h1))
    exact finishOk_keeps kr (keeps_at h1))) (every_foldOver _ (keepsExpanded_mk hx) (fun _ _ h2 => expandTile_keeps kr
    h2))

theorem execDecompress_keeps {R hm s qc x} (kr : Closed R true hm) (hx : Keeps R s x) :
    KeepsNext R s (execDecompress qc x) := by
  unfold execDecompress
  exact keepsNext_mk (runFront_keeps kr hx (fun _ _ h1 => expandRun_keeps kr h1))

theorem pruneRun_keeps {R hm s u t x} (kr : Closed R true hm) (hx : Keeps R s x) :
    Keeps R s (pruneRun u t x) := by
  unfold pruneRun
  exact codecEnd_keeps kr (countElements_keeps kr (bump64_keeps kr (codecTallies_keeps kr (writeSums_keeps kr
    (writeScales_keeps kr (writeRows_keeps kr (writeRows_keeps kr (keeps_fst (readSource_keeps kr hx)))))))))

theorem execPrune24_keeps {R hm s qc x} (kr : Closed R true hm) (hx : Keeps R s x) :
    KeepsNext R s (execPrune24 qc x) := by
  unfold execPrune24
  exact keepsNext_mk (runFront_keeps kr hx (fun _ _ h1 => pruneRun_keeps kr h1))

end Sys2Proof.Machine
end

