-- ==== Sys2Proof/Laws/CollectiveKept.lean ====
section
/-! SUPPORT. What the operations of Machine/Collective.lean keep. -/

namespace Sys2Proof.Machine

open Sys2Proof

theorem announceSlow_keeps {R dm hm s x} (kr : Closed R dm hm) (hx : Keeps R s x) :
    Keeps R s (announceSlow x) := by
  unfold announceSlow
  exact every_ite hx (every_keep (fun h1 => every_keep (fun h2 => every_foldOver _ h2 (fun _ _ h3 => (by
    split
    exact every_foldOver _ h3 (fun _ _ h4 => every_ite h4 (sendMessage_keeps kr h4))
    exact h3))) (every_foldOver _ h1 (fun _ _ h5 => setF_keeps kr h5))) (keeps_mk kr hx rfl rfl rfl rfl rfl rfl rfl
    rfl))

theorem sendStep_keeps {R dm hm s x u t r k} (kr : Closed R dm hm) (hx : Keeps R s x) :
    KeepsFst R s (sendStep x u t r k) := by
  unfold sendStep
  exact keepsFst_mk (bump64_keeps kr (sendMessage_keeps kr hx))

theorem setCo_keeps {R dm hm s x u r} (kr : Closed R dm hm) (hx : Keeps R s x) :
    Keeps R s (setCo x u r) := by
  unfold setCo
  exact setEng_keeps kr hx

theorem coAdvance_keeps {R dm hm s x u} (kr : Closed R dm hm) (hx : Keeps R s x) :
    Keeps R s (coAdvance x u) := by
  unfold coAdvance
  exact (by
    split
    exact hx
    exact every_ite (setCo_keeps kr (keeps_fst (sendStep_keeps kr hx))) hx)

theorem coOperand_keeps {R dm hm s x u t} (kr : Closed R dm hm) (hx : Keeps R s x) :
    KeepsFst R s (coOperand x u t) := by
  unfold coOperand
  exact every_ite (keepsFst_mk hx) (every_keep (fun h1 => every_ite (keepsFst_mk (keeps_fst h1)) (keepsFst_mk
    (keeps_fst h1))) (engineLoad_keeps kr hx))

theorem coSettle_keeps {R hm s x u} (kr : Closed R true hm) (hx : Keeps R s x) :
    Keeps R s (coSettle x u) := by
  unfold coSettle
  exact (by
    split
    exact hx
    exact every_keep (fun h1 => every_keep (fun h2 => (by
      try dsimp only
      split
      exact every_ite (finishOk_keeps kr h2) h2
      exact h2)) (setF_keeps kr h1)) (every_ite hx (setCo_keeps kr (every_ite hx (engineStore_keeps kr hx)))))

theorem readMembers_keeps {R dm hm s x u t} (kr : Closed R dm hm) (hx : Keeps R s x) :
    KeepsFst R s (readMembers x u t) := by
  unfold readMembers
  exact keepsFst_mk (keeps_fst (engineLoad_keeps kr hx))

theorem coStart_keeps {R hm s u t x} (kr : Closed R true hm) (hx : Keeps R s x) :
    Keeps R s (coStart u t x) := by
  unfold coStart
  exact every_ite hx (coSettle_keeps kr (coAdvance_keeps kr (setCo_keeps kr (keeps_fst (coOperand_keeps kr (keeps_fst
    (readMembers_keeps kr hx)))))))

theorem coWaits_keeps {R dm hm s x u} (kr : Closed R dm hm) (hx : Keeps R s x) :
    Keeps R s (coWaits x u) := by
  unfold coWaits
  exact (by
    split
    exact setF_keeps kr hx
    exact hx)

theorem collAck_keeps {R hm s x} (kr : Closed R true hm) (hx : Keeps R s x) :
    Keeps R s (collAck x) := by
  unfold collAck
  exact (by
    split
    exact hx
    exact (by
      try dsimp only
      split
      exact stray_keeps kr ((keeps_of_some_snd (takeMessage_keeps kr hx) (by assumption)))
      exact (by
        split
        exact coSettle_keeps kr (setCo_keeps kr ((keeps_of_some_snd (takeMessage_keeps kr hx) (by assumption))))
        exact (keeps_of_some_snd (takeMessage_keeps kr hx) (by assumption)))))

theorem collData_keeps {R hm s x} (kr : Closed R true hm) (hx : Keeps R s x) :
    Keeps R s (collData x) := by
  unfold collData
  exact every_ite hx (by
    split
    exact hx
    exact (by
      split
      exact stray_keeps kr ((keeps_of_some_snd (takeMessage_keeps kr hx) (by assumption)))
      exact (by
        split
        exact (keeps_of_some_snd (takeMessage_keeps kr hx) (by assumption))
        exact coSettle_keeps kr (coAdvance_keeps kr (sendMessage_keeps kr (setCo_keeps kr ((keeps_of_some_snd
          (takeMessage_keeps kr hx) (by assumption)))))))))

theorem runCollective_keeps {R hm s co op x} (kr : Closed R true hm) (hx : Keeps R s x) :
    Keeps R s (runCollective co op x) := by
  unfold runCollective
  exact coWaits_keeps kr (runFront_keeps kr (undefinedOp_keeps kr hx) (fun _ _ h1 => coStart_keeps kr h1))

theorem execAllGather_keeps {R hm s co x} (kr : Closed R true hm) (hx : Keeps R s x) :
    KeepsNext R s (execAllGather co x) := by
  unfold execAllGather
  exact keepsNext_mk (runCollective_keeps kr hx)

theorem execAllReduce_keeps {R hm s co x} (kr : Closed R true hm) (hx : Keeps R s x) :
    KeepsNext R s (execAllReduce co x) := by
  unfold execAllReduce
  exact keepsNext_mk (runCollective_keeps kr hx)

theorem execBarrier_keeps {R hm s co x} (kr : Closed R true hm) (hx : Keeps R s x) :
    KeepsNext R s (execBarrier co x) := by
  unfold execBarrier
  exact keepsNext_mk (runCollective_keeps kr hx)

theorem execCollAck_keeps {R hm s x} (kr : Closed R true hm) (hx : Keeps R s x) :
    KeepsNext R s (execCollAck x) := by
  unfold execCollAck
  exact keepsNext_mk (orWait_keeps kr hx (fun _ h1 => collAck_keeps kr h1))

theorem execCollData_keeps {R hm s x} (kr : Closed R true hm) (hx : Keeps R s x) :
    KeepsNext R s (execCollData x) := by
  unfold execCollData
  exact keepsNext_mk (orWait_keeps kr hx (fun _ h1 => collData_keeps kr h1))

theorem peerStall_keeps {R dm hm s x u} (kr : Closed R dm hm) (hx : Keeps R s x) :
    Keeps R s (peerStall x u) := by
  unfold peerStall
  exact (by
    split
    exact hx
    exact every_ite (keeps_mk kr (setCo_keeps kr (raiseErr_keeps kr (setReg_keeps kr (timeUpTo_keeps kr hx)))) rfl rfl
      rfl rfl rfl rfl rfl rfl) hx)

theorem execPeerStall_keeps {R dm hm s co x} (kr : Closed R dm hm) (hx : Keeps R s x) :
    KeepsNext R s (execPeerStall co x) := by
  unfold execPeerStall
  exact keepsNext_mk (peerStall_keeps kr hx)

theorem execReduceScatter_keeps {R hm s co x} (kr : Closed R true hm) (hx : Keeps R s x) :
    KeepsNext R s (execReduceScatter co x) := by
  unfold execReduceScatter
  exact keepsNext_mk (runCollective_keeps kr hx)

theorem slowMessage_keeps {R dm hm s x} (kr : Closed R dm hm) (hx : Keeps R s x) :
    Keeps R s (slowMessage x) := by
  unfold slowMessage
  exact (by
    split
    exact hx
    exact every_foldOver _ (noteSlow_keeps kr ((keeps_of_some_snd (takeMessage_keeps kr hx) (by assumption)))) (fun _
      _ h1 => (by
      split
      exact every_ite (setReg_keeps kr h1) h1
      exact h1)))

theorem execSlow_keeps {R dm hm s x} (kr : Closed R dm hm) (hx : Keeps R s x) :
    KeepsNext R s (execSlow x) := by
  unfold execSlow
  exact keepsNext_mk (slowMessage_keeps kr hx)

end Sys2Proof.Machine
end

