-- ==== Sys2Proof/Laws/ControlKept.lean ====
section
/-! SUPPORT. What the operations of Machine/Control.lean keep. -/

namespace Sys2Proof.Machine

open Sys2Proof

theorem pairFails_keeps {R dm hm s x u errBit kind} (kr : Closed R dm hm) (hx : Keeps R s x) :
    Keeps R s (pairFails x u errBit kind) := by
  unfold pairFails
  exact retireUnit_keeps kr (setF_keeps kr (setF_keeps kr (reportFault_keeps kr (raiseErr_keeps kr hx))))

theorem evalCond_keeps {R dm hm s x seq u agree} (kr : Closed R dm hm) (hx : Keeps R s x) :
    Keeps R s (evalCond x seq u agree) := by
  unfold evalCond
  exact (by
    split
    exact hx
    exact every_ite (settle_keeps kr (endWith_keeps kr hx)) (every_ite hx (every_ite (pairFails_keeps kr hx)
      (every_keep (fun h1 => settle_keeps kr (endTask_keeps kr (every_ite (bump64_keeps kr h1) h1))) (bump_keeps kr
      hx)))))

theorem readmit_keeps {R dm hm s t0 x} (kr : Closed R dm hm) (hx : Keeps R s x) :
    Keeps R s (readmit t0 x) := by
  unfold readmit
  exact (by
    split
    exact hx
    exact every_keep (fun h1 => every_keep (fun h2 => every_keep (fun h3 => every_keep (fun h4 => (by
      try dsimp only
      split
      exact endTask_keeps kr h4
      exact h4)) (setTask_keeps kr (keeps_fst h3))) (pinTable_keeps kr (keeps_fst h2))) (admissionEnd_keeps kr h1))
      (bump64_keeps kr hx))

theorem evalRetry_keeps {R dm hm s x seq u agree} (kr : Closed R dm hm) (hx : Keeps R s x) :
    Keeps R s (evalRetry x seq u agree) := by
  unfold evalRetry
  exact (by
    split
    exact hx
    exact every_ite hx (every_ite (pairFails_keeps kr hx) (every_keep (fun h1 => every_ite (settle_keeps kr
      (endTask_keeps kr h1)) (every_ite (settle_keeps kr (endTask_keeps kr h1)) (every_keep (fun h2 => every_keep (fun
      h3 => settle_keeps kr (every_foldOver _ (setTask_keeps kr h3) (fun _ _ h4 => readmit_keeps kr h4)))
      (queueRecord_keeps kr h2)) (every_foldOver _ (bump64_keeps kr h1) (fun _ _ h5 => setLive_keeps kr h5)))))
      (bump_keeps kr hx))))

theorem execCcWatchdog_keeps {R dm hm s cc x} (kr : Closed R dm hm) (hx : Keeps R s x) :
    KeepsNext R s (execCcWatchdog cc x) := by
  unfold execCcWatchdog
  exact keepsNext_mk (every_ite (pairFails_keeps kr hx) hx)

theorem execCond_keeps {R dm hm s seq cc agree x} (kr : Closed R dm hm) (hx : Keeps R s x) :
    KeepsNext R s (execCond seq cc agree x) := by
  unfold execCond
  exact keepsNext_mk (evalCond_keeps kr hx)

theorem execRetry_keeps {R dm hm s seq cc agree x} (kr : Closed R dm hm) (hx : Keeps R s x) :
    KeepsNext R s (execRetry seq cc agree x) := by
  unfold execRetry
  exact keepsNext_mk (evalRetry_keeps kr hx)

end Sys2Proof.Machine
end

