-- ==== Sys2Proof/Laws/EscrowKept.lean ====
section
/-! SUPPORT. What the operations of Machine/Escrow.lean keep. -/

namespace Sys2Proof.Machine

open Sys2Proof

theorem contain_keeps {R dm hm s x} (kr : Closed R dm hm) (hx : Keeps R s x) :
    Keeps R s (contain x) := by
  unfold contain
  exact setF_keeps kr (setPhase_keeps kr hx)

theorem noteFault_keeps {R dm hm s x device q i reason} (kr : Closed R dm hm) (hx : Keeps R s x) :
    Keeps R s (noteFault x device q i reason) := by
  unfold noteFault
  exact setReg_keeps kr (setReg_keeps kr hx)

theorem noteOther_keeps {R dm hm s x device reason} (kr : Closed R dm hm) (hx : Keeps R s x) :
    Keeps R s (noteOther x device reason) := by
  unfold noteOther
  exact noteFault_keeps kr (keeps_fst (drawFree_keeps kr (keeps_fst (drawFree_keeps kr hx))))

theorem abortEpochNow_keeps {R dm hm s x e reason device} (kr : Closed R dm hm) (hx : Keeps R s x) :
    Keeps R s (abortEpochNow x e reason device) := by
  unfold abortEpochNow
  exact every_keep (fun h1 => keeps_mk kr (tokenDown_keeps kr (pushErr_keeps kr (every_ite h1 (noteOther_keeps kr
    h1)))) rfl rfl rfl rfl rfl rfl rfl rfl) (raiseErr_keeps kr (setReg_keeps kr (contain_keeps kr hx)))

theorem offerAgain_keeps {R dm hm s x} (kr : Closed R dm hm) (hx : Keeps R s x) :
    Keeps R s (offerAgain x) := by
  unfold offerAgain
  exact every_foldOver _ hx (fun _ _ h1 => every_ite (setRing_keeps kr h1) h1)

theorem replayLog_keeps {R hm s x} (kr : Closed R true hm) (hx : Keeps R s x) :
    Keeps R s (replayLog x) := by
  unfold replayLog
  exact settle_keeps kr (every_foldOver _ hx (fun _ _ h1 => enterTask_keeps kr h1))

theorem resume_keeps {R hm s x} (kr : Closed R true hm) (hx : Keeps R s x) :
    Keeps R s (resume x) := by
  unfold resume
  exact offerAgain_keeps kr (replayLog_keeps kr (pushErr_keeps kr (raiseInt_keeps kr (keeps_mk kr (setF_keeps kr
    (setF_keeps kr (setPhase_keeps kr (setF_keeps kr (setReg_keeps kr hx))))) rfl rfl rfl rfl rfl rfl rfl rfl))))

theorem reportCheck_keeps {R hm s x} (kr : Closed R true hm) (hx : Keeps R s x) :
    Keeps R s (reportCheck x) := by
  unfold reportCheck
  exact every_keep (fun h1 => every_ite (every_ite (every_ite (resume_keeps kr (tokenDown_keeps kr h1)) h1) (keeps_mk
    kr (tokenUp_keeps kr h1) rfl rfl rfl rfl rfl rfl rfl rfl)) h1) (every_ite hx (setF_keeps kr hx))

theorem domainFault_keeps {R dm hm s x reason device u} (kr : Closed R dm hm) (hx : Keeps R s x) :
    Keeps R s (domainFault x reason device u) := by
  unfold domainFault
  exact every_ite hx (keeps_mk kr (pushAer_keeps kr (pushErr_keeps kr (raiseErr_keeps kr (setF_keeps kr
    (setPhase_keeps kr (tokenDown_keeps kr hx)))))) rfl rfl rfl rfl rfl rfl rfl rfl)

theorem rootReport_keeps {R dm hm s x e reason device u} (kr : Closed R dm hm) (hx : Keeps R s x) :
    Keeps R s (rootReport x e reason device u) := by
  unfold rootReport
  exact every_ite (domainFault_keeps kr hx) (every_ite hx (abortEpochNow_keeps kr hx))

theorem reportUp_keeps {R dm hm s x e reason device u} (kr : Closed R dm hm) (hx : Keeps R s x) :
    Keeps R s (reportUp x e reason device u) := by
  unfold reportUp
  exact every_ite (rootReport_keeps kr hx) (tokenUp_keeps kr hx)

theorem abortToken_keeps {R hm s x k} (kr : Closed R true hm) (hx : Keeps R s x) :
    Keeps R s (abortToken x k) := by
  unfold abortToken
  exact every_ite hx (every_ite (every_ite (every_ite (reportCheck_keeps kr (keeps_mk kr hx rfl rfl rfl rfl rfl rfl
    rfl rfl)) hx) (every_ite hx (reportUp_keeps kr hx))) (every_ite (every_ite (domainFault_keeps kr (every_ite hx
    (noteOther_keeps kr hx))) (every_ite hx (abortEpochNow_keeps kr hx))) hx))

theorem clearEngine_keeps {R dm hm s u x} (kr : Closed R dm hm) (hx : Keeps R s x) :
    Keeps R s (clearEngine u x) := by
  unfold clearEngine
  exact every_keep (fun h1 => setEng_keeps kr (every_ite (setF_keeps kr h1) (every_ite (setF_keeps kr h1) h1)))
    (every_foldOver _ hx (fun _ _ h3 => dropFromTill_keeps kr h3))

theorem commitToken_keeps {R hm s x k} (kr : Closed R true hm) (hx : Keeps R s x) :
    Keeps R s (commitToken x k) := by
  unfold commitToken
  exact every_ite hx (every_ite (decideCommit_keeps kr hx) (every_ite (resume_keeps kr (tokenDown_keeps kr hx)) hx))

theorem detect_keeps {R dm hm s x f} (kr : Closed R dm hm) (hx : Keeps R s x) :
    Keeps R s (detect x f) := by
  unfold detect
  exact every_ite hx (every_keep (fun h1 => every_keep (fun h2 => every_keep (fun h3 => every_ite (keeps_mk kr
    (raiseErr_keeps kr h3) rfl rfl rfl rfl rfl rfl rfl rfl) (every_keep (fun h5 => reportUp_keeps kr (every_ite h5
    (contain_keeps kr h5))) (keeps_mk kr h3 rfl rfl rfl rfl rfl rfl rfl rfl))) (keeps_mk kr h2 rfl rfl rfl rfl rfl rfl
    rfl rfl)) (pushErr_keeps kr h1)) (noteFault_keeps kr (raiseErr_keeps kr hx)))

theorem diagnose_keeps {R dm hm s failed u x} (kr : Closed R dm hm) (hx : Keeps R s x) :
    Keeps R s (diagnose failed u x) := by
  unfold diagnose
  exact every_ite (retireUnit_keeps kr hx) hx

theorem diagnosis_keeps {R hm s x failed} (kr : Closed R true hm) (hx : Keeps R s x) :
    Keeps R s (diagnosis x failed) := by
  unfold diagnosis
  exact every_ite (by
    split
    exact reportUp_keeps kr (noteFault_keeps kr hx)
    exact every_keep (fun h1 => reportCheck_keeps kr (keeps_mk kr (every_foldOver _ h1 (fun _ _ h3 => setF_keeps kr
      h3)) rfl rfl rfl rfl rfl rfl rfl rfl)) (passRole_keeps kr (every_foldOver _ hx (fun _ _ h4 => diagnose_keeps kr
      h4)))) hx

theorem discardTraffic_keeps {R dm hm s x} (kr : Closed R dm hm) (hx : Keeps R s x) :
    Keeps R s (discardTraffic x) := by
  unfold discardTraffic
  exact every_keep (fun h1 => every_keep (fun h2 => every_foldOver _ (setBatches_keeps kr h2) (fun _ _ h3 =>
    setF_keeps kr h3)) (keeps_mk kr h1 rfl rfl rfl rfl rfl rfl rfl rfl)) (every_foldOver _ hx (fun _ _ h4 => (by
    split
    exact oweCredits_keeps kr h4
    exact h4)))

theorem drainForRestore_keeps {R hm s b x} (kr : Closed R true hm) (hx : Keeps R s x) :
    Keeps R s (drainForRestore b x) := by
  unfold drainForRestore
  exact every_ite (setBank_keeps kr hx) (drainOldest_keeps kr (keeps_mk kr hx rfl rfl rfl rfl rfl rfl rfl rfl))

theorem drainQuarter_keeps {R hm s x q} (kr : Closed R true hm) (hx : Keeps R s x) :
    Keeps R s (drainQuarter x q) := by
  unfold drainQuarter
  exact every_foldOver _ hx (fun _ _ h1 => every_iter _ h1 (fun _ _ h2 => drainForRestore_keeps kr h2))

theorem execCommitAbort_keeps {R hm s x} (kr : Closed R true hm) (hx : Keeps R s x) :
    KeepsNext R s (execCommitAbort x) := by
  unfold execCommitAbort
  exact keepsNext_mk (by
    split
    exact abortToken_keeps kr ((keeps_of_some_snd (takeToken_keeps kr hx) (by assumption)))
    exact hx)

theorem execCommitCommit_keeps {R hm s x} (kr : Closed R true hm) (hx : Keeps R s x) :
    KeepsNext R s (execCommitCommit x) := by
  unfold execCommitCommit
  exact keepsNext_mk (by
    split
    exact commitToken_keeps kr ((keeps_of_some_snd (takeToken_keeps kr hx) (by assumption)))
    exact hx)

theorem execDiagnosis_keeps {R hm s failed x} (kr : Closed R true hm) (hx : Keeps R s x) :
    KeepsNext R s (execDiagnosis failed x) := by
  unfold execDiagnosis
  exact keepsNext_mk (diagnosis_keeps kr hx)

theorem fabricDrain_keeps {R dm hm s x} (kr : Closed R dm hm) (hx : Keeps R s x) :
    Keeps R s (fabricDrain x) := by
  unfold fabricDrain
  exact every_ite (every_keep (fun h1 => keeps_mk kr (every_foldOver _ h1 (fun _ _ h3 => setF_keeps kr (setF_keeps kr
    h3))) rfl rfl rfl rfl rfl rfl rfl rfl) (discardTraffic_keeps kr hx)) hx

theorem execFabricDrain_keeps {R dm hm s x} (kr : Closed R dm hm) (hx : Keeps R s x) :
    KeepsNext R s (execFabricDrain x) := by
  unfold execFabricDrain
  exact keepsNext_mk (fabricDrain_keeps kr hx)

theorem noteAlone_keeps {R dm hm s x u kind} (kr : Closed R dm hm) (hx : Keeps R s x) :
    Keeps R s (noteAlone x u kind) := by
  unfold noteAlone
  exact (by
    split
    exact bump_keeps kr (raiseErr_keeps kr hx)
    exact every_ite (raiseErr_keeps kr hx) hx
    exact hx)

theorem faultReport_keeps {R dm hm s x u kind} (kr : Closed R dm hm) (hx : Keeps R s x) :
    Keeps R s (faultReport x u kind) := by
  unfold faultReport
  exact (by
    try dsimp only
    split
    exact detect_keeps kr (keeps_mk kr hx rfl rfl rfl rfl rfl rfl rfl rfl)
    exact every_ite (detect_keeps kr (noteAlone_keeps kr hx)) hx)

theorem execFaultReport_keeps {R dm hm s unit kind x} (kr : Closed R dm hm) (hx : Keeps R s x) :
    KeepsNext R s (execFaultReport unit kind x) := by
  unfold execFaultReport
  exact keepsNext_mk (faultReport_keeps kr hx)

theorem invalidateQuarter_keeps {R dm hm s x q} (kr : Closed R dm hm) (hx : Keeps R s x) :
    Keeps R s (invalidateQuarter x q) := by
  unfold invalidateQuarter
  exact every_foldOver _ hx (fun _ _ h1 => setF_keeps kr (setBank_keeps kr h1))

theorem undoBack_keeps {R hm s q e x} (kr : Closed R true hm) (hx : Keeps R s x) :
    Keeps R s (undoBack q e x) := by
  unfold undoBack
  exact every_keep (fun h1 => every_keep (fun h2 => every_ite (reportFault_keeps kr h2) h2) (keeps_mk kr h1 rfl rfl
    rfl rfl rfl rfl rfl rfl)) (copyRange_keeps kr hx)

theorem restorePages_keeps {R hm s x q} (kr : Closed R true hm) (hx : Keeps R s x) :
    Keeps R s (restorePages x q) := by
  unfold restorePages
  exact setF_keeps kr (setReg_keeps kr (setReg_keeps kr (bump64_keeps kr (keeps_mk kr (every_foldOver _ hx (fun _ _ h4 =>
    undoBack_keeps kr h4)) rfl rfl rfl rfl rfl rfl rfl rfl))))

theorem refetch_keeps {R dm hm s x} (kr : Closed R dm hm) (hx : Keeps R s x) :
    Keeps R s (refetch x) := by
  unfold refetch
  exact every_foldOver _ hx (fun _ _ h1 => setRing_keeps kr h1)

theorem restoreLedgers_keeps {R dm hm s x} (kr : Closed R dm hm) (hx : Keeps R s x) :
    Keeps R s (restoreLedgers x) := by
  unfold restoreLedgers
  extract_lets s1 l s2 _e
  have h1 : Keeps R s s1 := every_foldOver _ (tallyRollback_keeps kr hx) fun _ _ h => clearEngine_keeps kr h
  have h2 : Keeps R s s2 := refetch_keeps kr (keeps_mk kr h1 rfl rfl rfl rfl rfl rfl rfl rfl)
  exact keeps_mk kr h2 rfl rfl rfl rfl rfl rfl rfl rfl

theorem restoreDevice_keeps {R dm hm s x} (kr : Closed R dm hm) (hx : Keeps R s x) :
    Keeps R s (restoreDevice x) := by
  unfold restoreDevice
  exact flushReplicas_keeps kr (keeps_mk kr (restoreLedgers_keeps kr hx) rfl rfl rfl rfl rfl rfl rfl rfl)

theorem quarterDone_keeps {R dm hm s x q} (kr : Closed R dm hm) (hx : Keeps R s x) :
    Keeps R s (quarterDone x q) := by
  unfold quarterDone
  exact every_keep (fun h1 => every_ite (bump64_keeps kr h1) h1) (keeps_mk kr hx rfl rfl rfl rfl rfl rfl rfl rfl)

theorem restoreQuarter_keeps {R hm s x q} (kr : Closed R true hm) (hx : Keeps R s x) :
    Keeps R s (restoreQuarter x q) := by
  unfold restoreQuarter
  exact every_ite (every_keep (fun h1 => reportCheck_keeps kr (quarterDone_keeps kr (setF_keeps kr (every_ite
    (restoreDevice_keeps kr h1) h1)))) (invalidateQuarter_keeps kr (restorePages_keeps kr (drainQuarter_keeps kr
    hx)))) hx

theorem execRestore_keeps {R hm s q x} (kr : Closed R true hm) (hx : Keeps R s x) :
    KeepsNext R s (execRestore q x) := by
  unfold execRestore
  exact keepsNext_mk (restoreQuarter_keeps kr hx)

theorem resumeLimit_keeps {R dm hm s x} (kr : Closed R dm hm) (hx : Keeps R s x) :
    Keeps R s (resumeLimit x) := by
  unfold resumeLimit
  exact every_ite (domainFault_keeps kr (timeUpTo_keeps kr hx)) hx

theorem execResumeLimit_keeps {R dm hm s x} (kr : Closed R dm hm) (hx : Keeps R s x) :
    KeepsNext R s (execResumeLimit x) := by
  unfold execResumeLimit
  exact keepsNext_mk (resumeLimit_keeps kr hx)

end Sys2Proof.Machine
end

