-- ==== Sys2Proof/Laws/Fields.lean ====
section
/-! SUPPORT. What a bit field reads after a field is written: the field itself, a field beside it, a single bit. -/

namespace Sys2Proof.Machine

open Sys2Proof

theorem natField_testBit (n hi lo j : Nat) : (natField n hi lo).testBit j = (decide (j < hi + 1 - lo) && n.testBit (lo + j)) := by
  unfold natField
  rw [Nat.testBit_mod_two_pow, Nat.testBit_div_two_pow, Nat.add_comm j lo]

theorem natField_lt (n hi lo : Nat) : natField n hi lo < 2 ^ (hi + 1 - lo) := Nat.mod_lt _ (Nat.two_pow_pos _)

theorem field_lt (w : Word) (hi lo : Nat) : field w hi lo < 2 ^ (hi + 1 - lo) := natField_lt _ _ _

theorem maskOf_bit (hi lo i : Nat) (hi64 : hi < 64) : (maskOf hi lo).getLsbD i = decide (lo ≤ i ∧ i ≤ hi) := by
  unfold maskOf
  rw [BitVec.getLsbD_ofNat, Nat.testBit_mul_two_pow, Nat.testBit_two_pow_sub_one]
  by_cases h1 : lo ≤ i
  · by_cases h2 : i ≤ hi
    · have : i < 64 := by omega
      have : i - lo < hi + 1 - lo := by omega
      simp [*]
    · have : ¬ i - lo < hi + 1 - lo := by omega
      simp [*]
  · simp [h1]

/-- Each bit of a register after a field is written. -/
theorem putField_bit (w : Word) (hi lo v i : Nat) (hi64 : hi < 64) :
    (putField w hi lo v).getLsbD i = if lo ≤ i ∧ i ≤ hi then v.testBit (i - lo) else w.getLsbD i := by
  unfold putField
  rw [BitVec.getLsbD_or, BitVec.getLsbD_and, BitVec.getLsbD_not, maskOf_bit hi lo i hi64, BitVec.getLsbD_ofNat,
    Nat.testBit_mul_two_pow, Nat.testBit_mod_two_pow]
  by_cases h64 : i < 64
  · by_cases h : lo ≤ i ∧ i ≤ hi
    · have : i - lo < hi + 1 - lo := by omega
      simp [*]
    · by_cases h1 : lo ≤ i
      · have : ¬ i - lo < hi + 1 - lo := by omega
        have h2 : ¬ i ≤ hi := by omega
        simp [*]
      · simp [*]
  · have h : ¬ (lo ≤ i ∧ i ≤ hi) := by omega
    have hw : w.getLsbD i = false := BitVec.getLsbD_of_ge w i (by omega)
    simp [h64, h, hw]

/-- A written field reads as the low bits of what was written. -/
theorem field_putField_same (w : Word) (hi lo v : Nat) (hi64 : hi < 64) :
    field (putField w hi lo v) hi lo = v % 2 ^ (hi + 1 - lo) := by
  apply Nat.eq_of_testBit_eq
  intro j
  unfold field
  rw [natField_testBit, Nat.testBit_mod_two_pow]
  by_cases hj : j < hi + 1 - lo
  · have := putField_bit w hi lo v (lo + j) hi64
    rw [if_pos (by omega), Nat.add_sub_cancel_left] at this
    simp only [BitVec.getLsbD] at this
    simp [hj, this]
  · simp [hj]

/-- Writing a field leaves a field beside it alone. -/
theorem field_putField_ne (w : Word) (hi lo v hi' lo' : Nat) (hi64 : hi < 64) (h : hi < lo' ∨ hi' < lo) :
    field (putField w hi lo v) hi' lo' = field w hi' lo' := by
  apply Nat.eq_of_testBit_eq
  intro j
  unfold field
  rw [natField_testBit, natField_testBit]
  by_cases hj : j < hi' + 1 - lo'
  · have := putField_bit w hi lo v (lo' + j) hi64
    rw [if_neg (by omega)] at this
    simp only [BitVec.getLsbD] at this
    simp [hj, this]
  · simp [hj]

/-- A single bit of a register is its one-bit field. -/
theorem bitOf_eq_field (w : Word) (b : Nat) : bitOf w b = decide (field w b b = 1) := by
  have h : field w b b = w.toNat / 2 ^ b % 2 := by unfold field natField; rw [Nat.add_sub_cancel_left] <;> rfl
  rw [h]
  unfold bitOf BitVec.getLsbD Nat.testBit
  rw [Nat.one_and_eq_mod_two, Nat.shiftRight_eq_div_pow]
  rcases Nat.mod_two_eq_zero_or_one (w.toNat / 2 ^ b) with h | h <;> rw [h] <;> rfl

end Sys2Proof.Machine
end

