-- ==== Sys2Proof/Laws/Regs.lean ====
section
/-! SUPPORT. The registers: pages do not overlap, a register reads as what was written to it, and a write leaves every
other register alone. -/

namespace Sys2Proof.Machine

open Sys2Proof

theorem perQuarter_le (ty : Nat) : perQuarter ty ≤ 12 := by
  unfold perQuarter
  split <;> omega

theorem perQuarter_pos {ty : Nat} (h : 0 < perQuarter ty) : 1 ≤ ty ∧ ty ≤ 14 := by
  unfold perQuarter at h
  split at h <;> omega

/-- The page of a unit gives the unit back (R45). -/
theorem unitAt_page {u : UnitId} (hu : isUnit u = true) {off : Nat} (ho : off < 0x1000) : unitAt (pageOf u + off) = some u := by
  obtain ⟨ty, q, i⟩ := u
  unfold isUnit at hu
  unfold unitAt pageOf
  split at hu
  · rename_i hd
    have h : 0x20 ≤ ty ∧ ty ≤ 0x26 := by unfold isDeviceType at hd; exact of_decide_eq_true hd
    simp only [Bool.and_eq_true, decide_eq_true_eq] at hu
    obtain ⟨rfl, rfl⟩ := hu
    rw [if_pos hd]
    dsimp only
    have c1 : ¬ 33554432 + (ty - 32) * 65536 + off < 33554432 := by omega
    rw [if_neg c1]
    have e1 : 32 + (33554432 + (ty - 32) * 65536 + off - 33554432) / 65536 = ty := by omega
    have e2 : (33554432 + (ty - 32) * 65536 + off) / 4096 % 16 = 0 := by omega
    rw [e1, e2, if_pos]
    refine ⟨by omega, ?_⟩
    unfold isUnit
    rw [if_pos hd]
    rfl
  · rename_i hd
    have h : q < 4 ∧ i < perQuarter ty := of_decide_eq_true hu
    have hp := perQuarter_pos (ty := ty) (by omega)
    have hi := perQuarter_le ty
    rw [if_neg hd]
    dsimp only
    have c1 : q * 8388608 + ty * 65536 + i * 4096 + off < 33554432 := by omega
    rw [if_pos c1]
    have e1 : (q * 8388608 + ty * 65536 + i * 4096 + off) / 65536 % 128 = ty := by omega
    have e2 : (q * 8388608 + ty * 65536 + i * 4096 + off) / 8388608 = q := by omega
    have e3 : (q * 8388608 + ty * 65536 + i * 4096 + off) / 4096 % 16 = i := by omega
    rw [e1, e2, e3, if_pos]
    refine ⟨by omega, ?_⟩
    unfold isUnit
    rw [if_neg hd]
    exact hu

/-- Two registers of pages have one offset only when they are one register. -/
theorem page_inj {u u' : UnitId} (hu : isUnit u = true) (hu' : isUnit u' = true) {off off' : Nat} (ho : off < 0x1000)
    (ho' : off' < 0x1000) (h : pageOf u + off = pageOf u' + off') : u = u' ∧ off = off' := by
  have h1 := unitAt_page hu ho
  rw [h, unitAt_page hu' ho'] at h1
  have h2 := Option.some.inj h1
  subst h2
  exact ⟨rfl, by omega⟩

theorem getReg_setReg_same (s : State) (u : UnitId) (off : Nat) (w : Word) : getReg (setReg s u off w) u off = w :=
  tblGet_set_same _ _ _ _

theorem getReg_setReg_addr (s : State) {u u' : UnitId} {off off' : Nat} (h : pageOf u' + off' ≠ pageOf u + off) (w : Word) :
    getReg (setReg s u off w) u' off' = getReg s u' off' := tblGet_set_ne _ _ h _

/-- A write leaves the other registers of its page alone. -/
theorem getReg_setReg_off (s : State) (u : UnitId) {off off' : Nat} (h : off' ≠ off) (w : Word) :
    getReg (setReg s u off w) u off' = getReg s u off' := getReg_setReg_addr s (by omega) w

/-- A write leaves the registers of other pages alone. -/
theorem getReg_setReg_unit (s : State) {u u' : UnitId} (hu : isUnit u = true) (hu' : isUnit u' = true) (h : u' ≠ u)
    {off off' : Nat} (ho : off < 0x1000) (ho' : off' < 0x1000) (w : Word) :
    getReg (setReg s u off w) u' off' = getReg s u' off' :=
  getReg_setReg_addr s (fun e => h (page_inj hu' hu ho' ho e).1) w

theorem getF_setF_same (s : State) (u : UnitId) (off hi lo v : Nat) (h : hi < 64) :
    getF (setF s u off hi lo v) u off hi lo = v % 2 ^ (hi + 1 - lo) := by
  unfold getF setF
  rw [getReg_setReg_same, field_putField_same _ _ _ _ h]

theorem getF_setF_ne (s : State) (u : UnitId) (off hi lo v hi' lo' : Nat) (h : hi < 64) (hd : hi < lo' ∨ hi' < lo) :
    getF (setF s u off hi lo v) u off hi' lo' = getF s u off hi' lo' := by
  unfold getF setF
  rw [getReg_setReg_same, field_putField_ne _ _ _ _ _ _ h hd]

theorem getF_setF_off (s : State) (u : UnitId) {off off' : Nat} (hi lo v hi' lo' : Nat) (h : off' ≠ off) :
    getF (setF s u off hi lo v) u off' hi' lo' = getF s u off' hi' lo' := by
  unfold getF setF
  rw [getReg_setReg_off s u h]

theorem getF_setF_unit (s : State) {u u' : UnitId} (hu : isUnit u = true) (hu' : isUnit u' = true) (h : u' ≠ u)
    {off off' : Nat} (ho : off < 0x1000) (ho' : off' < 0x1000) (hi lo v hi' lo' : Nat) :
    getF (setF s u off hi lo v) u' off' hi' lo' = getF s u' off' hi' lo' := by
  unfold getF setF
  rw [getReg_setReg_unit s hu hu' h ho ho']

end Sys2Proof.Machine
end

