-- ==== Sys2Proof/Laws/Frames.lean ====
section
/-! SUPPORT. Frames: what the named updates of registers leave alone, by register and by part of the state, and what the
interrupt and error bits read as afterwards. -/

namespace Sys2Proof.Machine

open Sys2Proof

variable {l : List (UnitId × List Nat)} {ps : List Part} {s x y : State}

/-! ### By part -/

theorem only_refl (ps : List Part) (s : State) : Only ps s s := fun p _ => by cases p <;> rfl

theorem only_trans (h1 : Only ps s x) (h2 : Only ps x y) : Only ps s y := fun p hp => by
  have a := h1 p hp
  have b := h2 p hp
  cases p <;> exact Eq.trans b a

theorem only_setReg (h : Only ps s x) (hr : Part.regs ∈ ps) (u : UnitId) (off : Nat) (w : Word) : Only ps s (setReg x u off w) :=
  only_trans h fun p hp => by
    cases p
    case regs => exact absurd hr hp
    all_goals rfl

theorem only_setF (h : Only ps s x) (hr : Part.regs ∈ ps) (u : UnitId) (off hi lo v : Nat) : Only ps s (setF x u off hi lo v) :=
  only_setReg h hr u off _

theorem only_hi (h : Only ps s x) (hh : Part.hi ∈ ps) (v : HostIf) : Only ps s { x with hi := v } :=
  only_trans h fun p hp => by
    cases p
    case hi => exact absurd hh hp
    all_goals rfl

theorem only_sendMsix (h : Only ps s x) (hh : Part.hi ∈ ps) (v : Nat) : Only ps s (sendMsix x v) := by
  unfold sendMsix
  split
  · exact only_hi h hh _
  · split
    · exact h
    · exact only_hi h hh _

theorem only_setInt (h : Only ps s x) (hr : Part.regs ∈ ps) (hh : Part.hi ∈ ps) (u : UnitId) (off : Nat) (w : Word) :
    Only ps s (setInt x u off w) := by
  unfold setInt groupEdge
  dsimp only
  split
  · exact only_sendMsix (only_setReg h hr u off w) hh _
  · exact only_setReg h hr u off w

theorem only_raiseInt (h : Only ps s x) (hr : Part.regs ∈ ps) (hh : Part.hi ∈ ps) (u : UnitId) (b : Nat) : Only ps s (raiseInt x u b) :=
  only_setInt h hr hh u _ _

theorem only_raiseErr (h : Only ps s x) (hr : Part.regs ∈ ps) (hh : Part.hi ∈ ps) (u : UnitId) (b : Nat) : Only ps s (raiseErr x u b) := by
  unfold raiseErr
  dsimp only
  have h1 := only_setReg h hr u 0x28 (putField (getReg x u 0x28) b b 1)
  split <;> split
  · exact only_raiseInt h1 hr hh u b
  · exact only_raiseInt (only_raiseInt h1 hr hh u 2) hr hh u b
  · exact h1
  · exact only_raiseInt h1 hr hh u 2

/-! ### By register -/

theorem regsKept_refl (l : List (UnitId × List Nat)) (s : State) : RegsKept l s s := fun _ _ _ _ _ => rfl

/-- States that hold the same registers read the same. -/
theorem getReg_congr (hr : y.regs = x.regs) (hv : y.variant = x.variant) (u : UnitId) (off : Nat) : getReg y u off = getReg x u off := by
  unfold getReg
  rw [hr, hv]

theorem regsKept_congr (h : RegsKept l s x) (hr : y.regs = x.regs) (hv : y.variant = x.variant) : RegsKept l s y :=
  fun u off hu ho hc => by rw [getReg_congr hr hv, h u off hu ho hc]

theorem regsKept_setReg (h : RegsKept l s x) {u : UnitId} {off : Nat} (w : Word) (hu : isUnit u = true) (ho : off < 0x1000)
    (hm : ∃ e ∈ l, e.1 = u ∧ off ∈ e.2) : RegsKept l s (setReg x u off w) := by
  intro u' off' hu' ho' hc
  rw [← h u' off' hu' ho' hc]
  apply getReg_setReg_addr
  intro e
  obtain ⟨rfl, rfl⟩ := page_inj hu' hu ho' ho e
  obtain ⟨e, he, h1, h2⟩ := hm
  exact hc e he h1 h2

theorem sendMsix_regs (s : State) (v : Nat) : (sendMsix s v).regs = s.regs ∧ (sendMsix s v).variant = s.variant := by
  unfold sendMsix
  split
  · exact ⟨rfl, rfl⟩
  · split <;> exact ⟨rfl, rfl⟩

theorem groupEdge_regs (b : State) (u : UnitId) (s : State) :
    (groupEdge b u s).regs = s.regs ∧ (groupEdge b u s).variant = s.variant := by
  unfold groupEdge
  dsimp only
  split
  · exact sendMsix_regs _ _
  · exact ⟨rfl, rfl⟩

theorem getReg_setInt (s : State) (u : UnitId) (off : Nat) (w : Word) (u' : UnitId) (off' : Nat) :
    getReg (setInt s u off w) u' off' = getReg (setReg s u off w) u' off' :=
  getReg_congr (groupEdge_regs _ _ _).1 (groupEdge_regs _ _ _).2 _ _

theorem regsKept_setInt (h : RegsKept l s x) {u : UnitId} {off : Nat} (w : Word) (hu : isUnit u = true) (ho : off < 0x1000)
    (hm : ∃ e ∈ l, e.1 = u ∧ off ∈ e.2) : RegsKept l s (setInt x u off w) :=
  regsKept_congr (regsKept_setReg h w hu ho hm) (groupEdge_regs _ _ _).1 (groupEdge_regs _ _ _).2

theorem regsKept_raiseInt (h : RegsKept l s x) {u : UnitId} (b : Nat) (hu : isUnit u = true)
    (hm : ∃ e ∈ l, e.1 = u ∧ 0x30 ∈ e.2) : RegsKept l s (raiseInt x u b) := regsKept_setInt h _ hu (by decide) hm

theorem regsKept_raiseErr (h : RegsKept l s x) {u : UnitId} (b : Nat) (hu : isUnit u = true)
    (hm : ∃ e ∈ l, e.1 = u ∧ 0x28 ∈ e.2) (hm' : ∃ e ∈ l, e.1 = u ∧ 0x30 ∈ e.2) : RegsKept l s (raiseErr x u b) := by
  unfold raiseErr
  dsimp only
  have h1 := regsKept_setReg h (putField (getReg x u 0x28) b b 1) hu (by decide) hm
  split <;> split
  · exact regsKept_raiseInt h1 b hu hm'
  · exact regsKept_raiseInt (regsKept_raiseInt h1 2 hu hm') b hu hm'
  · exact h1
  · exact regsKept_raiseInt h1 2 hu hm'

/-! ### The bits themselves -/

theorem getReg_raiseInt (s : State) (u : UnitId) (b : Nat) (u' : UnitId) (off' : Nat) :
    getReg (raiseInt s u b) u' off' = getReg (setReg s u 0x30 (putField (getReg s u 0x30) b b 1)) u' off' := getReg_setInt _ _ _ _ _ _

theorem getReg_raiseInt_same (s : State) (u : UnitId) (b : Nat) : getReg (raiseInt s u b) u 0x30 = putField (getReg s u 0x30) b b 1 := by
  rw [getReg_raiseInt, getReg_setReg_same]

theorem getReg_raiseInt_addr (s : State) {u : UnitId} (b : Nat) {u' : UnitId} {off' : Nat} (h : pageOf u' + off' ≠ pageOf u + 0x30) :
    getReg (raiseInt s u b) u' off' = getReg s u' off' := by
  rw [getReg_raiseInt, getReg_setReg_addr s h]

theorem getReg_raiseErr_same (s : State) (u : UnitId) (b : Nat) : getReg (raiseErr s u b) u 0x28 = putField (getReg s u 0x28) b b 1 := by
  have c (x : State) (b : Nat) : getReg (raiseInt x u b) u 0x28 = getReg x u 0x28 := getReg_raiseInt_addr x b (by omega)
  unfold raiseErr
  dsimp only
  split <;> split <;> simp only [c, getReg_setReg_same]

theorem getReg_raiseErr_addr (s : State) {u : UnitId} (b : Nat) {u' : UnitId} {off' : Nat} (h28 : pageOf u' + off' ≠ pageOf u + 0x28)
    (h30 : pageOf u' + off' ≠ pageOf u + 0x30) : getReg (raiseErr s u b) u' off' = getReg s u' off' := by
  have a (x : State) (w : Word) : getReg (setReg x u 0x28 w) u' off' = getReg x u' off' := getReg_setReg_addr x h28 w
  have c (x : State) (b : Nat) : getReg (raiseInt x u b) u' off' = getReg x u' off' := getReg_raiseInt_addr x b h30
  unfold raiseErr
  dsimp only
  split <;> split <;> simp only [a, c]

end Sys2Proof.Machine
end

