-- ==== Sys2Proof/Laws/MatrixKept.lean ====
section
/-! SUPPORT. What the operations of Machine/Matrix.lean keep. -/

namespace Sys2Proof.Machine

open Sys2Proof

theorem setMaRun_keeps {R dm hm s x n r} (kr : Closed R dm hm) (hx : Keeps R s x) :
    Keeps R s (setMaRun x n r) := by
  unfold setMaRun
  exact setEng_keeps kr hx

theorem advanceTile_keeps {R dm hm s x n t} (kr : Closed R dm hm) (hx : Keeps R s x) :
    Keeps R s (advanceTile x n t) := by
  unfold advanceTile
  exact every_ite (setMaRun_keeps kr hx) (finishOk_keeps kr (tallyMax_keeps kr (setMaRun_keeps kr hx)))

theorem maLoad_keeps {R dm hm s x u home part a n} (kr : Closed R dm hm) (hx : Keeps R s x) :
    KeepsFst R s (maLoad x u home part a n) := by
  unfold maLoad
  exact every_ite (keepsFst_mk hx) (loadFor_keeps kr hx)

theorem auxFaults_keeps {R dm hm s x u home t b} (kr : Closed R dm hm) (hx : Keeps R s x) :
    KeepsFst R s (auxFaults x u home t b) := by
  unfold auxFaults
  exact every_ite (keepsFst_mk (keeps_fst (maLoad_keeps kr hx))) (keepsFst_mk hx)

theorem lastResidue_keeps {R dm hm s x n hi lo v} (kr : Closed R dm hm) (hx : Keeps R s x) :
    Keeps R s (lastResidue x n hi lo v) := by
  unfold lastResidue
  exact setF_keeps kr hx

theorem countCross_keeps {R dm hm s x n} (kr : Closed R dm hm) (hx : Keeps R s x) :
    Keeps R s (countCross x n) := by
  unfold countCross
  exact lastResidue_keeps kr (raiseErr_keeps kr (bump_keeps kr hx))

theorem maEndBad_keeps {R dm hm s x n t status detail} (kr : Closed R dm hm) (hx : Keeps R s x) :
    Keeps R s (maEndBad x n t status detail) := by
  unfold maEndBad
  exact every_keep (fun h1 => every_ite (setEng_keeps kr h1) h1) (finishBad_keeps kr hx)

theorem crossFail_keeps {R dm hm s x n partner t} (kr : Closed R dm hm) (hx : Keeps R s x) :
    Keeps R s (crossFail x n partner t) := by
  unfold crossFail
  exact every_keep (fun h1 => setF_keeps kr (reportFault_keeps kr (maEndBad_keeps kr (by
    split
    exact keeps_mk kr (countCross_keeps kr h1) rfl rfl rfl rfl rfl rfl rfl rfl
    exact h1)))) (countCross_keeps kr hx)

theorem drainTile_keeps {R hm s x n a2 t cells} (kr : Closed R true hm) (hx : Keeps R s x) :
    Keeps R s (drainTile x n a2 t cells) := by
  unfold drainTile
  exact every_keep (fun h1 => (by
    try dsimp only
    split
    exact advanceTile_keeps kr (writeRows_keeps kr (setMaRun_keeps kr h1))
    exact advanceTile_keeps kr (setMaRun_keeps kr (keeps_fst (every_foldl _ (keepsFst_mk h1) (fun _ _ h4 =>
      keepsFst_mk (keeps_fst (accumulateRow_keeps kr (keeps_fst h4)))))))
    exact setMaRun_keeps kr h1)) (bump64_keeps kr hx)

theorem drainWork_keeps {R hm s x u f} (kr : Closed R true hm) (hx : Keeps R s x) (hf : ∀ y0, Keeps R s y0 → Keeps R s
  (f y0)) :
    Keeps R s (drainWork x u f) := by
  unfold drainWork
  exact every_ite (setF_keeps kr (orWait_keeps kr hx hf)) (setF_keeps kr (hf _ (keeps_mk kr hx rfl rfl rfl rfl rfl rfl
    rfl rfl)))

theorem maBegin_keeps {R dm hm s x n t} (kr : Closed R dm hm) (hx : Keeps R s x) :
    Keeps R s (maBegin x n t) := by
  unfold maBegin
  exact (by
    try dsimp only
    split
    exact setEng_keeps kr hx
    exact hx)

theorem readOperand_keeps {R dm hm s x u home t b r0 n} (kr : Closed R dm hm) (hx : Keeps R s x) :
    KeepsFst R s (readOperand x u home t b r0 n) := by
  unfold readOperand
  exact every_keep (fun h1 => every_keep (fun h2 => every_ite (every_keep (fun h3 => every_ite (every_keep (fun h4 =>
    every_keep (fun h5 => keepsFst_mk (keeps_fst (every_foldl _ (keepsFst_mk (keeps_fst h5)) (fun _ _ h7 =>
    keepsFst_mk (keeps_fst (maLoad_keeps kr (keeps_fst h7))))))) (every_foldl _ (keepsFst_mk (keeps_fst h4)) (fun _ _
    h9 => keepsFst_mk (keeps_fst (maLoad_keeps kr (keeps_fst h9)))))) (every_foldl _ (keepsFst_mk (keeps_fst h3)) (fun
    _ _ h11 => keepsFst_mk (keeps_fst (maLoad_keeps kr (keeps_fst h11)))))) (keepsFst_mk (keeps_fst (every_foldl _
    (keepsFst_mk (keeps_fst h3)) (fun _ _ h14 => keepsFst_mk (keeps_fst (every_foldl _ (keepsFst_mk (keeps_fst h14))
    (fun _ _ h16 => keepsFst_mk (keeps_fst (maLoad_keeps kr (keeps_fst h16))))))))))) (maLoad_keeps kr (keeps_fst
    h2))) (keepsFst_mk (keeps_fst h2))) (every_ite (every_foldl _ (keepsFst_mk (keeps_fst h1)) (fun _ _ h18 =>
    keepsFst_mk (keeps_fst (maLoad_keeps kr (keeps_fst h18))))) (keepsFst_mk (keeps_fst h1)))) (every_foldl _
    (keepsFst_mk hx) (fun _ _ h20 => keepsFst_mk (keeps_fst (maLoad_keeps kr (keeps_fst h20)))))

theorem runTile_keeps {R dm hm s x n a2 t} (kr : Closed R dm hm) (hx : Keeps R s x) :
    KeepsFst R s (runTile x n a2 t) := by
  unfold runTile
  exact every_keep (fun h1 => every_keep (fun h2 => (by
    try dsimp only
    split
    exact keepsFst_mk h2
    exact every_keep (fun h3 => (by
      try dsimp only
      split
      exact keepsFst_mk (keeps_fst h3)
      exact keepsFst_mk (keeps_fst h3))) (readOperand_keeps kr h2))) (every_ite (setMaRun_keeps kr (keeps_fst h1))
    (keeps_fst h1))) (by
    split
    exact keepsFst_mk hx
    exact readOperand_keeps kr hx)

theorem slipEnd_keeps {R dm hm s x n t operand block dtag stag} (kr : Closed R dm hm) (hx : Keeps R s x) :
    Keeps R s (slipEnd x n t operand block dtag stag) := by
  unfold slipEnd
  exact maEndBad_keeps kr (setReg_keeps kr hx)

theorem matmulStep_keeps {R hm s x n} (kr : Closed R true hm) (hx : Keeps R s x) :
    Keeps R s (matmulStep x n) := by
  unfold matmulStep
  exact (by
    try dsimp only
    split
    exact hx
    exact every_ite hx (engineWork_keeps kr hx (fun _ h1 => every_keep (fun h2 => (by
      try dsimp only
      split
      exact every_ite (every_keep (fun h3 => (by
        try dsimp only
        split
        exact slipEnd_keeps kr (keeps_fst h3)
        exact setMaRun_keeps kr (keeps_fst h3))) (runTile_keeps kr h2)) h2
      exact every_keep (fun h4 => every_keep (fun h5 => (by
        try dsimp only
        split
        exact finishBad_keeps kr (keeps_fst h5)
        exact every_ite (every_keep (fun h6 => (by
          try dsimp only
          split
          exact slipEnd_keeps kr (keeps_fst h6)
          exact setMaRun_keeps kr (keeps_fst h6))) (runTile_keeps kr (setMaRun_keeps kr (keeps_fst h5))))
          (setMaRun_keeps kr (keeps_fst h5)))) (auxFaults_keeps kr (keeps_fst h4))) (auxFaults_keeps kr h2)))
      (maBegin_keeps kr h1))))

theorem execMatmul_keeps {R hm s ma x} (kr : Closed R true hm) (hx : Keeps R s x) :
    KeepsNext R s (execMatmul ma x) := by
  unfold execMatmul
  exact keepsNext_mk (matmulStep_keeps kr (undefinedOp_keeps kr hx))

theorem spareColumn_keeps {R dm hm s n c x} (kr : Closed R dm hm) (hx : Keeps R s x) :
    Keeps R s (spareColumn n c x) := by
  unfold spareColumn
  exact keeps_mk kr (countRetired_keeps kr (raiseInt_keeps kr (raiseErr_keeps kr (setF_keeps kr hx)))) rfl rfl rfl rfl
    rfl rfl rfl rfl

theorem takeOver_keeps {R dm hm s x n p t} (kr : Closed R dm hm) (hx : Keeps R s x) :
    Keeps R s (takeOver x n p t) := by
  unfold takeOver
  exact setEng_keeps kr (retireUnit_keeps kr (setTask_keeps kr (dropFromTill_keeps kr hx)))

theorem handleColumns_keeps {R dm hm s x n p t bad limited} (kr : Closed R dm hm) (hx : Keeps R s x) :
    Keeps R s (handleColumns x n p t bad limited) := by
  unfold handleColumns
  exact every_ite (lastResidue_keeps kr hx) (every_ite (lastResidue_keeps kr (every_foldOver _ hx (fun _ _ h1 =>
    spareColumn_keeps kr h1))) (every_keep (fun h2 => every_ite (retireUnit_keeps kr h2) (takeOver_keeps kr h2))
    (lastResidue_keeps kr hx)))

theorem partnerRun_keeps {R hm s x n bad} (kr : Closed R true hm) (hx : Keeps R s x) :
    Keeps R s (partnerRun x n bad) := by
  unfold partnerRun
  exact (by
    split
    exact every_ite hx (drainWork_keeps kr hx (fun _ h1 => every_keep (fun h2 => every_keep (fun h3 => (by
      try dsimp only
      split
      exact slipEnd_keeps kr h3
      exact every_ite (handleColumns_keeps kr (drainTile_keeps kr h3)) (crossFail_keeps kr h3))) (setF_keeps kr
      (setF_keeps kr (keeps_fst h2)))) (runTile_keeps kr h1)))
    exact hx)

theorem execPartnerRun_keeps {R hm s ma bad x} (kr : Closed R true hm) (hx : Keeps R s x) :
    KeepsNext R s (execPartnerRun ma bad x) := by
  unfold execPartnerRun
  exact keepsNext_mk (partnerRun_keeps kr hx)

theorem pinRun_keeps {R hm s u t x} (kr : Closed R true hm) (hx : Keeps R s x) :
    Keeps R s (pinRun u t x) := by
  unfold pinRun
  exact finishOk_keeps kr (tileWrite_keeps kr (keeps_fst (maLoad_keeps kr hx)))

theorem execPin_keeps {R hm s ma x} (kr : Closed R true hm) (hx : Keeps R s x) :
    KeepsNext R s (execPin ma x) := by
  unfold execPin
  exact keepsNext_mk (runFront_keeps kr hx (fun _ _ h1 => pinRun_keeps kr h1))

theorem pauseTile_keeps {R dm hm s x n t bad limited} (kr : Closed R dm hm) (hx : Keeps R s x) :
    Keeps R s (pauseTile x n t bad limited) := by
  unfold pauseTile
  exact every_keep (fun h1 => (by
    try dsimp only
    split
    exact crossFail_keeps kr h1
    exact setMaRun_keeps kr (lastResidue_keeps kr (setF_keeps kr (setF_keeps kr h1))))) (raiseErr_keeps kr (bump_keeps
    kr hx))

theorem noteMismatch_keeps {R dm hm s x n tile bad} (kr : Closed R dm hm) (hx : Keeps R s x) :
    Keeps R s (noteMismatch x n tile bad) := by
  unfold noteMismatch
  exact lastResidue_keeps kr (lastResidue_keeps kr (lastResidue_keeps kr (lastResidue_keeps kr (lastResidue_keeps kr
    hx))))

theorem residueRecompute_keeps {R hm s x n bad} (kr : Closed R true hm) (hx : Keeps R s x) :
    Keeps R s (residueRecompute x n bad) := by
  unfold residueRecompute
  exact (by
    try dsimp only
    split
    exact hx
    exact every_ite hx (engineWork_keeps kr hx (fun _ h1 => every_keep (fun h2 => (by
      try dsimp only
      split
      exact slipEnd_keeps kr (keeps_fst h2)
      exact every_ite (every_keep (fun h3 => every_ite (drainTile_keeps kr (lastResidue_keeps kr h3)) (pauseTile_keeps
        kr h3)) (setEng_keeps kr (raiseErr_keeps kr (bump_keeps kr (keeps_fst h2))))) (pauseTile_keeps kr
        (noteMismatch_keeps kr (keeps_fst h2))))) (runTile_keeps kr h1))))

theorem execResidueRecompute_keeps {R hm s ma bad x} (kr : Closed R true hm) (hx : Keeps R s x) :
    KeepsNext R s (execResidueRecompute ma bad x) := by
  unfold execResidueRecompute
  exact keepsNext_mk (residueRecompute_keeps kr hx)

theorem rowTileCheck_keeps {R hm s x n bad} (kr : Closed R true hm) (hx : Keeps R s x) :
    Keeps R s (rowTileCheck x n bad) := by
  unfold rowTileCheck
  exact (by
    split
    exact hx
    exact every_ite hx (every_ite (drainWork_keeps kr hx (fun _ h1 => drainTile_keeps kr h1)) (setMaRun_keeps kr
      (noteMismatch_keeps kr hx))))

theorem execRowTileCheck_keeps {R hm s ma bad x} (kr : Closed R true hm) (hx : Keeps R s x) :
    KeepsNext R s (execRowTileCheck ma bad x) := by
  unfold execRowTileCheck
  exact keepsNext_mk (rowTileCheck_keeps kr hx)

theorem setTiles_keeps {R dm hm s x n l} (kr : Closed R dm hm) (hx : Keeps R s x) :
    Keeps R s (setTiles x n l) := by
  unfold setTiles
  exact setF_keeps kr (keeps_mk kr hx rfl rfl rfl rfl rfl rfl rfl rfl)

theorem tileHandoff_keeps {R dm hm s x n} (kr : Closed R dm hm) (hx : Keeps R s x) :
    Keeps R s (tileHandoff x n) := by
  unfold tileHandoff
  exact (by
    split
    exact hx
    exact every_ite hx (every_ite (setF_keeps kr (setMaRun_keeps kr (setTiles_keeps kr hx))) (every_ite
      (advanceTile_keeps kr (setTiles_keeps kr hx)) (setF_keeps kr hx))))

theorem execTileHandoff_keeps {R dm hm s ma x} (kr : Closed R dm hm) (hx : Keeps R s x) :
    KeepsNext R s (execTileHandoff ma x) := by
  unfold execTileHandoff
  exact keepsNext_mk (tileHandoff_keeps kr hx)

theorem handMarker_keeps {R dm hm s x n} (kr : Closed R dm hm) (hx : Keeps R s x) :
    Keeps R s (handMarker x n) := by
  unfold handMarker
  exact (by
    try dsimp only
    split
    exact setTiles_keeps kr (setEng_keeps kr hx)
    exact hx)

theorem releaseTile_keeps {R dm hm s x n} (kr : Closed R dm hm) (hx : Keeps R s x) :
    Keeps R s (releaseTile x n) := by
  unfold releaseTile
  exact (by
    split
    exact hx
    exact every_keep (fun h1 => every_ite (by
      split
      exact every_ite (advanceTile_keeps kr h1) h1
      exact h1) h1) (setF_keeps kr (setTiles_keeps kr hx)))

end Sys2Proof.Machine
end

