-- ==== Sys2Proof/Laws/State.lean ====
section
/-! SUPPORT. What each named update of the state leaves alone: one lemma per field per update, and what the thing updated
reads as afterwards. -/

namespace Sys2Proof.Machine

open Sys2Proof

/-! ### `setReg`: a register -/

@[simp] theorem setReg_pending (s : State) (u : UnitId) (off : Nat) (w : Word) : (setReg s u off w).pending = s.pending := rfl
@[simp] theorem setReg_variant (s : State) (u : UnitId) (off : Nat) (w : Word) : (setReg s u off w).variant = s.variant := rfl
@[simp] theorem setReg_serial (s : State) (u : UnitId) (off : Nat) (w : Word) : (setReg s u off w).serial = s.serial := rfl
@[simp] theorem setReg_hostRead (s : State) (u : UnitId) (off : Nat) (w : Word) : (setReg s u off w).hostRead = s.hostRead := rfl
@[simp] theorem setReg_absentAssays (s : State) (u : UnitId) (off : Nat) (w : Word) : (setReg s u off w).absentAssays = s.absentAssays := rfl
@[simp] theorem setReg_disableChecks (s : State) (u : UnitId) (off : Nat) (w : Word) : (setReg s u off w).disableChecks = s.disableChecks := rfl
@[simp] theorem setReg_tb (s : State) (u : UnitId) (off : Nat) (w : Word) : (setReg s u off w).tb = s.tb := rfl
@[simp] theorem setReg_tally (s : State) (u : UnitId) (off : Nat) (w : Word) : (setReg s u off w).tally = s.tally := rfl
@[simp] theorem setReg_mem (s : State) (u : UnitId) (off : Nat) (w : Word) : (setReg s u off w).mem = s.mem := rfl
@[simp] theorem setReg_poison (s : State) (u : UnitId) (off : Nat) (w : Word) : (setReg s u off w).poison = s.poison := rfl
@[simp] theorem setReg_wraps (s : State) (u : UnitId) (off : Nat) (w : Word) : (setReg s u off w).wraps = s.wraps := rfl
@[simp] theorem setReg_host (s : State) (u : UnitId) (off : Nat) (w : Word) : (setReg s u off w).host = s.host := rfl
@[simp] theorem setReg_vb (s : State) (u : UnitId) (off : Nat) (w : Word) : (setReg s u off w).vb = s.vb := rfl
@[simp] theorem setReg_hs (s : State) (u : UnitId) (off : Nat) (w : Word) : (setReg s u off w).hs = s.hs := rfl
@[simp] theorem setReg_reply (s : State) (u : UnitId) (off : Nat) (w : Word) : (setReg s u off w).reply = s.reply := rfl
@[simp] theorem setReg_rem (s : State) (u : UnitId) (off : Nat) (w : Word) : (setReg s u off w).rem = s.rem := rfl
@[simp] theorem setReg_led (s : State) (u : UnitId) (off : Nat) (w : Word) : (setReg s u off w).led = s.led := rfl
@[simp] theorem setReg_eng (s : State) (u : UnitId) (off : Nat) (w : Word) : (setReg s u off w).eng = s.eng := rfl
@[simp] theorem setReg_vq (s : State) (u : UnitId) (off : Nat) (w : Word) : (setReg s u off w).vq = s.vq := rfl
@[simp] theorem setReg_frags (s : State) (u : UnitId) (off : Nat) (w : Word) : (setReg s u off w).frags = s.frags := rfl
@[simp] theorem setReg_splitUse (s : State) (u : UnitId) (off : Nat) (w : Word) : (setReg s u off w).splitUse = s.splitUse := rfl
@[simp] theorem setReg_hi (s : State) (u : UnitId) (off : Nat) (w : Word) : (setReg s u off w).hi = s.hi := rfl
@[simp] theorem setReg_esc (s : State) (u : UnitId) (off : Nat) (w : Word) : (setReg s u off w).esc = s.esc := rfl
@[simp] theorem setReg_dir (s : State) (u : UnitId) (off : Nat) (w : Word) : (setReg s u off w).dir = s.dir := rfl
@[simp] theorem setReg_fab (s : State) (u : UnitId) (off : Nat) (w : Word) : (setReg s u off w).fab = s.fab := rfl
@[simp] theorem setReg_mc (s : State) (u : UnitId) (off : Nat) (w : Word) : (setReg s u off w).mc = s.mc := rfl
@[simp] theorem setReg_pw (s : State) (u : UnitId) (off : Nat) (w : Word) : (setReg s u off w).pw = s.pw := rfl
@[simp] theorem setReg_flashDue (s : State) (u : UnitId) (off : Nat) (w : Word) : (setReg s u off w).flashDue = s.flashDue := rfl
@[simp] theorem setReg_locks (s : State) (u : UnitId) (off : Nat) (w : Word) : (setReg s u off w).locks = s.locks := rfl
@[simp] theorem setReg_freeCtr (s : State) (u : UnitId) (off : Nat) (w : Word) : (setReg s u off w).freeCtr = s.freeCtr := rfl

/-! ### `setF`: a field of a register -/

@[simp] theorem setF_pending (s : State) (u : UnitId) (off hi lo v : Nat) : (setF s u off hi lo v).pending = s.pending := rfl
@[simp] theorem setF_variant (s : State) (u : UnitId) (off hi lo v : Nat) : (setF s u off hi lo v).variant = s.variant := rfl
@[simp] theorem setF_serial (s : State) (u : UnitId) (off hi lo v : Nat) : (setF s u off hi lo v).serial = s.serial := rfl
@[simp] theorem setF_hostRead (s : State) (u : UnitId) (off hi lo v : Nat) : (setF s u off hi lo v).hostRead = s.hostRead := rfl
@[simp] theorem setF_absentAssays (s : State) (u : UnitId) (off hi lo v : Nat) : (setF s u off hi lo v).absentAssays = s.absentAssays := rfl
@[simp] theorem setF_disableChecks (s : State) (u : UnitId) (off hi lo v : Nat) : (setF s u off hi lo v).disableChecks = s.disableChecks := rfl
@[simp] theorem setF_tb (s : State) (u : UnitId) (off hi lo v : Nat) : (setF s u off hi lo v).tb = s.tb := rfl
@[simp] theorem setF_tally (s : State) (u : UnitId) (off hi lo v : Nat) : (setF s u off hi lo v).tally = s.tally := rfl
@[simp] theorem setF_mem (s : State) (u : UnitId) (off hi lo v : Nat) : (setF s u off hi lo v).mem = s.mem := rfl
@[simp] theorem setF_poison (s : State) (u : UnitId) (off hi lo v : Nat) : (setF s u off hi lo v).poison = s.poison := rfl
@[simp] theorem setF_wraps (s : State) (u : UnitId) (off hi lo v : Nat) : (setF s u off hi lo v).wraps = s.wraps := rfl
@[simp] theorem setF_host (s : State) (u : UnitId) (off hi lo v : Nat) : (setF s u off hi lo v).host = s.host := rfl
@[simp] theorem setF_vb (s : State) (u : UnitId) (off hi lo v : Nat) : (setF s u off hi lo v).vb = s.vb := rfl
@[simp] theorem setF_hs (s : State) (u : UnitId) (off hi lo v : Nat) : (setF s u off hi lo v).hs = s.hs := rfl
@[simp] theorem setF_reply (s : State) (u : UnitId) (off hi lo v : Nat) : (setF s u off hi lo v).reply = s.reply := rfl
@[simp] theorem setF_rem (s : State) (u : UnitId) (off hi lo v : Nat) : (setF s u off hi lo v).rem = s.rem := rfl
@[simp] theorem setF_led (s : State) (u : UnitId) (off hi lo v : Nat) : (setF s u off hi lo v).led = s.led := rfl
@[simp] theorem setF_eng (s : State) (u : UnitId) (off hi lo v : Nat) : (setF s u off hi lo v).eng = s.eng := rfl
@[simp] theorem setF_vq (s : State) (u : UnitId) (off hi lo v : Nat) : (setF s u off hi lo v).vq = s.vq := rfl
@[simp] theorem setF_frags (s : State) (u : UnitId) (off hi lo v : Nat) : (setF s u off hi lo v).frags = s.frags := rfl
@[simp] theorem setF_splitUse (s : State) (u : UnitId) (off hi lo v : Nat) : (setF s u off hi lo v).splitUse = s.splitUse := rfl
@[simp] theorem setF_hi (s : State) (u : UnitId) (off hi lo v : Nat) : (setF s u off hi lo v).hi = s.hi := rfl
@[simp] theorem setF_esc (s : State) (u : UnitId) (off hi lo v : Nat) : (setF s u off hi lo v).esc = s.esc := rfl
@[simp] theorem setF_dir (s : State) (u : UnitId) (off hi lo v : Nat) : (setF s u off hi lo v).dir = s.dir := rfl
@[simp] theorem setF_fab (s : State) (u : UnitId) (off hi lo v : Nat) : (setF s u off hi lo v).fab = s.fab := rfl
@[simp] theorem setF_mc (s : State) (u : UnitId) (off hi lo v : Nat) : (setF s u off hi lo v).mc = s.mc := rfl
@[simp] theorem setF_pw (s : State) (u : UnitId) (off hi lo v : Nat) : (setF s u off hi lo v).pw = s.pw := rfl
@[simp] theorem setF_flashDue (s : State) (u : UnitId) (off hi lo v : Nat) : (setF s u off hi lo v).flashDue = s.flashDue := rfl
@[simp] theorem setF_locks (s : State) (u : UnitId) (off hi lo v : Nat) : (setF s u off hi lo v).locks = s.locks := rfl
@[simp] theorem setF_freeCtr (s : State) (u : UnitId) (off hi lo v : Nat) : (setF s u off hi lo v).freeCtr = s.freeCtr := rfl

/-! ### `setEng`: an engine, with the count of its tills -/

@[simp] theorem setEng_pending (s : State) (u : UnitId) (e : Engine) : (setEng s u e).pending = s.pending := by rw [setEng, setF_pending]
@[simp] theorem setEng_variant (s : State) (u : UnitId) (e : Engine) : (setEng s u e).variant = s.variant := by rw [setEng, setF_variant]
@[simp] theorem setEng_serial (s : State) (u : UnitId) (e : Engine) : (setEng s u e).serial = s.serial := by rw [setEng, setF_serial]
@[simp] theorem setEng_hostRead (s : State) (u : UnitId) (e : Engine) : (setEng s u e).hostRead = s.hostRead := by rw [setEng, setF_hostRead]
@[simp] theorem setEng_absentAssays (s : State) (u : UnitId) (e : Engine) : (setEng s u e).absentAssays = s.absentAssays := by rw [setEng, setF_absentAssays]
@[simp] theorem setEng_disableChecks (s : State) (u : UnitId) (e : Engine) : (setEng s u e).disableChecks = s.disableChecks := by rw [setEng, setF_disableChecks]
@[simp] theorem setEng_tb (s : State) (u : UnitId) (e : Engine) : (setEng s u e).tb = s.tb := by rw [setEng, setF_tb]
@[simp] theorem setEng_tally (s : State) (u : UnitId) (e : Engine) : (setEng s u e).tally = s.tally := by rw [setEng, setF_tally]
@[simp] theorem setEng_mem (s : State) (u : UnitId) (e : Engine) : (setEng s u e).mem = s.mem := by rw [setEng, setF_mem]
@[simp] theorem setEng_poison (s : State) (u : UnitId) (e : Engine) : (setEng s u e).poison = s.poison := by rw [setEng, setF_poison]
@[simp] theorem setEng_wraps (s : State) (u : UnitId) (e : Engine) : (setEng s u e).wraps = s.wraps := by rw [setEng, setF_wraps]
@[simp] theorem setEng_host (s : State) (u : UnitId) (e : Engine) : (setEng s u e).host = s.host := by rw [setEng, setF_host]
@[simp] theorem setEng_vb (s : State) (u : UnitId) (e : Engine) : (setEng s u e).vb = s.vb := by rw [setEng, setF_vb]
@[simp] theorem setEng_hs (s : State) (u : UnitId) (e : Engine) : (setEng s u e).hs = s.hs := by rw [setEng, setF_hs]
@[simp] theorem setEng_reply (s : State) (u : UnitId) (e : Engine) : (setEng s u e).reply = s.reply := by rw [setEng, setF_reply]
@[simp] theorem setEng_rem (s : State) (u : UnitId) (e : Engine) : (setEng s u e).rem = s.rem := by rw [setEng, setF_rem]
@[simp] theorem setEng_led (s : State) (u : UnitId) (e : Engine) : (setEng s u e).led = s.led := by rw [setEng, setF_led]
@[simp] theorem setEng_vq (s : State) (u : UnitId) (e : Engine) : (setEng s u e).vq = s.vq := by rw [setEng, setF_vq]
@[simp] theorem setEng_frags (s : State) (u : UnitId) (e : Engine) : (setEng s u e).frags = s.frags := by rw [setEng, setF_frags]
@[simp] theorem setEng_splitUse (s : State) (u : UnitId) (e : Engine) : (setEng s u e).splitUse = s.splitUse := by rw [setEng, setF_splitUse]
@[simp] theorem setEng_hi (s : State) (u : UnitId) (e : Engine) : (setEng s u e).hi = s.hi := by rw [setEng, setF_hi]
@[simp] theorem setEng_esc (s : State) (u : UnitId) (e : Engine) : (setEng s u e).esc = s.esc := by rw [setEng, setF_esc]
@[simp] theorem setEng_dir (s : State) (u : UnitId) (e : Engine) : (setEng s u e).dir = s.dir := by rw [setEng, setF_dir]
@[simp] theorem setEng_fab (s : State) (u : UnitId) (e : Engine) : (setEng s u e).fab = s.fab := by rw [setEng, setF_fab]
@[simp] theorem setEng_mc (s : State) (u : UnitId) (e : Engine) : (setEng s u e).mc = s.mc := by rw [setEng, setF_mc]
@[simp] theorem setEng_pw (s : State) (u : UnitId) (e : Engine) : (setEng s u e).pw = s.pw := by rw [setEng, setF_pw]
@[simp] theorem setEng_flashDue (s : State) (u : UnitId) (e : Engine) : (setEng s u e).flashDue = s.flashDue := by rw [setEng, setF_flashDue]
@[simp] theorem setEng_locks (s : State) (u : UnitId) (e : Engine) : (setEng s u e).locks = s.locks := by rw [setEng, setF_locks]
@[simp] theorem setEng_freeCtr (s : State) (u : UnitId) (e : Engine) : (setEng s u e).freeCtr = s.freeCtr := by rw [setEng, setF_freeCtr]

/-! ### `setRing`: a ring pair -/

@[simp] theorem setRing_pending (s : State) (n : Nat) (r : Ring) : (setRing s n r).pending = s.pending := rfl
@[simp] theorem setRing_variant (s : State) (n : Nat) (r : Ring) : (setRing s n r).variant = s.variant := rfl
@[simp] theorem setRing_serial (s : State) (n : Nat) (r : Ring) : (setRing s n r).serial = s.serial := rfl
@[simp] theorem setRing_regs (s : State) (n : Nat) (r : Ring) : (setRing s n r).regs = s.regs := rfl
@[simp] theorem setRing_hostRead (s : State) (n : Nat) (r : Ring) : (setRing s n r).hostRead = s.hostRead := rfl
@[simp] theorem setRing_absentAssays (s : State) (n : Nat) (r : Ring) : (setRing s n r).absentAssays = s.absentAssays := rfl
@[simp] theorem setRing_disableChecks (s : State) (n : Nat) (r : Ring) : (setRing s n r).disableChecks = s.disableChecks := rfl
@[simp] theorem setRing_tb (s : State) (n : Nat) (r : Ring) : (setRing s n r).tb = s.tb := rfl
@[simp] theorem setRing_tally (s : State) (n : Nat) (r : Ring) : (setRing s n r).tally = s.tally := rfl
@[simp] theorem setRing_mem (s : State) (n : Nat) (r : Ring) : (setRing s n r).mem = s.mem := rfl
@[simp] theorem setRing_poison (s : State) (n : Nat) (r : Ring) : (setRing s n r).poison = s.poison := rfl
@[simp] theorem setRing_wraps (s : State) (n : Nat) (r : Ring) : (setRing s n r).wraps = s.wraps := rfl
@[simp] theorem setRing_host (s : State) (n : Nat) (r : Ring) : (setRing s n r).host = s.host := rfl
@[simp] theorem setRing_vb (s : State) (n : Nat) (r : Ring) : (setRing s n r).vb = s.vb := rfl
@[simp] theorem setRing_hs (s : State) (n : Nat) (r : Ring) : (setRing s n r).hs = s.hs := rfl
@[simp] theorem setRing_reply (s : State) (n : Nat) (r : Ring) : (setRing s n r).reply = s.reply := rfl
@[simp] theorem setRing_rem (s : State) (n : Nat) (r : Ring) : (setRing s n r).rem = s.rem := rfl
@[simp] theorem setRing_led (s : State) (n : Nat) (r : Ring) : (setRing s n r).led = s.led := rfl
@[simp] theorem setRing_eng (s : State) (n : Nat) (r : Ring) : (setRing s n r).eng = s.eng := rfl
@[simp] theorem setRing_vq (s : State) (n : Nat) (r : Ring) : (setRing s n r).vq = s.vq := rfl
@[simp] theorem setRing_frags (s : State) (n : Nat) (r : Ring) : (setRing s n r).frags = s.frags := rfl
@[simp] theorem setRing_splitUse (s : State) (n : Nat) (r : Ring) : (setRing s n r).splitUse = s.splitUse := rfl
@[simp] theorem setRing_esc (s : State) (n : Nat) (r : Ring) : (setRing s n r).esc = s.esc := rfl
@[simp] theorem setRing_dir (s : State) (n : Nat) (r : Ring) : (setRing s n r).dir = s.dir := rfl
@[simp] theorem setRing_fab (s : State) (n : Nat) (r : Ring) : (setRing s n r).fab = s.fab := rfl
@[simp] theorem setRing_mc (s : State) (n : Nat) (r : Ring) : (setRing s n r).mc = s.mc := rfl
@[simp] theorem setRing_pw (s : State) (n : Nat) (r : Ring) : (setRing s n r).pw = s.pw := rfl
@[simp] theorem setRing_flashDue (s : State) (n : Nat) (r : Ring) : (setRing s n r).flashDue = s.flashDue := rfl
@[simp] theorem setRing_locks (s : State) (n : Nat) (r : Ring) : (setRing s n r).locks = s.locks := rfl
@[simp] theorem setRing_freeCtr (s : State) (n : Nat) (r : Ring) : (setRing s n r).freeCtr = s.freeCtr := rfl

/-! ### `setDecoder`: an HDM decoder -/

@[simp] theorem setDecoder_pending (s : State) (n : Nat) (d : Decoder) : (setDecoder s n d).pending = s.pending := rfl
@[simp] theorem setDecoder_variant (s : State) (n : Nat) (d : Decoder) : (setDecoder s n d).variant = s.variant := rfl
@[simp] theorem setDecoder_serial (s : State) (n : Nat) (d : Decoder) : (setDecoder s n d).serial = s.serial := rfl
@[simp] theorem setDecoder_regs (s : State) (n : Nat) (d : Decoder) : (setDecoder s n d).regs = s.regs := rfl
@[simp] theorem setDecoder_hostRead (s : State) (n : Nat) (d : Decoder) : (setDecoder s n d).hostRead = s.hostRead := rfl
@[simp] theorem setDecoder_absentAssays (s : State) (n : Nat) (d : Decoder) : (setDecoder s n d).absentAssays = s.absentAssays := rfl
@[simp] theorem setDecoder_disableChecks (s : State) (n : Nat) (d : Decoder) : (setDecoder s n d).disableChecks = s.disableChecks := rfl
@[simp] theorem setDecoder_tb (s : State) (n : Nat) (d : Decoder) : (setDecoder s n d).tb = s.tb := rfl
@[simp] theorem setDecoder_tally (s : State) (n : Nat) (d : Decoder) : (setDecoder s n d).tally = s.tally := rfl
@[simp] theorem setDecoder_mem (s : State) (n : Nat) (d : Decoder) : (setDecoder s n d).mem = s.mem := rfl
@[simp] theorem setDecoder_poison (s : State) (n : Nat) (d : Decoder) : (setDecoder s n d).poison = s.poison := rfl
@[simp] theorem setDecoder_wraps (s : State) (n : Nat) (d : Decoder) : (setDecoder s n d).wraps = s.wraps := rfl
@[simp] theorem setDecoder_host (s : State) (n : Nat) (d : Decoder) : (setDecoder s n d).host = s.host := rfl
@[simp] theorem setDecoder_vb (s : State) (n : Nat) (d : Decoder) : (setDecoder s n d).vb = s.vb := rfl
@[simp] theorem setDecoder_hs (s : State) (n : Nat) (d : Decoder) : (setDecoder s n d).hs = s.hs := rfl
@[simp] theorem setDecoder_reply (s : State) (n : Nat) (d : Decoder) : (setDecoder s n d).reply = s.reply := rfl
@[simp] theorem setDecoder_rem (s : State) (n : Nat) (d : Decoder) : (setDecoder s n d).rem = s.rem := rfl
@[simp] theorem setDecoder_led (s : State) (n : Nat) (d : Decoder) : (setDecoder s n d).led = s.led := rfl
@[simp] theorem setDecoder_eng (s : State) (n : Nat) (d : Decoder) : (setDecoder s n d).eng = s.eng := rfl
@[simp] theorem setDecoder_vq (s : State) (n : Nat) (d : Decoder) : (setDecoder s n d).vq = s.vq := rfl
@[simp] theorem setDecoder_frags (s : State) (n : Nat) (d : Decoder) : (setDecoder s n d).frags = s.frags := rfl
@[simp] theorem setDecoder_splitUse (s : State) (n : Nat) (d : Decoder) : (setDecoder s n d).splitUse = s.splitUse := rfl
@[simp] theorem setDecoder_esc (s : State) (n : Nat) (d : Decoder) : (setDecoder s n d).esc = s.esc := rfl
@[simp] theorem setDecoder_dir (s : State) (n : Nat) (d : Decoder) : (setDecoder s n d).dir = s.dir := rfl
@[simp] theorem setDecoder_fab (s : State) (n : Nat) (d : Decoder) : (setDecoder s n d).fab = s.fab := rfl
@[simp] theorem setDecoder_mc (s : State) (n : Nat) (d : Decoder) : (setDecoder s n d).mc = s.mc := rfl
@[simp] theorem setDecoder_pw (s : State) (n : Nat) (d : Decoder) : (setDecoder s n d).pw = s.pw := rfl
@[simp] theorem setDecoder_flashDue (s : State) (n : Nat) (d : Decoder) : (setDecoder s n d).flashDue = s.flashDue := rfl
@[simp] theorem setDecoder_locks (s : State) (n : Nat) (d : Decoder) : (setDecoder s n d).locks = s.locks := rfl
@[simp] theorem setDecoder_freeCtr (s : State) (n : Nat) (d : Decoder) : (setDecoder s n d).freeCtr = s.freeCtr := rfl

/-! ### `setTask`: an admitted task -/

@[simp] theorem setTask_pending (s : State) (t : Task) : (setTask s t).pending = s.pending := rfl
@[simp] theorem setTask_variant (s : State) (t : Task) : (setTask s t).variant = s.variant := rfl
@[simp] theorem setTask_serial (s : State) (t : Task) : (setTask s t).serial = s.serial := rfl
@[simp] theorem setTask_regs (s : State) (t : Task) : (setTask s t).regs = s.regs := rfl
@[simp] theorem setTask_hostRead (s : State) (t : Task) : (setTask s t).hostRead = s.hostRead := rfl
@[simp] theorem setTask_absentAssays (s : State) (t : Task) : (setTask s t).absentAssays = s.absentAssays := rfl
@[simp] theorem setTask_disableChecks (s : State) (t : Task) : (setTask s t).disableChecks = s.disableChecks := rfl
@[simp] theorem setTask_tb (s : State) (t : Task) : (setTask s t).tb = s.tb := rfl
@[simp] theorem setTask_tally (s : State) (t : Task) : (setTask s t).tally = s.tally := rfl
@[simp] theorem setTask_mem (s : State) (t : Task) : (setTask s t).mem = s.mem := rfl
@[simp] theorem setTask_poison (s : State) (t : Task) : (setTask s t).poison = s.poison := rfl
@[simp] theorem setTask_wraps (s : State) (t : Task) : (setTask s t).wraps = s.wraps := rfl
@[simp] theorem setTask_host (s : State) (t : Task) : (setTask s t).host = s.host := rfl
@[simp] theorem setTask_vb (s : State) (t : Task) : (setTask s t).vb = s.vb := rfl
@[simp] theorem setTask_hs (s : State) (t : Task) : (setTask s t).hs = s.hs := rfl
@[simp] theorem setTask_reply (s : State) (t : Task) : (setTask s t).reply = s.reply := rfl
@[simp] theorem setTask_rem (s : State) (t : Task) : (setTask s t).rem = s.rem := rfl
@[simp] theorem setTask_eng (s : State) (t : Task) : (setTask s t).eng = s.eng := rfl
@[simp] theorem setTask_vq (s : State) (t : Task) : (setTask s t).vq = s.vq := rfl
@[simp] theorem setTask_frags (s : State) (t : Task) : (setTask s t).frags = s.frags := rfl
@[simp] theorem setTask_splitUse (s : State) (t : Task) : (setTask s t).splitUse = s.splitUse := rfl
@[simp] theorem setTask_hi (s : State) (t : Task) : (setTask s t).hi = s.hi := rfl
@[simp] theorem setTask_esc (s : State) (t : Task) : (setTask s t).esc = s.esc := rfl
@[simp] theorem setTask_dir (s : State) (t : Task) : (setTask s t).dir = s.dir := rfl
@[simp] theorem setTask_fab (s : State) (t : Task) : (setTask s t).fab = s.fab := rfl
@[simp] theorem setTask_mc (s : State) (t : Task) : (setTask s t).mc = s.mc := rfl
@[simp] theorem setTask_pw (s : State) (t : Task) : (setTask s t).pw = s.pw := rfl
@[simp] theorem setTask_flashDue (s : State) (t : Task) : (setTask s t).flashDue = s.flashDue := rfl
@[simp] theorem setTask_locks (s : State) (t : Task) : (setTask s t).locks = s.locks := rfl
@[simp] theorem setTask_freeCtr (s : State) (t : Task) : (setTask s t).freeCtr = s.freeCtr := rfl

/-! ### `setTblEntry`: a table registry entry -/

@[simp] theorem setTblEntry_pending (s : State) (n : Nat) (e : TblEntry) : (setTblEntry s n e).pending = s.pending := rfl
@[simp] theorem setTblEntry_variant (s : State) (n : Nat) (e : TblEntry) : (setTblEntry s n e).variant = s.variant := rfl
@[simp] theorem setTblEntry_serial (s : State) (n : Nat) (e : TblEntry) : (setTblEntry s n e).serial = s.serial := rfl
@[simp] theorem setTblEntry_regs (s : State) (n : Nat) (e : TblEntry) : (setTblEntry s n e).regs = s.regs := rfl
@[simp] theorem setTblEntry_hostRead (s : State) (n : Nat) (e : TblEntry) : (setTblEntry s n e).hostRead = s.hostRead := rfl
@[simp] theorem setTblEntry_absentAssays (s : State) (n : Nat) (e : TblEntry) : (setTblEntry s n e).absentAssays = s.absentAssays := rfl
@[simp] theorem setTblEntry_disableChecks (s : State) (n : Nat) (e : TblEntry) : (setTblEntry s n e).disableChecks = s.disableChecks := rfl
@[simp] theorem setTblEntry_tb (s : State) (n : Nat) (e : TblEntry) : (setTblEntry s n e).tb = s.tb := rfl
@[simp] theorem setTblEntry_tally (s : State) (n : Nat) (e : TblEntry) : (setTblEntry s n e).tally = s.tally := rfl
@[simp] theorem setTblEntry_mem (s : State) (n : Nat) (e : TblEntry) : (setTblEntry s n e).mem = s.mem := rfl
@[simp] theorem setTblEntry_poison (s : State) (n : Nat) (e : TblEntry) : (setTblEntry s n e).poison = s.poison := rfl
@[simp] theorem setTblEntry_wraps (s : State) (n : Nat) (e : TblEntry) : (setTblEntry s n e).wraps = s.wraps := rfl
@[simp] theorem setTblEntry_host (s : State) (n : Nat) (e : TblEntry) : (setTblEntry s n e).host = s.host := rfl
@[simp] theorem setTblEntry_vb (s : State) (n : Nat) (e : TblEntry) : (setTblEntry s n e).vb = s.vb := rfl
@[simp] theorem setTblEntry_hs (s : State) (n : Nat) (e : TblEntry) : (setTblEntry s n e).hs = s.hs := rfl
@[simp] theorem setTblEntry_reply (s : State) (n : Nat) (e : TblEntry) : (setTblEntry s n e).reply = s.reply := rfl
@[simp] theorem setTblEntry_rem (s : State) (n : Nat) (e : TblEntry) : (setTblEntry s n e).rem = s.rem := rfl
@[simp] theorem setTblEntry_eng (s : State) (n : Nat) (e : TblEntry) : (setTblEntry s n e).eng = s.eng := rfl
@[simp] theorem setTblEntry_vq (s : State) (n : Nat) (e : TblEntry) : (setTblEntry s n e).vq = s.vq := rfl
@[simp] theorem setTblEntry_frags (s : State) (n : Nat) (e : TblEntry) : (setTblEntry s n e).frags = s.frags := rfl
@[simp] theorem setTblEntry_splitUse (s : State) (n : Nat) (e : TblEntry) : (setTblEntry s n e).splitUse = s.splitUse := rfl
@[simp] theorem setTblEntry_hi (s : State) (n : Nat) (e : TblEntry) : (setTblEntry s n e).hi = s.hi := rfl
@[simp] theorem setTblEntry_esc (s : State) (n : Nat) (e : TblEntry) : (setTblEntry s n e).esc = s.esc := rfl
@[simp] theorem setTblEntry_dir (s : State) (n : Nat) (e : TblEntry) : (setTblEntry s n e).dir = s.dir := rfl
@[simp] theorem setTblEntry_fab (s : State) (n : Nat) (e : TblEntry) : (setTblEntry s n e).fab = s.fab := rfl
@[simp] theorem setTblEntry_mc (s : State) (n : Nat) (e : TblEntry) : (setTblEntry s n e).mc = s.mc := rfl
@[simp] theorem setTblEntry_pw (s : State) (n : Nat) (e : TblEntry) : (setTblEntry s n e).pw = s.pw := rfl
@[simp] theorem setTblEntry_flashDue (s : State) (n : Nat) (e : TblEntry) : (setTblEntry s n e).flashDue = s.flashDue := rfl
@[simp] theorem setTblEntry_locks (s : State) (n : Nat) (e : TblEntry) : (setTblEntry s n e).locks = s.locks := rfl
@[simp] theorem setTblEntry_freeCtr (s : State) (n : Nat) (e : TblEntry) : (setTblEntry s n e).freeCtr = s.freeCtr := rfl

/-! ### `setBank`: a vault bank -/

@[simp] theorem setBank_pending (s : State) (b : Nat) (v : VaultBank) : (setBank s b v).pending = s.pending := by rw [setBank, setF_pending]
@[simp] theorem setBank_variant (s : State) (b : Nat) (v : VaultBank) : (setBank s b v).variant = s.variant := by rw [setBank, setF_variant]
@[simp] theorem setBank_serial (s : State) (b : Nat) (v : VaultBank) : (setBank s b v).serial = s.serial := by rw [setBank, setF_serial]
@[simp] theorem setBank_hostRead (s : State) (b : Nat) (v : VaultBank) : (setBank s b v).hostRead = s.hostRead := by rw [setBank, setF_hostRead]
@[simp] theorem setBank_absentAssays (s : State) (b : Nat) (v : VaultBank) : (setBank s b v).absentAssays = s.absentAssays := by rw [setBank, setF_absentAssays]
@[simp] theorem setBank_disableChecks (s : State) (b : Nat) (v : VaultBank) : (setBank s b v).disableChecks = s.disableChecks := by rw [setBank, setF_disableChecks]
@[simp] theorem setBank_tb (s : State) (b : Nat) (v : VaultBank) : (setBank s b v).tb = s.tb := by rw [setBank, setF_tb]
@[simp] theorem setBank_tally (s : State) (b : Nat) (v : VaultBank) : (setBank s b v).tally = s.tally := by rw [setBank, setF_tally]
@[simp] theorem setBank_mem (s : State) (b : Nat) (v : VaultBank) : (setBank s b v).mem = s.mem := by rw [setBank, setF_mem]
@[simp] theorem setBank_poison (s : State) (b : Nat) (v : VaultBank) : (setBank s b v).poison = s.poison := by rw [setBank, setF_poison]
@[simp] theorem setBank_wraps (s : State) (b : Nat) (v : VaultBank) : (setBank s b v).wraps = s.wraps := by rw [setBank, setF_wraps]
@[simp] theorem setBank_host (s : State) (b : Nat) (v : VaultBank) : (setBank s b v).host = s.host := by rw [setBank, setF_host]
@[simp] theorem setBank_hs (s : State) (b : Nat) (v : VaultBank) : (setBank s b v).hs = s.hs := by rw [setBank, setF_hs]
@[simp] theorem setBank_reply (s : State) (b : Nat) (v : VaultBank) : (setBank s b v).reply = s.reply := by rw [setBank, setF_reply]
@[simp] theorem setBank_rem (s : State) (b : Nat) (v : VaultBank) : (setBank s b v).rem = s.rem := by rw [setBank, setF_rem]
@[simp] theorem setBank_led (s : State) (b : Nat) (v : VaultBank) : (setBank s b v).led = s.led := by rw [setBank, setF_led]
@[simp] theorem setBank_eng (s : State) (b : Nat) (v : VaultBank) : (setBank s b v).eng = s.eng := by rw [setBank, setF_eng]
@[simp] theorem setBank_vq (s : State) (b : Nat) (v : VaultBank) : (setBank s b v).vq = s.vq := by rw [setBank, setF_vq]
@[simp] theorem setBank_frags (s : State) (b : Nat) (v : VaultBank) : (setBank s b v).frags = s.frags := by rw [setBank, setF_frags]
@[simp] theorem setBank_splitUse (s : State) (b : Nat) (v : VaultBank) : (setBank s b v).splitUse = s.splitUse := by rw [setBank, setF_splitUse]
@[simp] theorem setBank_hi (s : State) (b : Nat) (v : VaultBank) : (setBank s b v).hi = s.hi := by rw [setBank, setF_hi]
@[simp] theorem setBank_esc (s : State) (b : Nat) (v : VaultBank) : (setBank s b v).esc = s.esc := by rw [setBank, setF_esc]
@[simp] theorem setBank_dir (s : State) (b : Nat) (v : VaultBank) : (setBank s b v).dir = s.dir := by rw [setBank, setF_dir]
@[simp] theorem setBank_fab (s : State) (b : Nat) (v : VaultBank) : (setBank s b v).fab = s.fab := by rw [setBank, setF_fab]
@[simp] theorem setBank_mc (s : State) (b : Nat) (v : VaultBank) : (setBank s b v).mc = s.mc := by rw [setBank, setF_mc]
@[simp] theorem setBank_pw (s : State) (b : Nat) (v : VaultBank) : (setBank s b v).pw = s.pw := by rw [setBank, setF_pw]
@[simp] theorem setBank_flashDue (s : State) (b : Nat) (v : VaultBank) : (setBank s b v).flashDue = s.flashDue := by rw [setBank, setF_flashDue]
@[simp] theorem setBank_locks (s : State) (b : Nat) (v : VaultBank) : (setBank s b v).locks = s.locks := by rw [setBank, setF_locks]
@[simp] theorem setBank_freeCtr (s : State) (b : Nat) (v : VaultBank) : (setBank s b v).freeCtr = s.freeCtr := by rw [setBank, setF_freeCtr]

/-! ### `setStack`: a stack controller -/

@[simp] theorem setStack_pending (s : State) (st : Nat) (h : Stack) : (setStack s st h).pending = s.pending := rfl
@[simp] theorem setStack_variant (s : State) (st : Nat) (h : Stack) : (setStack s st h).variant = s.variant := rfl
@[simp] theorem setStack_serial (s : State) (st : Nat) (h : Stack) : (setStack s st h).serial = s.serial := rfl
@[simp] theorem setStack_regs (s : State) (st : Nat) (h : Stack) : (setStack s st h).regs = s.regs := rfl
@[simp] theorem setStack_hostRead (s : State) (st : Nat) (h : Stack) : (setStack s st h).hostRead = s.hostRead := rfl
@[simp] theorem setStack_absentAssays (s : State) (st : Nat) (h : Stack) : (setStack s st h).absentAssays = s.absentAssays := rfl
@[simp] theorem setStack_disableChecks (s : State) (st : Nat) (h : Stack) : (setStack s st h).disableChecks = s.disableChecks := rfl
@[simp] theorem setStack_tb (s : State) (st : Nat) (h : Stack) : (setStack s st h).tb = s.tb := rfl
@[simp] theorem setStack_tally (s : State) (st : Nat) (h : Stack) : (setStack s st h).tally = s.tally := rfl
@[simp] theorem setStack_mem (s : State) (st : Nat) (h : Stack) : (setStack s st h).mem = s.mem := rfl
@[simp] theorem setStack_poison (s : State) (st : Nat) (h : Stack) : (setStack s st h).poison = s.poison := rfl
@[simp] theorem setStack_wraps (s : State) (st : Nat) (h : Stack) : (setStack s st h).wraps = s.wraps := rfl
@[simp] theorem setStack_host (s : State) (st : Nat) (h : Stack) : (setStack s st h).host = s.host := rfl
@[simp] theorem setStack_vb (s : State) (st : Nat) (h : Stack) : (setStack s st h).vb = s.vb := rfl
@[simp] theorem setStack_reply (s : State) (st : Nat) (h : Stack) : (setStack s st h).reply = s.reply := rfl
@[simp] theorem setStack_rem (s : State) (st : Nat) (h : Stack) : (setStack s st h).rem = s.rem := rfl
@[simp] theorem setStack_led (s : State) (st : Nat) (h : Stack) : (setStack s st h).led = s.led := rfl
@[simp] theorem setStack_eng (s : State) (st : Nat) (h : Stack) : (setStack s st h).eng = s.eng := rfl
@[simp] theorem setStack_vq (s : State) (st : Nat) (h : Stack) : (setStack s st h).vq = s.vq := rfl
@[simp] theorem setStack_frags (s : State) (st : Nat) (h : Stack) : (setStack s st h).frags = s.frags := rfl
@[simp] theorem setStack_splitUse (s : State) (st : Nat) (h : Stack) : (setStack s st h).splitUse = s.splitUse := rfl
@[simp] theorem setStack_hi (s : State) (st : Nat) (h : Stack) : (setStack s st h).hi = s.hi := rfl
@[simp] theorem setStack_esc (s : State) (st : Nat) (h : Stack) : (setStack s st h).esc = s.esc := rfl
@[simp] theorem setStack_dir (s : State) (st : Nat) (h : Stack) : (setStack s st h).dir = s.dir := rfl
@[simp] theorem setStack_fab (s : State) (st : Nat) (h : Stack) : (setStack s st h).fab = s.fab := rfl
@[simp] theorem setStack_mc (s : State) (st : Nat) (h : Stack) : (setStack s st h).mc = s.mc := rfl
@[simp] theorem setStack_pw (s : State) (st : Nat) (h : Stack) : (setStack s st h).pw = s.pw := rfl
@[simp] theorem setStack_flashDue (s : State) (st : Nat) (h : Stack) : (setStack s st h).flashDue = s.flashDue := rfl
@[simp] theorem setStack_locks (s : State) (st : Nat) (h : Stack) : (setStack s st h).locks = s.locks := rfl
@[simp] theorem setStack_freeCtr (s : State) (st : Nat) (h : Stack) : (setStack s st h).freeCtr = s.freeCtr := rfl

/-! ### `setPort`: a fabric port -/

@[simp] theorem setPort_pending (s : State) (p : Nat) (x : Port) : (setPort s p x).pending = s.pending := by rw [setPort, setF_pending]
@[simp] theorem setPort_variant (s : State) (p : Nat) (x : Port) : (setPort s p x).variant = s.variant := by rw [setPort, setF_variant]
@[simp] theorem setPort_serial (s : State) (p : Nat) (x : Port) : (setPort s p x).serial = s.serial := by rw [setPort, setF_serial]
@[simp] theorem setPort_hostRead (s : State) (p : Nat) (x : Port) : (setPort s p x).hostRead = s.hostRead := by rw [setPort, setF_hostRead]
@[simp] theorem setPort_absentAssays (s : State) (p : Nat) (x : Port) : (setPort s p x).absentAssays = s.absentAssays := by rw [setPort, setF_absentAssays]
@[simp] theorem setPort_disableChecks (s : State) (p : Nat) (x : Port) : (setPort s p x).disableChecks = s.disableChecks := by rw [setPort, setF_disableChecks]
@[simp] theorem setPort_tb (s : State) (p : Nat) (x : Port) : (setPort s p x).tb = s.tb := by rw [setPort, setF_tb]
@[simp] theorem setPort_tally (s : State) (p : Nat) (x : Port) : (setPort s p x).tally = s.tally := by rw [setPort, setF_tally]
@[simp] theorem setPort_mem (s : State) (p : Nat) (x : Port) : (setPort s p x).mem = s.mem := by rw [setPort, setF_mem]
@[simp] theorem setPort_poison (s : State) (p : Nat) (x : Port) : (setPort s p x).poison = s.poison := by rw [setPort, setF_poison]
@[simp] theorem setPort_wraps (s : State) (p : Nat) (x : Port) : (setPort s p x).wraps = s.wraps := by rw [setPort, setF_wraps]
@[simp] theorem setPort_host (s : State) (p : Nat) (x : Port) : (setPort s p x).host = s.host := by rw [setPort, setF_host]
@[simp] theorem setPort_vb (s : State) (p : Nat) (x : Port) : (setPort s p x).vb = s.vb := by rw [setPort, setF_vb]
@[simp] theorem setPort_hs (s : State) (p : Nat) (x : Port) : (setPort s p x).hs = s.hs := by rw [setPort, setF_hs]
@[simp] theorem setPort_reply (s : State) (p : Nat) (x : Port) : (setPort s p x).reply = s.reply := by rw [setPort, setF_reply]
@[simp] theorem setPort_rem (s : State) (p : Nat) (x : Port) : (setPort s p x).rem = s.rem := by rw [setPort, setF_rem]
@[simp] theorem setPort_led (s : State) (p : Nat) (x : Port) : (setPort s p x).led = s.led := by rw [setPort, setF_led]
@[simp] theorem setPort_eng (s : State) (p : Nat) (x : Port) : (setPort s p x).eng = s.eng := by rw [setPort, setF_eng]
@[simp] theorem setPort_vq (s : State) (p : Nat) (x : Port) : (setPort s p x).vq = s.vq := by rw [setPort, setF_vq]
@[simp] theorem setPort_frags (s : State) (p : Nat) (x : Port) : (setPort s p x).frags = s.frags := by rw [setPort, setF_frags]
@[simp] theorem setPort_splitUse (s : State) (p : Nat) (x : Port) : (setPort s p x).splitUse = s.splitUse := by rw [setPort, setF_splitUse]
@[simp] theorem setPort_hi (s : State) (p : Nat) (x : Port) : (setPort s p x).hi = s.hi := by rw [setPort, setF_hi]
@[simp] theorem setPort_esc (s : State) (p : Nat) (x : Port) : (setPort s p x).esc = s.esc := by rw [setPort, setF_esc]
@[simp] theorem setPort_dir (s : State) (p : Nat) (x : Port) : (setPort s p x).dir = s.dir := by rw [setPort, setF_dir]
@[simp] theorem setPort_mc (s : State) (p : Nat) (x : Port) : (setPort s p x).mc = s.mc := by rw [setPort, setF_mc]
@[simp] theorem setPort_pw (s : State) (p : Nat) (x : Port) : (setPort s p x).pw = s.pw := by rw [setPort, setF_pw]
@[simp] theorem setPort_flashDue (s : State) (p : Nat) (x : Port) : (setPort s p x).flashDue = s.flashDue := by rw [setPort, setF_flashDue]
@[simp] theorem setPort_locks (s : State) (p : Nat) (x : Port) : (setPort s p x).locks = s.locks := by rw [setPort, setF_locks]
@[simp] theorem setPort_freeCtr (s : State) (p : Nat) (x : Port) : (setPort s p x).freeCtr = s.freeCtr := by rw [setPort, setF_freeCtr]

/-! ### `putByte`: a byte of device memory -/

@[simp] theorem putByte_pending (s : State) (a : Nat) (b : Byte) : (putByte s a b).pending = s.pending := rfl
@[simp] theorem putByte_variant (s : State) (a : Nat) (b : Byte) : (putByte s a b).variant = s.variant := rfl
@[simp] theorem putByte_serial (s : State) (a : Nat) (b : Byte) : (putByte s a b).serial = s.serial := rfl
@[simp] theorem putByte_regs (s : State) (a : Nat) (b : Byte) : (putByte s a b).regs = s.regs := rfl
@[simp] theorem putByte_hostRead (s : State) (a : Nat) (b : Byte) : (putByte s a b).hostRead = s.hostRead := rfl
@[simp] theorem putByte_absentAssays (s : State) (a : Nat) (b : Byte) : (putByte s a b).absentAssays = s.absentAssays := rfl
@[simp] theorem putByte_disableChecks (s : State) (a : Nat) (b : Byte) : (putByte s a b).disableChecks = s.disableChecks := rfl
@[simp] theorem putByte_tb (s : State) (a : Nat) (b : Byte) : (putByte s a b).tb = s.tb := rfl
@[simp] theorem putByte_tally (s : State) (a : Nat) (b : Byte) : (putByte s a b).tally = s.tally := rfl
@[simp] theorem putByte_poison (s : State) (a : Nat) (b : Byte) : (putByte s a b).poison = s.poison := rfl
@[simp] theorem putByte_wraps (s : State) (a : Nat) (b : Byte) : (putByte s a b).wraps = s.wraps := rfl
@[simp] theorem putByte_host (s : State) (a : Nat) (b : Byte) : (putByte s a b).host = s.host := rfl
@[simp] theorem putByte_vb (s : State) (a : Nat) (b : Byte) : (putByte s a b).vb = s.vb := rfl
@[simp] theorem putByte_hs (s : State) (a : Nat) (b : Byte) : (putByte s a b).hs = s.hs := rfl
@[simp] theorem putByte_reply (s : State) (a : Nat) (b : Byte) : (putByte s a b).reply = s.reply := rfl
@[simp] theorem putByte_rem (s : State) (a : Nat) (b : Byte) : (putByte s a b).rem = s.rem := rfl
@[simp] theorem putByte_led (s : State) (a : Nat) (b : Byte) : (putByte s a b).led = s.led := rfl
@[simp] theorem putByte_eng (s : State) (a : Nat) (b : Byte) : (putByte s a b).eng = s.eng := rfl
@[simp] theorem putByte_vq (s : State) (a : Nat) (b : Byte) : (putByte s a b).vq = s.vq := rfl
@[simp] theorem putByte_frags (s : State) (a : Nat) (b : Byte) : (putByte s a b).frags = s.frags := rfl
@[simp] theorem putByte_splitUse (s : State) (a : Nat) (b : Byte) : (putByte s a b).splitUse = s.splitUse := rfl
@[simp] theorem putByte_hi (s : State) (a : Nat) (b : Byte) : (putByte s a b).hi = s.hi := rfl
@[simp] theorem putByte_esc (s : State) (a : Nat) (b : Byte) : (putByte s a b).esc = s.esc := rfl
@[simp] theorem putByte_dir (s : State) (a : Nat) (b : Byte) : (putByte s a b).dir = s.dir := rfl
@[simp] theorem putByte_fab (s : State) (a : Nat) (b : Byte) : (putByte s a b).fab = s.fab := rfl
@[simp] theorem putByte_mc (s : State) (a : Nat) (b : Byte) : (putByte s a b).mc = s.mc := rfl
@[simp] theorem putByte_pw (s : State) (a : Nat) (b : Byte) : (putByte s a b).pw = s.pw := rfl
@[simp] theorem putByte_flashDue (s : State) (a : Nat) (b : Byte) : (putByte s a b).flashDue = s.flashDue := rfl
@[simp] theorem putByte_locks (s : State) (a : Nat) (b : Byte) : (putByte s a b).locks = s.locks := rfl
@[simp] theorem putByte_freeCtr (s : State) (a : Nat) (b : Byte) : (putByte s a b).freeCtr = s.freeCtr := rfl

/-! ### Reading back -/

theorem engOf_setEng (s : State) (u : UnitId) (e : Engine) : engOf (setEng s u e) u = e := tblGet_set_same _ _ _ _

theorem engOf_setEng_ne (s : State) {u v : UnitId} (h : pageOf v ≠ pageOf u) (e : Engine) : engOf (setEng s u e) v = engOf s v :=
  tblGet_set_ne _ _ h _

theorem ringOf_setRing (s : State) (n : Nat) (r : Ring) : ringOf (setRing s n r) n = r := tblGet_set_same _ _ _ _

theorem ringOf_setRing_ne (s : State) {n k : Nat} (h : k % 256 ≠ n % 256) (r : Ring) : ringOf (setRing s n r) k = ringOf s k :=
  tblGet_set_ne _ _ h _

theorem bankOf_setBank (s : State) (b : Nat) (v : VaultBank) : bankOf (setBank s b v) b = v := by
  unfold bankOf setBank
  rw [setF_vb]
  exact tblGet_set_same _ _ _ _

theorem stackOf_setStack (s : State) (st : Nat) (h : Stack) : stackOf (setStack s st h) st = h := tblGet_set_same _ _ _ _

theorem portOf_setPort (s : State) (p : Nat) (x : Port) : portOf (setPort s p x) p = x := by
  unfold portOf setPort
  rw [setF_fab]
  exact tblGet_set_same _ _ _ _

theorem rawByte_putByte (s : State) (a k : Nat) (b : Byte) : rawByte (putByte s a b) k = if k = a then b else rawByte s k :=
  tblGet_set _ _ _ _ _

end Sys2Proof.Machine
end

