-- ==== Sys2Proof/Laws/Memory.lean ====
section
/-! SUPPORT. Device memory and host memory: a write reads back, leaves every other byte alone and keeps the canonical form,
which the memory of the reset state has. -/

namespace Sys2Proof.Machine

open Sys2Proof

theorem reset_mem_wf : Memory.wf State.reset.mem = true := rfl

theorem reset_host_wf : Memory.wf State.reset.host = true := rfl

theorem putByte_wf {s : State} (h : Memory.wf s.mem = true) (a : Nat) (b : Byte) : Memory.wf (putByte s a b).mem = true :=
  tblWf_set h a b

theorem putBytes_wf : ∀ (l : List Byte) {s : State} (a : Nat), Memory.wf s.mem = true → Memory.wf (putBytes s a l).mem = true
  | [], _, _, h => h
  | b :: l, _, a, h => putBytes_wf l (a + 1) (putByte_wf h a b)

theorem copyRange_wf {s : State} (h : Memory.wf s.mem = true) (src dst n : Nat) : Memory.wf (copyRange s src dst n).mem = true :=
  tblWf_foldl (fun e : Host.Cell => dst + (e.1 - src)) (fun e => e.2) _ (tblWf_clear h dst n)

/-- Bytes outside a write read as before. -/
theorem rawByte_putBytes_outside : ∀ (l : List Byte) (s : State) (a j : Nat), j < a ∨ a + l.length ≤ j →
    rawByte (putBytes s a l) j = rawByte s j
  | [], _, _, _, _ => rfl
  | b :: l, s, a, j, h => by
    simp only [List.length_cons] at h
    unfold putBytes
    rw [rawByte_putBytes_outside l _ _ _ (by omega), rawByte_putByte, if_neg (by omega)]

/-- Bytes of a write read as written. -/
theorem rawByte_putBytes_inside : ∀ (l : List Byte) (s : State) (a k : Nat), k < l.length →
    rawByte (putBytes s a l) (a + k) = l.getD k 0
  | [], _, _, _, h => by cases h
  | b :: l, s, a, 0, _ => by
    unfold putBytes
    rw [rawByte_putBytes_outside l _ _ _ (by omega), rawByte_putByte, if_pos (by omega)]
    rfl
  | b :: l, s, a, k + 1, h => by
    simp only [List.length_cons] at h
    unfold putBytes
    rw [show a + (k + 1) = a + 1 + k by omega, rawByte_putBytes_inside l _ _ _ (by omega)]
    rfl

/-- A write to host memory keeps the canonical form. -/
theorem hostWrite_wf : ∀ (l : List Byte) {s : State} (a : Nat), Memory.wf s.host = true → Memory.wf (hostWrite s a l).host = true
  | [], _, _, h => h
  | b :: l, _, a, h => by
    unfold hostWrite
    exact hostWrite_wf l (a + 1) (tblWf_set h a b)

theorem hostByte_hostWrite_outside : ∀ (l : List Byte) (s : State) (a j : Nat), j < a ∨ a + l.length ≤ j →
    hostByte (hostWrite s a l) j = hostByte s j
  | [], _, _, _, _ => rfl
  | b :: l, s, a, j, h => by
    simp only [List.length_cons] at h
    unfold hostWrite
    rw [hostByte_hostWrite_outside l _ _ _ (by omega)]
    unfold hostByte
    exact tblGet_set_ne _ _ (by omega) _

theorem hostByte_hostWrite_inside : ∀ (l : List Byte) (s : State) (a k : Nat), k < l.length →
    hostByte (hostWrite s a l) (a + k) = l.getD k 0
  | [], _, _, _, h => by cases h
  | b :: l, s, a, 0, _ => by
    unfold hostWrite
    rw [Nat.add_zero, hostByte_hostWrite_outside l _ _ _ (by omega)]
    exact tblGet_set_same _ _ _ _
  | b :: l, s, a, k + 1, h => by
    simp only [List.length_cons] at h
    unfold hostWrite
    rw [show a + (k + 1) = a + 1 + k by omega, hostByte_hostWrite_inside l _ _ _ (by omega)]
    rfl

end Sys2Proof.Machine
end

