-- ==== Sys2Proof/Laws/MergeKept.lean ====
section
/-! SUPPORT. What the operations of Machine/Merge.lean keep. -/

namespace Sys2Proof.Machine

open Sys2Proof

theorem countRecords_keeps {R dm hm s x u d takenN written dropped} (kr : Closed R dm hm) (hx : Keeps R s x) :
    Keeps R s (countRecords x u d takenN written dropped) := by
  unfold countRecords
  exact engineTally_keeps kr (bump64_keeps kr (bump64_keeps kr hx))

theorem denseAdd_keeps {R hm s u t a2 x} (kr : Closed R true hm) (hx : Keeps R s x) :
    KeepsFst R s (denseAdd u t a2 x) := by
  induction a2 generalizing u t x with
  | nil => rw [denseAdd]; exact keepsFst_mk hx
  | cons e t ih => rw [denseAdd]; exact keepsFst_mk (keeps_fst (ih (keeps_fst (accumulateRow_keeps kr hx))))

theorem readRecords_keeps {R dm hm s u t a2 x} (kr : Closed R dm hm) (hx : Keeps R s x) :
    KeepsFst R s (readRecords u t a2 x) := by
  induction a2 generalizing u t x with
  | nil => rw [readRecords]; exact keepsFst_mk hx
  | cons e t ih => rw [readRecords]; exact keepsFst_mk (keeps_fst (ih (keeps_fst (engineLoad_keeps kr (keeps_fst
    (engineLoad_keeps kr hx))))))

theorem reduceRecords_keeps {R hm s u t order all rmax x} (kr : Closed R true hm) (hx : Keeps R s x) :
    Keeps R s (reduceRecords u t order all rmax x) := by
  unfold reduceRecords
  exact every_ite (finishFront_keeps kr (bump_keeps kr (countRecords_keeps kr (keeps_fst (denseAdd_keeps kr hx)))))
    (every_keep (fun h3 => every_keep (fun h4 => every_keep (fun h5 => every_keep (fun h6 => every_keep (fun h7 =>
    every_ite (finishBad_keeps kr (setReg_keeps kr h7)) (finishFront_keeps kr (engineStore_keeps kr h7))) (keeps_mk kr
    h6 rfl rfl rfl rfl rfl rfl rfl rfl)) (bump_keeps kr (bump64_keeps kr (countRecords_keeps kr h5))))
    (engineStore_keeps kr h4)) (engineStore_keeps kr h3)) (every_ite hx (engineStore_keeps kr hx)))

theorem reduceRun_keeps {R hm s u order t x} (kr : Closed R true hm) (hx : Keeps R s x) :
    Keeps R s (reduceRun u order t x) := by
  unfold reduceRun
  exact every_keep (fun h1 => (by
    try dsimp only
    split
    exact finishBad_keeps kr (keeps_fst h1)
    exact every_keep (fun h2 => every_ite (keeps_fst h2) (reduceRecords_keeps kr (keeps_fst h2))) (readRecords_keeps
      kr (keeps_fst h1)))) (engineLoad_keeps kr hx)

theorem execReduce_keeps {R hm s engine order x} (kr : Closed R true hm) (hx : Keeps R s x) :
    KeepsNext R s (execReduce engine order x) := by
  unfold execReduce
  exact keepsNext_mk (runFront_keeps kr (undefinedOp_keeps kr hx) (fun _ _ h1 => reduceRun_keeps kr h1))

end Sys2Proof.Machine
end

