-- ==== Sys2Proof/Laws/PoolingKept.lean ====
section
/-! SUPPORT. What the operations of Machine/Pooling.lean keep. -/

namespace Sys2Proof.Machine

open Sys2Proof

theorem wpSegment_keeps {R dm hm s x u t k} (kr : Closed R dm hm) (hx : Keeps R s x) :
    KeepsFst R s (wpSegment x u t k) := by
  unfold wpSegment
  exact every_ite (keepsFst_mk (keeps_fst (engineLoad_keeps kr hx))) (keepsFst_mk hx)

theorem wpPosition_keeps {R dm hm s u t r p} (kr : Closed R dm hm) (hr : KeepsFst R s r) :
    KeepsFst R s (wpPosition u t r p) := by
  unfold wpPosition
  exact keepsFst_mk (keeps_fst (engineLoad_keeps kr (keeps_fst (engineLoad_keeps kr (keeps_fst hr)))))

theorem wpSegmentRun_keeps {R hm s u t r k} (kr : Closed R true hm) (hr : KeepsFst R s r) :
    KeepsFst R s (wpSegmentRun u t r k) := by
  unfold wpSegmentRun
  exact every_keep (fun h1 => keepsFst_mk (engineStore_keeps kr (keeps_fst (every_foldl _ (keepsFst_mk (keeps_fst h1))
    (fun _ _ h3 => wpPosition_keeps kr h3))))) (wpSegment_keeps kr (keeps_fst hr))

theorem wpoolRun_keeps {R hm s u t x} (kr : Closed R true hm) (hx : Keeps R s x) :
    Keeps R s (wpoolRun u t x) := by
  unfold wpoolRun
  exact finishOk_keeps kr (setF_keeps kr (keeps_fst (every_foldl _ (keepsFst_mk hx) (fun _ _ h2 => wpSegmentRun_keeps
    kr h2))))

theorem execWpool_keeps {R hm s ve x} (kr : Closed R true hm) (hx : Keeps R s x) :
    KeepsNext R s (execWpool ve x) := by
  unfold execWpool
  exact keepsNext_mk (runFront_keeps kr hx (fun _ _ h1 => wpoolRun_keeps kr h1))

end Sys2Proof.Machine
end

