-- ==== Sys2Proof/Laws/PowerKept.lean ====
section
/-! SUPPORT. What the operations of Machine/Power.lean keep. -/

namespace Sys2Proof.Machine

open Sys2Proof

theorem capStep_keeps {R dm hm s x} (kr : Closed R dm hm) (hx : Keeps R s x) :
    Keeps R s (capStep x) := by
  unfold capStep
  exact keeps_mk kr (every_ite (bump64_keeps kr hx) hx) rfl rfl rfl rfl rfl rfl rfl rfl

theorem capUnmet_keeps {R dm hm s x} (kr : Closed R dm hm) (hx : Keeps R s x) :
    Keeps R s (capUnmet x) := by
  unfold capUnmet
  exact (by
    split
    exact every_ite (raiseErr_keeps kr (setF_keeps kr (timeUpTo_keeps kr hx))) hx
    exact hx)

theorem coolantRead_keeps {R dm hm s x} (kr : Closed R dm hm) (hx : Keeps R s x) :
    Keeps R s (coolantRead x) := by
  unfold coolantRead
  exact every_keep (fun h1 => every_ite (raiseErr_keeps kr h1) h1) (setReg_keeps kr hx)

theorem execCapStep_keeps {R dm hm s x} (kr : Closed R dm hm) (hx : Keeps R s x) :
    KeepsNext R s (execCapStep x) := by
  unfold execCapStep
  exact keepsNext_mk (every_ite (capStep_keeps kr hx) hx)

theorem execCapUnmet_keeps {R dm hm s x} (kr : Closed R dm hm) (hx : Keeps R s x) :
    KeepsNext R s (execCapUnmet x) := by
  unfold execCapUnmet
  exact keepsNext_mk (every_ite (capUnmet_keeps kr hx) hx)

theorem setDown_keeps {R dm hm s x q n} (kr : Closed R dm hm) (hx : Keeps R s x) :
    Keeps R s (setDown x q n) := by
  unfold setDown
  exact keeps_mk kr hx rfl rfl rfl rfl rfl rfl rfl rfl

theorem junctionStep_keeps {R dm hm s x q} (kr : Closed R dm hm) (hx : Keeps R s x) :
    Keeps R s (junctionStep x q) := by
  unfold junctionStep
  exact every_ite (setDown_keeps kr hx) (setDown_keeps kr hx)

theorem execJuncThrottle_keeps {R dm hm s q x} (kr : Closed R dm hm) (hx : Keeps R s x) :
    KeepsNext R s (execJuncThrottle q x) := by
  unfold execJuncThrottle
  exact keepsNext_mk (every_ite (junctionStep_keeps kr hx) hx)

theorem measurePower_keeps {R dm hm s x watts mv centiamps auxMv auxMw} (kr : Closed R dm hm) (hx : Keeps R s x) :
    Keeps R s (measurePower x watts mv centiamps auxMv auxMw) := by
  unfold measurePower
  exact every_keep (fun h1 => every_keep (fun h2 => every_keep (fun h3 => every_keep (fun h4 => every_ite
    (raiseErr_keeps kr h4) h4) (every_ite h3 (setF_keeps kr (keeps_mk kr h3 rfl rfl rfl rfl rfl rfl rfl rfl))))
    (setReg_keeps kr (setReg_keeps kr h2))) (setF_keeps kr (setF_keeps kr h1))) (keeps_mk kr hx rfl rfl rfl rfl rfl
    rfl rfl rfl)

theorem execPowerMeasure_keeps {R dm hm s watts mv centiamps auxMv auxMw x} (kr : Closed R dm hm) (hx : Keeps R s x) :
    KeepsNext R s (execPowerMeasure watts mv centiamps auxMv auxMw x) := by
  unfold execPowerMeasure
  exact keepsNext_mk (every_ite (measurePower_keeps kr hx) hx)

theorem stackMax_keeps {R dm hm s x} (kr : Closed R dm hm) (hx : Keeps R s x) :
    Keeps R s (stackMax x) := by
  unfold stackMax
  exact (by
    try dsimp only
    split
    exact setReg_keeps kr hx
    exact hx)

theorem junctionRead_keeps {R dm hm s q x} (kr : Closed R dm hm) (hx : Keeps R s x) :
    Keeps R s (junctionRead q x) := by
  unfold junctionRead
  exact every_keep (fun h1 => every_keep (fun h2 => every_keep (fun h3 => every_ite (raiseErr_keeps kr (setDown_keeps
    kr h3)) h3) (every_ite (raiseInt_keeps kr h2) h2)) (keeps_mk kr h1 rfl rfl rfl rfl rfl rfl rfl rfl)) (setF_keeps
    kr hx)

theorem stackSample_keeps {R dm hm s st x} (kr : Closed R dm hm) (hx : Keeps R s x) :
    Keeps R s (stackSample st x) := by
  unfold stackSample
  exact every_ite (every_keep (fun h1 => every_keep (fun h2 => every_keep (fun h3 => every_ite (reportFault_keeps kr
    (raiseErr_keeps kr h3)) h3) (every_ite (raiseErr_keeps kr h2) h2)) (setReg_keeps kr h1)) (setF_keeps kr
    (setF_keeps kr hx))) hx

theorem sampleSensors_keeps {R hm s x readings} (kr : Closed R true hm) (hx : Keeps R s x) :
    Keeps R s (sampleSensors x readings) := by
  unfold sampleSensors
  exact every_keep (fun h1 => every_keep (fun h2 => every_ite (reportCheck_keeps kr (announceSlow_keeps kr
    (every_foldOver _ h2 (fun _ _ h3 => stackSample_keeps kr h3)))) h2) (coolantRead_keeps kr (stackMax_keeps kr
    (every_foldOver _ h1 (fun _ _ h4 => junctionRead_keeps kr h4))))) (keeps_mk kr hx rfl rfl rfl rfl rfl rfl rfl rfl)

theorem execSensorSample_keeps {R hm s readings x} (kr : Closed R true hm) (hx : Keeps R s x) :
    KeepsNext R s (execSensorSample readings x) := by
  unfold execSensorSample
  exact keepsNext_mk (every_ite (sampleSensors_keeps kr hx) hx)

end Sys2Proof.Machine
end

