-- ==== Sys2Proof/Laws/PredictKept.lean ====
section
/-! SUPPORT. What the operations of Machine/Predict.lean keep. -/

namespace Sys2Proof.Machine

open Sys2Proof

theorem weightRead_keeps {R dm hm s x u t off n} (kr : Closed R dm hm) (hx : Keeps R s x) :
    KeepsFst R s (weightRead x u t off n) := by
  unfold weightRead
  exact every_ite (keepsFst_mk hx) (engineLoad_keeps kr hx)

theorem readLayers_keeps {R dm hm s u t a2 a3 x} (kr : Closed R dm hm) (hx : Keeps R s x) :
    KeepsFst R s (readLayers u t a2 a3 x) := by
  induction a2 generalizing u t a3 x with
  | zero => rw [readLayers]; exact keepsFst_mk hx
  | succ n ih => rw [readLayers]; exact keepsFst_mk (keeps_fst (ih (keeps_fst (weightRead_keeps kr hx))))

theorem readTokens_keeps {R dm hm s x u t ins} (kr : Closed R dm hm) (hx : Keeps R s x) :
    KeepsFst R s (readTokens x u t ins) := by
  unfold readTokens
  exact keepsFst_mk (keeps_fst (readRows_keeps kr hx))

theorem writeLists_keeps {R hm s x u t sel} (kr : Closed R true hm) (hx : Keeps R s x) :
    KeepsFst R s (writeLists x u t sel) := by
  unfold writeLists
  exact every_ite (keepsFst_mk (every_ite (engineStore_keeps kr hx) (engineStore_keeps kr (engineStore_keeps kr hx))))
    (every_keep (fun h1 => keepsFst_mk (every_ite (engineStore_keeps kr h1) (engineStore_keeps kr (engineStore_keeps
    kr h1)))) (engineStore_keeps kr hx))

theorem predictTokens_keeps {R hm s u t ls once twice x} (kr : Closed R true hm) (hx : Keeps R s x) :
    Keeps R s (predictTokens u t ls once twice x) := by
  unfold predictTokens
  exact every_keep (fun h1 => every_ite (keeps_fst h1) (by
    split
    exact finishBad_keeps kr (reportFault_keeps kr (bump_keeps kr (bump_keeps kr (keeps_fst h1))))
    exact finishFront_keeps kr (engineTally_keeps kr (bump_keeps kr (bump64_keeps kr (bump64_keeps kr (bump64_keeps kr
      (keeps_fst (writeLists_keeps kr (keeps_fst h1)))))))))) (readTokens_keeps kr hx)

theorem predictRun_keeps {R hm s u once twice t x} (kr : Closed R true hm) (hx : Keeps R s x) :
    Keeps R s (predictRun u once twice t x) := by
  unfold predictRun
  exact every_keep (fun h1 => every_ite (keeps_fst h1) (by
    split
    exact finishBad_keeps kr (keeps_fst h1)
    exact every_ite (predictTokens_keeps kr (keeps_fst h1)) (every_keep (fun h2 => every_ite (keeps_fst h2)
      (predictTokens_keeps kr (setF_keeps kr (setReg_keeps kr (tileWrite_keeps kr (keeps_fst h2))))))
      (engineLoad_keeps kr (keeps_fst h1))))) (readLayers_keeps kr hx)

theorem execPredict_keeps {R hm s engine once twice x} (kr : Closed R true hm) (hx : Keeps R s x) :
    KeepsNext R s (execPredict engine once twice x) := by
  unfold execPredict
  exact keepsNext_mk (runFront_keeps kr (undefinedOp_keeps kr hx) (fun _ _ h1 => predictRun_keeps kr h1))

end Sys2Proof.Machine
end

