-- ==== Sys2Proof/Laws/TickKept.lean ====
section
/-! SUPPORT. What the operations of Machine/Tick.lean keep. -/

namespace Sys2Proof.Machine

open Sys2Proof

theorem batchesDue_keeps {R dm hm s x} (kr : Closed R dm hm) (hx : Keeps R s x) :
    Keeps R s (batchesDue x) := by
  unfold batchesDue
  exact every_foldOver _ hx (fun _ _ h1 => every_ite (batchTimeout_keeps kr h1) h1)

theorem closeDue_keeps {R dm hm s x} (kr : Closed R dm hm) (hx : Keeps R s x) :
    Keeps R s (closeDue x) := by
  unfold closeDue
  exact every_ite (closeInstant_keeps kr hx) hx

theorem coalesceDue_keeps {R dm hm s n x} (kr : Closed R dm hm) (hx : Keeps R s x) :
    Keeps R s (coalesceDue n x) := by
  unfold coalesceDue
  exact every_ite (coalesce_keeps kr hx) hx

theorem tick_keeps {R dm s x} (kr : Closed R dm true) (hx : Keeps R s x) :
    Keeps R s (tick x) := by
  unfold tick
  exact every_ite hx (every_keep (fun h1 => every_keep (fun h2 => every_keep (fun h3 => every_keep (fun h4 =>
    every_keep (fun h5 => every_ite h5 (sendFrames_keeps kr h5)) (mcRunOn_keeps kr h4)) (every_foldOver _ h3 (fun _ _
    h6 => drainCheck_keeps kr (coalesceDue_keeps kr h6)))) (closeDue_keeps kr (epochPoll_keeps kr h2)))
    (batchesDue_keeps kr (collect_keeps kr h1))) (timeStepped_keeps kr (timeUpTo_keeps kr hx)))

end Sys2Proof.Machine
end

