-- ==== Sys2Proof/Laws/VectorEngineKept.lean ====
section
/-! SUPPORT. What the operations of Machine/VectorEngine.lean keep. -/

namespace Sys2Proof.Machine

open Sys2Proof

theorem setVeRun_keeps {R dm hm s x u r} (kr : Closed R dm hm) (hx : Keeps R s x) :
    Keeps R s (setVeRun x u r) := by
  unfold setVeRun
  exact setEng_keeps kr hx

theorem veEnd_keeps {R hm s x u t r status detail} (kr : Closed R true hm) (hx : Keeps R s x) :
    Keeps R s (veEnd x u t r status detail) := by
  unfold veEnd
  exact every_keep (fun h1 => every_keep (fun h2 => every_ite (finishOk_keeps kr h2) (finishBad_keeps kr h2))
    (setF_keeps kr (setEng_keeps kr h1))) (every_ite hx (engineStore_keeps kr hx))

theorem veRelease_keeps {R dm hm s x u n} (kr : Closed R dm hm) (hx : Keeps R s x) :
    Keeps R s (veRelease x u n) := by
  unfold veRelease
  exact bump64_keeps kr (releaseTile_keeps kr hx)

theorem beginIter_keeps {R hm s x u t r} (kr : Closed R true hm) (hx : Keeps R s x) :
    KeepsFst R s (beginIter x u t r) := by
  unfold beginIter
  exact every_ite (keepsFst_mk (setVeRun_keeps kr hx)) (every_ite (keepsFst_mk (veEnd_keeps kr hx)) (by
    split
    exact keepsFst_mk (setF_keeps kr hx)
    exact (by
      split
      exact keepsFst_mk (veEnd_keeps kr (setTiles_keeps kr hx))
      exact every_keep (fun h1 => every_ite (keepsFst_mk (setVeRun_keeps kr h1)) (keepsFst_mk (setVeRun_keeps kr
        (veRelease_keeps kr h1)))) (setF_keeps kr hx))))

theorem endIters__keeps {R hm s x u t r0} (kr : Closed R true hm) (hx : Keeps R s x) :
    KeepsFst R s (endIters_ x u t r0) := by
  unfold endIters_
  exact (by
    try dsimp only
    split
    exact keepsFst_mk (every_ite (veEnd_keeps kr hx) (veEnd_keeps kr hx))
    exact (by
      split
      exact keepsFst_mk (setF_keeps kr hx)
      exact every_ite (keepsFst_mk (setVeRun_keeps kr (setTiles_keeps kr hx))) (keepsFst_mk (setVeRun_keeps kr
        (veRelease_keeps kr hx)))))

theorem endMarker_keeps {R hm s x n} (kr : Closed R true hm) (hx : Keeps R s x) :
    Keeps R s (endMarker x n) := by
  unfold endMarker
  exact every_keep (fun h1 => (by
    try dsimp only
    split
    exact every_ite (engineWork_keeps kr h1 (fun _ h2 => keeps_fst (beginIter_keeps kr h2))) h1
    exact h1)) (handMarker_keeps kr hx)

theorem issue_keeps {R dm hm s x u t r f} (kr : Closed R dm hm) (hx : Keeps R s x) (hf : ∀ y0 y1 y2 y3 y4, Keeps R s
  y0 → KeepsFst R s (f y0 y1 y2 y3 y4)) :
    Keeps R s (issue x u t r f) := by
  unfold issue
  exact setVeRun_keeps kr (bump64_keeps kr (bump64_keeps kr (keeps_fst (hf _ _ _ _ _ hx))))

theorem oneInstr_keeps {R hm s x ve op f} (kr : Closed R true hm) (hx : Keeps R s x) (hf : ∀ y0 y1 y2 y3 y4, Keeps R s
  y0 → KeepsFst R s (f y0 y1 y2 y3 y4)) :
    Keeps R s (oneInstr x ve op f) := by
  unfold oneInstr
  exact (by
    try dsimp only
    split
    exact every_ite (engineWork_keeps kr hx (fun _ h1 => issue_keeps kr h1 hf)) hx
    exact hx)

theorem opAccrd_keeps {R dm hm s x u a2 r w} (kr : Closed R dm hm) (hx : Keeps R s x) :
    KeepsFst R s (opAccrd x u a2 r w) := by
  unfold opAccrd
  exact (by
    split
    exact keepsFst_mk hx
    exact every_ite (keepsFst_mk (veRelease_keeps kr hx)) (keepsFst_mk hx))

theorem execAccrd_keeps {R hm s ve x} (kr : Closed R true hm) (hx : Keeps R s x) :
    KeepsNext R s (execAccrd ve x) := by
  unfold execAccrd
  exact keepsNext_mk (oneInstr_keeps kr hx (fun _ _ _ _ _ h1 => opAccrd_keeps kr h1))

theorem pureInstr_keeps {R dm hm s f x a2 a3 a4 a5} (kr : Closed R dm hm) (hx : Keeps R s x) :
    KeepsFst R s (pureInstr f x a2 a3 a4 a5) := by
  unfold pureInstr
  exact keepsFst_mk hx

theorem execAnd_keeps {R hm s ve x} (kr : Closed R true hm) (hx : Keeps R s x) :
    KeepsNext R s (execAnd ve x) := by
  unfold execAnd
  exact keepsNext_mk (oneInstr_keeps kr hx (fun _ _ _ _ _ h1 => pureInstr_keeps kr h1))

theorem execCmprs_keeps {R hm s ve x} (kr : Closed R true hm) (hx : Keeps R s x) :
    KeepsNext R s (execCmprs ve x) := by
  unfold execCmprs
  exact keepsNext_mk (oneInstr_keeps kr hx (fun _ _ _ _ _ h1 => pureInstr_keeps kr h1))

theorem execCvtfi_keeps {R hm s ve x} (kr : Closed R true hm) (hx : Keeps R s x) :
    KeepsNext R s (execCvtfi ve x) := by
  unfold execCvtfi
  exact keepsNext_mk (oneInstr_keeps kr hx (fun _ _ _ _ _ h1 => pureInstr_keeps kr h1))

theorem execCvtif_keeps {R hm s ve x} (kr : Closed R true hm) (hx : Keeps R s x) :
    KeepsNext R s (execCvtif ve x) := by
  unfold execCvtif
  exact keepsNext_mk (oneInstr_keeps kr hx (fun _ _ _ _ _ h1 => pureInstr_keeps kr h1))

theorem execEndMarker_keeps {R hm s ma x} (kr : Closed R true hm) (hx : Keeps R s x) :
    KeepsNext R s (execEndMarker ma x) := by
  unfold execEndMarker
  exact keepsNext_mk (endMarker_keeps kr hx)

theorem execErf_keeps {R hm s ve x} (kr : Closed R true hm) (hx : Keeps R s x) :
    KeepsNext R s (execErf ve x) := by
  unfold execErf
  exact keepsNext_mk (oneInstr_keeps kr hx (fun _ _ _ _ _ h1 => pureInstr_keeps kr h1))

theorem execExp_keeps {R hm s ve x} (kr : Closed R true hm) (hx : Keeps R s x) :
    KeepsNext R s (execExp ve x) := by
  unfold execExp
  exact keepsNext_mk (oneInstr_keeps kr hx (fun _ _ _ _ _ h1 => pureInstr_keeps kr h1))

theorem execExp2_keeps {R hm s ve x} (kr : Closed R true hm) (hx : Keeps R s x) :
    KeepsNext R s (execExp2 ve x) := by
  unfold execExp2
  exact keepsNext_mk (oneInstr_keeps kr hx (fun _ _ _ _ _ h1 => pureInstr_keeps kr h1))

theorem execExpnd_keeps {R hm s ve x} (kr : Closed R true hm) (hx : Keeps R s x) :
    KeepsNext R s (execExpnd ve x) := by
  unfold execExpnd
  exact keepsNext_mk (oneInstr_keeps kr hx (fun _ _ _ _ _ h1 => pureInstr_keeps kr h1))

theorem execFabs_keeps {R hm s ve x} (kr : Closed R true hm) (hx : Keeps R s x) :
    KeepsNext R s (execFabs ve x) := by
  unfold execFabs
  exact keepsNext_mk (oneInstr_keeps kr hx (fun _ _ _ _ _ h1 => pureInstr_keeps kr h1))

theorem execFadd_keeps {R hm s ve x} (kr : Closed R true hm) (hx : Keeps R s x) :
    KeepsNext R s (execFadd ve x) := by
  unfold execFadd
  exact keepsNext_mk (oneInstr_keeps kr hx (fun _ _ _ _ _ h1 => pureInstr_keeps kr h1))

theorem execFcmp_keeps {R hm s ve x} (kr : Closed R true hm) (hx : Keeps R s x) :
    KeepsNext R s (execFcmp ve x) := by
  unfold execFcmp
  exact keepsNext_mk (oneInstr_keeps kr hx (fun _ _ _ _ _ h1 => pureInstr_keeps kr h1))

theorem execFdiv_keeps {R hm s ve x} (kr : Closed R true hm) (hx : Keeps R s x) :
    KeepsNext R s (execFdiv ve x) := by
  unfold execFdiv
  exact keepsNext_mk (oneInstr_keeps kr hx (fun _ _ _ _ _ h1 => pureInstr_keeps kr h1))

theorem execFlagrd_keeps {R hm s ve x} (kr : Closed R true hm) (hx : Keeps R s x) :
    KeepsNext R s (execFlagrd ve x) := by
  unfold execFlagrd
  exact keepsNext_mk (oneInstr_keeps kr hx (fun _ _ _ _ _ h1 => pureInstr_keeps kr h1))

theorem execFma_keeps {R hm s ve x} (kr : Closed R true hm) (hx : Keeps R s x) :
    KeepsNext R s (execFma ve x) := by
  unfold execFma
  exact keepsNext_mk (oneInstr_keeps kr hx (fun _ _ _ _ _ h1 => pureInstr_keeps kr h1))

theorem execFmax_keeps {R hm s ve x} (kr : Closed R true hm) (hx : Keeps R s x) :
    KeepsNext R s (execFmax ve x) := by
  unfold execFmax
  exact keepsNext_mk (oneInstr_keeps kr hx (fun _ _ _ _ _ h1 => pureInstr_keeps kr h1))

theorem execFmin_keeps {R hm s ve x} (kr : Closed R true hm) (hx : Keeps R s x) :
    KeepsNext R s (execFmin ve x) := by
  unfold execFmin
  exact keepsNext_mk (oneInstr_keeps kr hx (fun _ _ _ _ _ h1 => pureInstr_keeps kr h1))

theorem execFmul_keeps {R hm s ve x} (kr : Closed R true hm) (hx : Keeps R s x) :
    KeepsNext R s (execFmul ve x) := by
  unfold execFmul
  exact keepsNext_mk (oneInstr_keeps kr hx (fun _ _ _ _ _ h1 => pureInstr_keeps kr h1))

theorem execFneg_keeps {R hm s ve x} (kr : Closed R true hm) (hx : Keeps R s x) :
    KeepsNext R s (execFneg ve x) := by
  unfold execFneg
  exact keepsNext_mk (oneInstr_keeps kr hx (fun _ _ _ _ _ h1 => pureInstr_keeps kr h1))

theorem execFsqrt_keeps {R hm s ve x} (kr : Closed R true hm) (hx : Keeps R s x) :
    KeepsNext R s (execFsqrt ve x) := by
  unfold execFsqrt
  exact keepsNext_mk (oneInstr_keeps kr hx (fun _ _ _ _ _ h1 => pureInstr_keeps kr h1))

theorem execFsub_keeps {R hm s ve x} (kr : Closed R true hm) (hx : Keeps R s x) :
    KeepsNext R s (execFsub ve x) := by
  unfold execFsub
  exact keepsNext_mk (oneInstr_keeps kr hx (fun _ _ _ _ _ h1 => pureInstr_keeps kr h1))

theorem execIadd_keeps {R hm s ve x} (kr : Closed R true hm) (hx : Keeps R s x) :
    KeepsNext R s (execIadd ve x) := by
  unfold execIadd
  exact keepsNext_mk (oneInstr_keeps kr hx (fun _ _ _ _ _ h1 => pureInstr_keeps kr h1))

theorem execIcmp_keeps {R hm s ve x} (kr : Closed R true hm) (hx : Keeps R s x) :
    KeepsNext R s (execIcmp ve x) := by
  unfold execIcmp
  exact keepsNext_mk (oneInstr_keeps kr hx (fun _ _ _ _ _ h1 => pureInstr_keeps kr h1))

theorem execImax_keeps {R hm s ve x} (kr : Closed R true hm) (hx : Keeps R s x) :
    KeepsNext R s (execImax ve x) := by
  unfold execImax
  exact keepsNext_mk (oneInstr_keeps kr hx (fun _ _ _ _ _ h1 => pureInstr_keeps kr h1))

theorem execImin_keeps {R hm s ve x} (kr : Closed R true hm) (hx : Keeps R s x) :
    KeepsNext R s (execImin ve x) := by
  unfold execImin
  exact keepsNext_mk (oneInstr_keeps kr hx (fun _ _ _ _ _ h1 => pureInstr_keeps kr h1))

theorem execImul_keeps {R hm s ve x} (kr : Closed R true hm) (hx : Keeps R s x) :
    KeepsNext R s (execImul ve x) := by
  unfold execImul
  exact keepsNext_mk (oneInstr_keeps kr hx (fun _ _ _ _ _ h1 => pureInstr_keeps kr h1))

theorem execIsub_keeps {R hm s ve x} (kr : Closed R true hm) (hx : Keeps R s x) :
    KeepsNext R s (execIsub ve x) := by
  unfold execIsub
  exact keepsNext_mk (oneInstr_keeps kr hx (fun _ _ _ _ _ h1 => pureInstr_keeps kr h1))

theorem execLaneid_keeps {R hm s ve x} (kr : Closed R true hm) (hx : Keeps R s x) :
    KeepsNext R s (execLaneid ve x) := by
  unfold execLaneid
  exact keepsNext_mk (oneInstr_keeps kr hx (fun _ _ _ _ _ h1 => pureInstr_keeps kr h1))

theorem readSectors_keeps {R dm hm s x u part addrs} (kr : Closed R dm hm) (hx : Keeps R s x) :
    KeepsFst R s (readSectors x u part addrs) := by
  unfold readSectors
  exact every_foldl _ (keepsFst_mk hx) (fun _ _ h1 => keepsFst_mk (keeps_fst (engineLoad_keeps kr (keeps_fst h1))))

theorem loadInstr_keeps {R dm hm s x u t r w} (kr : Closed R dm hm) (hx : Keeps R s x) :
    KeepsFst R s (loadInstr x u t r w) := by
  unfold loadInstr
  exact keepsFst_mk (keeps_fst (readSectors_keeps kr hx))

theorem opLd_keeps {R dm hm s x u t r w} (kr : Closed R dm hm) (hx : Keeps R s x) :
    KeepsFst R s (opLd x u t r w) := by
  unfold opLd
  exact loadInstr_keeps kr hx

theorem execLd_keeps {R hm s ve x} (kr : Closed R true hm) (hx : Keeps R s x) :
    KeepsNext R s (execLd ve x) := by
  unfold execLd
  exact keepsNext_mk (oneInstr_keeps kr hx (fun _ _ _ _ _ h1 => opLd_keeps kr h1))

theorem execLdi_keeps {R hm s ve x} (kr : Closed R true hm) (hx : Keeps R s x) :
    KeepsNext R s (execLdi ve x) := by
  unfold execLdi
  exact keepsNext_mk (oneInstr_keeps kr hx (fun _ _ _ _ _ h1 => pureInstr_keeps kr h1))

theorem opLdx_keeps {R dm hm s x u t r w} (kr : Closed R dm hm) (hx : Keeps R s x) :
    KeepsFst R s (opLdx x u t r w) := by
  unfold opLdx
  exact loadInstr_keeps kr hx

theorem execLdx_keeps {R hm s ve x} (kr : Closed R true hm) (hx : Keeps R s x) :
    KeepsNext R s (execLdx ve x) := by
  unfold execLdx
  exact keepsNext_mk (oneInstr_keeps kr hx (fun _ _ _ _ _ h1 => opLdx_keeps kr h1))

theorem execLog_keeps {R hm s ve x} (kr : Closed R true hm) (hx : Keeps R s x) :
    KeepsNext R s (execLog ve x) := by
  unfold execLog
  exact keepsNext_mk (oneInstr_keeps kr hx (fun _ _ _ _ _ h1 => pureInstr_keeps kr h1))

theorem execLog2_keeps {R hm s ve x} (kr : Closed R true hm) (hx : Keeps R s x) :
    KeepsNext R s (execLog2 ve x) := by
  unfold execLog2
  exact keepsNext_mk (oneInstr_keeps kr hx (fun _ _ _ _ _ h1 => pureInstr_keeps kr h1))

theorem execNop_keeps {R hm s ve x} (kr : Closed R true hm) (hx : Keeps R s x) :
    KeepsNext R s (execNop ve x) := by
  unfold execNop
  exact keepsNext_mk (oneInstr_keeps kr hx (fun _ _ _ _ _ h1 => pureInstr_keeps kr h1))

theorem execOr_keeps {R hm s ve x} (kr : Closed R true hm) (hx : Keeps R s x) :
    KeepsNext R s (execOr ve x) := by
  unfold execOr
  exact keepsNext_mk (oneInstr_keeps kr hx (fun _ _ _ _ _ h1 => pureInstr_keeps kr h1))

theorem execPerm_keeps {R hm s ve x} (kr : Closed R true hm) (hx : Keeps R s x) :
    KeepsNext R s (execPerm ve x) := by
  unfold execPerm
  exact keepsNext_mk (oneInstr_keeps kr hx (fun _ _ _ _ _ h1 => pureInstr_keeps kr h1))

theorem execQnt_keeps {R hm s ve x} (kr : Closed R true hm) (hx : Keeps R s x) :
    KeepsNext R s (execQnt ve x) := by
  unfold execQnt
  exact keepsNext_mk (oneInstr_keeps kr hx (fun _ _ _ _ _ h1 => pureInstr_keeps kr h1))

theorem execRcp_keeps {R hm s ve x} (kr : Closed R true hm) (hx : Keeps R s x) :
    KeepsNext R s (execRcp ve x) := by
  unfold execRcp
  exact keepsNext_mk (oneInstr_keeps kr hx (fun _ _ _ _ _ h1 => pureInstr_keeps kr h1))

theorem opRed_keeps {R dm hm s x a1 a2 r w} (kr : Closed R dm hm) (hx : Keeps R s x) :
    KeepsFst R s (opRed x a1 a2 r w) := by
  unfold opRed
  exact keepsFst_mk hx

theorem execRed_keeps {R hm s ve x} (kr : Closed R true hm) (hx : Keeps R s x) :
    KeepsNext R s (execRed ve x) := by
  unfold execRed
  exact keepsNext_mk (oneInstr_keeps kr hx (fun _ _ _ _ _ h1 => opRed_keeps kr h1))

theorem redResult_keeps {R dm hm s x ve} (kr : Closed R dm hm) (hx : Keeps R s x) :
    Keeps R s (redResult x ve) := by
  unfold redResult
  exact (by
    try dsimp only
    split
    exact every_ite hx (setVeRun_keeps kr hx)
    exact hx)

theorem execRedResult_keeps {R dm hm s ve x} (kr : Closed R dm hm) (hx : Keeps R s x) :
    KeepsNext R s (execRedResult ve x) := by
  unfold execRedResult
  exact keepsNext_mk (redResult_keeps kr hx)

theorem execRsqrt_keeps {R hm s ve x} (kr : Closed R true hm) (hx : Keeps R s x) :
    KeepsNext R s (execRsqrt ve x) := by
  unfold execRsqrt
  exact keepsNext_mk (oneInstr_keeps kr hx (fun _ _ _ _ _ h1 => pureInstr_keeps kr h1))

theorem loadProgram_keeps {R hm s x u t} (kr : Closed R true hm) (hx : Keeps R s x) :
    KeepsFst R s (loadProgram x u t) := by
  unfold loadProgram
  exact keepsFst_mk (every_ite hx (setEng_keeps kr (tileWrite_keeps kr (keeps_fst (engineLoad_keeps kr hx)))))

theorem veStart_keeps {R hm s x u t} (kr : Closed R true hm) (hx : Keeps R s x) :
    Keeps R s (veStart x u t) := by
  unfold veStart
  exact every_keep (fun h1 => every_keep (fun h2 => (by
    try dsimp only
    split
    exact finishBad_keeps kr (by
      split
      exact setF_keeps kr (keeps_fst h2)
      exact keeps_fst h2)
    exact setVeRun_keeps kr (keeps_fst h2))) (every_ite (loadProgram_keeps kr (keeps_fst h1)) (keepsFst_mk (keeps_fst
    h1)))) (engineLoad_keeps kr hx)

theorem storeInstr_keeps {R hm s x u t r w} (kr : Closed R true hm) (hx : Keeps R s x) :
    KeepsFst R s (storeInstr x u t r w) := by
  unfold storeInstr
  exact keepsFst_mk (every_foldl _ hx (fun _ _ h2 => engineStore_keeps kr h2))

theorem opSt_keeps {R hm s x u t r w} (kr : Closed R true hm) (hx : Keeps R s x) :
    KeepsFst R s (opSt x u t r w) := by
  unfold opSt
  exact storeInstr_keeps kr hx

theorem opStx_keeps {R hm s x u t r w} (kr : Closed R true hm) (hx : Keeps R s x) :
    KeepsFst R s (opStx x u t r w) := by
  unfold opStx
  exact storeInstr_keeps kr hx

theorem opStxadd_keeps {R hm s x u t r w} (kr : Closed R true hm) (hx : Keeps R s x) :
    KeepsFst R s (opStxadd x u t r w) := by
  unfold opStxadd
  exact keepsFst_mk (keeps_fst (every_foldl _ (keepsFst_mk hx) (fun _ _ h2 => (by
    split
    exact keepsFst_mk (keeps_fst (accumulateRow_keeps kr (keeps_fst h2)))
    exact keepsFst_mk (keeps_fst h2)))))

theorem instrOf_keeps {R hm s op x a2 a3 a4 a5} (kr : Closed R true hm) (hx : Keeps R s x) :
    KeepsFst R s (instrOf op x a2 a3 a4 a5) := by
  unfold instrOf
  exact (by
    split
    exact pureInstr_keeps kr hx
    exact pureInstr_keeps kr hx
    exact pureInstr_keeps kr hx
    exact pureInstr_keeps kr hx
    exact pureInstr_keeps kr hx
    exact pureInstr_keeps kr hx
    exact opLd_keeps kr hx
    exact opSt_keeps kr hx
    exact opLdx_keeps kr hx
    exact opStx_keeps kr hx
    exact opStxadd_keeps kr hx
    exact opAccrd_keeps kr hx
    exact pureInstr_keeps kr hx
    exact pureInstr_keeps kr hx
    exact pureInstr_keeps kr hx
    exact pureInstr_keeps kr hx
    exact pureInstr_keeps kr hx
    exact pureInstr_keeps kr hx
    exact pureInstr_keeps kr hx
    exact pureInstr_keeps kr hx
    exact pureInstr_keeps kr hx
    exact pureInstr_keeps kr hx
    exact pureInstr_keeps kr hx
    exact pureInstr_keeps kr hx
    exact pureInstr_keeps kr hx
    exact pureInstr_keeps kr hx
    exact pureInstr_keeps kr hx
    exact pureInstr_keeps kr hx
    exact pureInstr_keeps kr hx
    exact pureInstr_keeps kr hx
    exact pureInstr_keeps kr hx
    exact pureInstr_keeps kr hx
    exact pureInstr_keeps kr hx
    exact pureInstr_keeps kr hx
    exact pureInstr_keeps kr hx
    exact pureInstr_keeps kr hx
    exact pureInstr_keeps kr hx
    exact pureInstr_keeps kr hx
    exact pureInstr_keeps kr hx
    exact pureInstr_keeps kr hx
    exact pureInstr_keeps kr hx
    exact pureInstr_keeps kr hx
    exact pureInstr_keeps kr hx
    exact pureInstr_keeps kr hx
    exact pureInstr_keeps kr hx
    exact pureInstr_keeps kr hx
    exact pureInstr_keeps kr hx
    exact pureInstr_keeps kr hx
    exact pureInstr_keeps kr hx
    exact pureInstr_keeps kr hx
    exact pureInstr_keeps kr hx
    exact pureInstr_keeps kr hx
    exact opRed_keeps kr hx
    exact pureInstr_keeps kr hx
    exact pureInstr_keeps kr hx)

theorem veStep_keeps {R hm s x u} (kr : Closed R true hm) (hx : Keeps R s x) :
    KeepsFst R s (veStep x u) := by
  unfold veStep
  exact (by
    split
    exact keepsFst_mk hx
    exact (by
      split
      exact keepsFst_mk hx
      exact every_ite (every_ite (every_keep (fun h1 => every_keep (fun h2 => every_ite (keepsFst_mk (noteWait_keeps
        kr (orWait_keeps kr hx (fun _ h3 => keeps_fst (keepsFst_mk (issue_keeps kr h3 (fun _ _ _ _ _ h4 =>
        instrOf_keeps kr h4))))) (keeps_fst h2))) (keepsFst_mk (setF_keeps kr (keeps_fst h2)))) (keepsFst_mk
        (issue_keeps kr h1 (fun _ _ _ _ _ h5 => instrOf_keeps kr h5)))) (keeps_mk kr hx rfl rfl rfl rfl rfl rfl rfl
        rfl)) (keepsFst_mk (setVeRun_keeps kr hx))) (every_ite (every_keep (fun h6 => every_keep (fun h7 => every_ite
        (keepsFst_mk (noteWait_keeps kr (orWait_keeps kr hx (fun _ h8 => keeps_fst (beginIter_keeps kr h8)))
        (keeps_fst h7))) (keepsFst_mk (setF_keeps kr (keeps_fst h7)))) (beginIter_keeps kr h6)) (keeps_mk kr hx rfl
        rfl rfl rfl rfl rfl rfl rfl)) (every_keep (fun h9 => every_keep (fun h10 => every_ite (keepsFst_mk
        (noteWait_keeps kr (orWait_keeps kr hx (fun _ h11 => keeps_fst (endIters__keeps kr h11))) (keeps_fst h10)))
        (keepsFst_mk (setF_keeps kr (keeps_fst h10)))) (endIters__keeps kr h9)) (keeps_mk kr hx rfl rfl rfl rfl rfl
        rfl rfl rfl)))))

theorem veLoop_keeps {R hm s u a1 x} (kr : Closed R true hm) (hx : Keeps R s x) :
    Keeps R s (veLoop u a1 x) := by
  induction a1 generalizing u x with
  | zero => rw [veLoop]; exact hx
  | succ n ih => rw [veLoop]; exact every_ite (ih (keeps_fst (veStep_keeps kr hx))) (keeps_fst (veStep_keeps kr hx))

theorem runTask_keeps {R hm s x u} (kr : Closed R true hm) (hx : Keeps R s x) :
    Keeps R s (runTask x u) := by
  unfold runTask
  exact (by
    split
    exact hx
    exact veLoop_keeps kr (every_ite hx (engineWork_keeps kr hx (fun _ h2 => veStart_keeps kr h2))))

theorem execRun_keeps {R hm s ve x} (kr : Closed R true hm) (hx : Keeps R s x) :
    KeepsNext R s (execRun ve x) := by
  unfold execRun
  exact keepsNext_mk (runTask_keeps kr (undefinedOp_keeps kr hx))

theorem execScan_keeps {R hm s ve x} (kr : Closed R true hm) (hx : Keeps R s x) :
    KeepsNext R s (execScan ve x) := by
  unfold execScan
  exact keepsNext_mk (oneInstr_keeps kr hx (fun _ _ _ _ _ h1 => pureInstr_keeps kr h1))

theorem execSel_keeps {R hm s ve x} (kr : Closed R true hm) (hx : Keeps R s x) :
    KeepsNext R s (execSel ve x) := by
  unfold execSel
  exact keepsNext_mk (oneInstr_keeps kr hx (fun _ _ _ _ _ h1 => pureInstr_keeps kr h1))

theorem execSetvl_keeps {R hm s ve x} (kr : Closed R true hm) (hx : Keeps R s x) :
    KeepsNext R s (execSetvl ve x) := by
  unfold execSetvl
  exact keepsNext_mk (oneInstr_keeps kr hx (fun _ _ _ _ _ h1 => pureInstr_keeps kr h1))

theorem execShl_keeps {R hm s ve x} (kr : Closed R true hm) (hx : Keeps R s x) :
    KeepsNext R s (execShl ve x) := by
  unfold execShl
  exact keepsNext_mk (oneInstr_keeps kr hx (fun _ _ _ _ _ h1 => pureInstr_keeps kr h1))

theorem execShr_keeps {R hm s ve x} (kr : Closed R true hm) (hx : Keeps R s x) :
    KeepsNext R s (execShr ve x) := by
  unfold execShr
  exact keepsNext_mk (oneInstr_keeps kr hx (fun _ _ _ _ _ h1 => pureInstr_keeps kr h1))

theorem execSigmoid_keeps {R hm s ve x} (kr : Closed R true hm) (hx : Keeps R s x) :
    KeepsNext R s (execSigmoid ve x) := by
  unfold execSigmoid
  exact keepsNext_mk (oneInstr_keeps kr hx (fun _ _ _ _ _ h1 => pureInstr_keeps kr h1))

theorem execSmax_keeps {R hm s ve x} (kr : Closed R true hm) (hx : Keeps R s x) :
    KeepsNext R s (execSmax ve x) := by
  unfold execSmax
  exact keepsNext_mk (oneInstr_keeps kr hx (fun _ _ _ _ _ h1 => pureInstr_keeps kr h1))

theorem execSra_keeps {R hm s ve x} (kr : Closed R true hm) (hx : Keeps R s x) :
    KeepsNext R s (execSra ve x) := by
  unfold execSra
  exact keepsNext_mk (oneInstr_keeps kr hx (fun _ _ _ _ _ h1 => pureInstr_keeps kr h1))

theorem execSt_keeps {R hm s ve x} (kr : Closed R true hm) (hx : Keeps R s x) :
    KeepsNext R s (execSt ve x) := by
  unfold execSt
  exact keepsNext_mk (oneInstr_keeps kr hx (fun _ _ _ _ _ h1 => opSt_keeps kr h1))

theorem execStx_keeps {R hm s ve x} (kr : Closed R true hm) (hx : Keeps R s x) :
    KeepsNext R s (execStx ve x) := by
  unfold execStx
  exact keepsNext_mk (oneInstr_keeps kr hx (fun _ _ _ _ _ h1 => opStx_keeps kr h1))

theorem execStxadd_keeps {R hm s ve x} (kr : Closed R true hm) (hx : Keeps R s x) :
    KeepsNext R s (execStxadd ve x) := by
  unfold execStxadd
  exact keepsNext_mk (oneInstr_keeps kr hx (fun _ _ _ _ _ h1 => opStxadd_keeps kr h1))

theorem execSumm_keeps {R hm s ve x} (kr : Closed R true hm) (hx : Keeps R s x) :
    KeepsNext R s (execSumm ve x) := by
  unfold execSumm
  exact keepsNext_mk (oneInstr_keeps kr hx (fun _ _ _ _ _ h1 => pureInstr_keeps kr h1))

theorem execTanh_keeps {R hm s ve x} (kr : Closed R true hm) (hx : Keeps R s x) :
    KeepsNext R s (execTanh ve x) := by
  unfold execTanh
  exact keepsNext_mk (oneInstr_keeps kr hx (fun _ _ _ _ _ h1 => pureInstr_keeps kr h1))

theorem execXor_keeps {R hm s ve x} (kr : Closed R true hm) (hx : Keeps R s x) :
    KeepsNext R s (execXor ve x) := by
  unfold execXor
  exact keepsNext_mk (oneInstr_keeps kr hx (fun _ _ _ _ _ h1 => pureInstr_keeps kr h1))

end Sys2Proof.Machine
end

