-- ==== Sys2Proof/WellFormed.lean ====
section
/-! DEFINITION. Which commands are well formed: every operand within the range its rule gives it. Commands that are not are
no stimulus of the block; the meanings still answer a next state for them. -/

namespace Sys2Proof

/-! ### Ranges -/

def word16 (n : Nat) : Bool := decide (n < 2 ^ 16)
def word32 (n : Nat) : Bool := decide (n < 2 ^ 32)
def word64 (n : Nat) : Bool := decide (n < 2 ^ 64)

/-- An offset within BAR0, 64 MiB (R44). -/
def inBar0 (off : Nat) : Bool := decide (off < 2 ^ 26)

/-- A register access carries 4 or 8 bytes (R47). -/
def fits (size val : Nat) : Bool := (size = 4 && word32 val) || (size = 8 && word64 val)

/-- A call of a management command (R520, R521). -/
def callFormed (c : McCall) : Bool := word32 c.length && word32 c.offset

/-- A command code of R521. -/
def definedMcOp (op : Nat) : Bool := [0x01, 0x02, 0x03, 0x04, 0x10, 0x11, 0x12, 0x20, 0x21, 0x30, 0x31, 0x40, 0x41, 0x50].contains op

/-- A request over MCTP (R520, R532). -/
def mctpFormed : MctpMessage → Bool
  | .control => true
  | .sensor i => decide (i < 114)
  | .firmware op c => decide (1 ≤ op ∧ op ≤ 4) && callFormed c
  | .spdm _ => true
  | .vendor op c => decide (op < 256) && callFormed c

/-- A frame (R379): 128 header bits, 5,120 data bytes or none, eight lanes. -/
def frameFormed (f : Frame) : Bool :=
  decide (f.header < 2 ^ 128 ∧ (f.data.length = 5120 ∨ f.data = [])) && f.bad.all fun l => decide (l < 8)

/-- A memory request (R335): it stays within a 4 KiB page, and a write carries bytes. -/
def reqFormed (r : MemReq) : Bool :=
  Machine.isUnit r.who && decide (r.part < 16) && word64 r.addr &&
    (if r.write then decide (0 < r.data.length ∧ r.addr % 4096 + r.data.length ≤ 4096)
      else decide (0 < r.len ∧ r.addr % 4096 + r.len ≤ 4096))

/-- Well-formed commands. -/
def Instr.wf (c : Instr) : Bool :=
  match c with
  | .registerWrite off size val => inBar0 off && fits size val
  | .badAccess _ off size => inBar0 off && decide (0 < size)
  | .rcRead off size => inBar0 off && (size = 4 || size = 8)
  | .assay u | .disableCheck u | .assayDone u | .reset u | .resetComplete u | .taskComplete u => Machine.isUnit u
  | .timeLatch | .load | .compare | .syncInterval | .snapValid | .clearAll | .clearComplete | .read | .write | .stage
  | .discardStaged | .flush | .enable | .disable | .epochStart | .epochStop | .close | .cfgLock | .sessionTimeout
  | .auxPowerLoss | .pwrGood | .pwrGoodDeassert | .perstAssert | .cxlReset | .functionLevelReset | .profileApply
  | .deviceReady | .bootRestart | .bootWatchdog | .compaction | .errorRecord | .readReq | .readRsp | .writeReq
  | .writeAck | .exchData | .exchAck | .rts | .cts | .collData | .collAck | .commitVote | .commitCommit | .commitAbort
  | .commitStart | .slow | .delayReq | .delayRsp | .inval | .invalAck | .replicaInstall | .capStep | .capUnmet
  | .closeInstant | .drainComplete | .fabricDrain | .resumeLimit | .p54WithinRange | .mcFirmwareWatchdog => true
  | .compareWrite value | .p54Undervoltage value | .p54Overvoltage value => word64 value
  | .holdover errEst => word16 errEst
  | .tallyWrite slot word value => word16 slot && decide (word < 4) && word64 value
  | .tallyUpdate upd => word16 upd.slot && decide (1 ≤ upd.kind ∧ upd.kind ≤ 3) && word64 upd.ident
  | .tallySnapshot slot => word16 slot
  | .tblQuery ge table => decide (ge < 48 ∧ table < 1024)
  | .tblQueryDone ge | .gather ge | .poolSum ge | .poolMean ge | .unique ge | .scatter ge | .coalesceProbe ge
  | .coalesceEntryFilled ge | .fragmentTake ge | .splitSlotDecrement ge => decide (ge < 48)
  | .invalidate bank | .invDone bank => decide (bank < 16)
  | .retrain port | .linkSilence port | .laneRepair port | .lossOfDeskew port => decide (port < 48)
  | .undefinedEntryOp op => [0, 5, 6, 7].contains op
  | .sqTail ring tail => decide (ring < 256) && word32 tail
  | .cqHead ring head => decide (ring < 256) && word32 head
  | .errHead head => word32 head
  | .msixUnmask vector => decide (vector < 2048)
  | .decoderCommit n ways base size => decide (n < 4 ∧ 0 < ways) && word64 base && word64 size
  | .updateBegin c | .updateData c | .updateEnd c | .updateAbort c | .profileWrite c | .profileSelectNext c
  | .profileRead c | .clearBootCount c | .enterStrongbox c | .fuseSvn c | .revokeSlot c | .recordRead c => callFormed c
  | .diagTrain c bad => callFormed c && decide (bad.length ≤ 32)
  | .diagPort c lanes => callFormed c && decide (lanes.length ≤ 9)
  | .undefinedMcOp op c => decide (op < 256) && !definedMcOp op && callFormed c
  | .mctpRequest m => mctpFormed m
  | .doeObject _ => true
  | .ideFail _ => true
  | .cxlMemRead hpa _ => word64 hpa
  | .cxlMemWrite hpa data => word64 hpa && decide (hpa % 64 + data.length ≤ 64 ∧ data ≠ [])
  | .submissionLineSnoop addr line => word64 addr && decide (addr % 64 = 0 ∧ line.length = 64)
  | .auxPowerUp _ => true
  | .perstRelease pins => decide (pins < 4)
  | .cxlLinkTrained width speed => [1, 2, 4, 8, 16].contains width && decide (1 ≤ speed ∧ speed ≤ 5)
  | .imageVerify _ => true
  | .memoryTraining stack bad => decide (stack < 12 ∧ bad.length ≤ 32)
  | .recordWrite _ => true
  | .descriptorFetch ring _ => decide (ring < 256)
  | .admission ring | .tableSwitch ring | .ctxSet ring | .ringCoalesce ring => decide (ring < 256)
  | .join seq | .mark seq | .deadlineExpiry seq => decide (0 < seq)
  | .cond seq cc _ | .retry seq cc _ => decide (0 < seq ∧ cc < 8)
  | .delayTick q list time => decide (q < 4 ∧ list < 4) && word64 time
  | .taskDispatch q | .juncThrottle q | .restore q => decide (q < 4)
  | .completionRecord ring _ | .statusLineWrite ring _ => decide (ring < 256)
  | .tableDrained table version => decide (table < 1024) && word16 version
  | .matmul ma | .pin ma | .tileHandoff ma | .endMarker ma => decide (ma < 48)
  | .rowTileCheck ma bad | .residueRecompute ma bad | .partnerRun ma bad => decide (ma < 48) && bad.all fun c => decide (c < 130)
  | .convert qc | .prune24 qc | .compress qc | .decompress qc => decide (qc < 8)
  | .reduce engine _ => decide (engine < 12)
  | .predict engine _ _ => decide (engine < 8)
  | .run ve | .wpool ve | .nop ve | .setvl ve | .ldi ve | .laneid ve | .flagrd ve | .summ ve | .ld ve | .st ve
  | .ldx ve | .stx ve | .stxadd ve | .accrd ve | .fadd ve | .fsub ve | .fmul ve | .fma ve | .fmin ve | .fmax ve
  | .fabs ve | .fneg ve | .fdiv ve | .fsqrt ve | .fcmp ve | .sel ve | .exp ve | .exp2 ve | .log ve | .log2 ve
  | .rcp ve | .rsqrt ve | .tanh ve | .sigmoid ve | .erf ve | .iadd ve | .isub ve | .imul ve | .imin ve | .imax ve
  | .and ve | .or ve | .xor ve | .shl ve | .shr ve | .sra ve | .icmp ve | .cvtfi ve | .cvtif ve | .qnt ve | .perm ve
  | .cmprs ve | .expnd ve | .scan ve | .red ve | .redResult ve | .smax ve => decide (ve < 24)
  | .exchange cl | .migrate cl | .rtsRetry cl => decide (cl < 4)
  | .allReduce co | .allGather co | .reduceScatter co | .barrier co | .peerStall co => decide (co < 4)
  | .batchNs batch => decide (0 < batch)
  | .sync errEst rate => word16 errEst && word64 rate
  | .dataFrame port f | .idleFrame port f => decide (port < 48) && frameFormed f
  | .identityFrame port frame => decide (port < 48 ∧ frame.device < 1024 ∧ frame.port < 48 ∧ frame.level < 256)
  | .linkTraining port lanes => decide (port < 48 ∧ lanes.length ≤ 9)
  | .retrainingComplete port _ => decide (port < 48)
  | .serWindow port lane _ => decide (port < 48 ∧ lane < 9)
  | .stackAccess req _ => reqFormed req
  | .scrubRead stack sector _ => decide (stack < 12 ∧ sector % 64 = 0 ∧ sector < 80000000000)
  | .rowRemap stack => decide (stack < 12)
  | .pageRetire stack pages => decide (stack < 12) && pages.all fun p => decide (p % 4096 = 0 ∧ p < 80000000000)
  | .vaultAccess req _ | .cacheAccess req _ => reqFormed req
  | .accumulate bank offset _ _ values => decide (bank < 16 ∧ offset % 4 = 0) && values.all word32
  | .cacheFill addr _ _ => word64 addr && decide (addr % 64 = 0)
  | .mergeDrain bank _ => decide (bank < 16)
  | .sensorSample readings => decide (readings.length = 114) && readings.all word16
  | .thermalTrip sensor value => decide (sensor < 112) && word16 value
  | .powerMeasure watts mv centiamps auxMv auxMw => [watts, mv, centiamps, auxMv, auxMw].all word16
  | .ccWatchdog cc => decide (cc < 8)
  | .faultReport unit kind => Machine.isUnit unit && decide (kind < 256)
  | .diagnosis failed => failed.all Machine.isUnit
  | .lossOfLock port lane => decide (port < 48 ∧ lane < 9)
  | .loopbackSelftest failed => failed.all fun n => decide (n < 48)

end Sys2Proof
end

