-- ==== Sys2Proof/Tests/Slice0.lean ====
section
/-! SUPPORT. Tests: ill-formed commands are refused by the well-formedness check; for every statement with hypotheses a
state and operands that meet them; and single steps whose results the rules give. -/

namespace Sys2Proof.Tests

open Sys2Proof Sys2Proof.Machine

set_option Elab.async false

/-! ### Small states -/

/-- A powered module whose link has trained, with some units enabled. -/
def up (us : List UnitId) : State :=
  us.foldl (fun s u => setF s u 0x10 0 0 1) (setF { pw := { auxUp := true, p54 := true, pwrGood := true, perst := true, mainOn := true } } unitHI 0x1F0 12 8 16)

/-- A descriptor with some fields: offset, width, value. -/
def desc (fs : List (Nat × Nat × Nat)) : List Byte :=
  fs.foldl (fun d f => d.take f.1 ++ leBytes f.2.1 f.2.2 ++ d.drop (f.1 + f.2.1)) (zeros 128)

/-- A state in which an engine has a task in front. -/
def front (s : State) (u : UnitId) (d : List Byte) : State :=
  setEng { s with led := { s.led with tasks := [{ seq := 1, ring := 0, tAdmit := 0, desc := d, desc0 := d, place := .till u 0 }], nextSeq := 2 } } u
    { tills := [1], till := [(1, 0)], started := true }

/-- That task. -/
def task (u : UnitId) (d : List Byte) : Task := { seq := 1, ring := 0, tAdmit := 0, desc := d, desc0 := d, place := .till u 0 }

/-- The same state with the engine's work. -/
def working (s : State) (u : UnitId) (w : Work) : State := setEng s u { engOf s u with work := w }

/-- The state a command leads to. -/
def after (c : Instr) (s : State) : State :=
  match Machine.exec c s with
  | .next t => t
  | _ => s

/-- The cells of some bytes at an address. -/
def cells (a : Nat) (bs : List Byte) : List Host.Cell := (bs.zipIdx.filter fun p => p.1 ≠ 0).map fun p => (a + p.2, p.1)

/-! ### Well-formedness -/

theorem test_wf_refuses_registers : ∀ c ∈ ([.registerWrite (2 ^ 26) 4 0, .registerWrite 0 2 0, .registerWrite 0 4 (2 ^ 32),
    .registerWrite 0 8 (2 ^ 64), .badAccess false (2 ^ 26) 4, .badAccess true 0 0, .rcRead (2 ^ 26) 4, .rcRead 0 16,
    .assay ⟨0x00, 15, 0⟩, .disableCheck ⟨0x01, 4, 0⟩, .assayDone ⟨0x01, 0, 12⟩, .reset ⟨0x27, 15, 0⟩, .resetComplete ⟨0x20, 0, 0⟩,
    .taskComplete ⟨0x0F, 0, 0⟩, .compareWrite (2 ^ 64), .holdover 65536] : List Instr), c.wf = false := by decide +kernel

theorem test_wf_refuses_tallies_and_tables : ∀ c ∈ ([.tallyWrite 65536 0 0, .tallyWrite 0 4 0, .tallyWrite 0 0 (2 ^ 64),
    .tallyUpdate ⟨65536, 1, 0, ⟨0, 0⟩, ⟨0, 0⟩, 0⟩, .tallyUpdate ⟨1, 0, 0, ⟨0, 0⟩, ⟨0, 0⟩, 0⟩, .tallyUpdate ⟨1, 4, 0, ⟨0, 0⟩, ⟨0, 0⟩, 0⟩,
    .tallyUpdate ⟨1, 1, 0, ⟨0, 0⟩, ⟨0, 0⟩, 2 ^ 64⟩, .tallySnapshot 65536, .tblQuery 48 0, .tblQuery 0 1024, .tblQueryDone 48, .gather 48,
    .invalidate 16, .invDone 16, .tableDrained 1024 0, .tableDrained 0 65536] : List Instr), c.wf = false := by decide +kernel

theorem test_wf_refuses_host_commands : ∀ c ∈ ([.undefinedEntryOp 1, .sqTail 256 0, .sqTail 0 (2 ^ 32), .cqHead 256 0, .cqHead 0 (2 ^ 32),
    .errHead (2 ^ 32), .msixUnmask 2048, .decoderCommit 4 1 0 0, .decoderCommit 0 0 0 0, .decoderCommit 0 1 (2 ^ 64) 0,
    .decoderCommit 0 1 0 (2 ^ 64), .cxlMemRead (2 ^ 64) .clean, .cxlMemWrite (2 ^ 64) [0], .cxlMemWrite 63 [0, 0], .cxlMemWrite 0 [],
    .submissionLineSnoop 1 (zeros 64), .submissionLineSnoop 0 (zeros 63), .submissionLineSnoop (2 ^ 64) (zeros 64)] : List Instr),
    c.wf = false := by decide +kernel

/-- A management command's call, over CXL. -/
def call : McCall := ⟨false, [], 0, 0, true, true⟩

/-- One whose length does not fit its field. -/
def badCall : McCall := ⟨true, [], 2 ^ 32, 0, true, true⟩

theorem test_wf_refuses_management : ∀ c ∈ ([.updateBegin badCall, .updateData badCall, .updateEnd badCall, .updateAbort badCall,
    .profileWrite badCall, .profileSelectNext badCall, .profileRead badCall, .clearBootCount badCall, .enterStrongbox badCall,
    .fuseSvn badCall, .revokeSlot badCall, .recordRead { badCall with length := 0, offset := 2 ^ 32 }, .diagTrain badCall [],
    .diagTrain call (List.replicate 33 0), .diagPort badCall [], .diagPort call (List.replicate 10 ⟨0, 0⟩), .undefinedMcOp 256 call,
    .undefinedMcOp 0x10 call, .undefinedMcOp 0 badCall, .mctpRequest (.sensor 114), .mctpRequest (.firmware 5 call),
    .mctpRequest (.firmware 1 badCall), .mctpRequest (.vendor 256 call), .mctpRequest (.vendor 1 badCall)] : List Instr), c.wf = false := by
  decide +kernel

theorem test_wf_refuses_start_and_power : ∀ c ∈ ([.perstRelease 4, .cxlLinkTrained 3 5, .cxlLinkTrained 16 0, .cxlLinkTrained 16 6,
    .memoryTraining 12 [], .memoryTraining 0 (List.replicate 33 0), .p54Undervoltage (2 ^ 64), .p54Overvoltage (2 ^ 64),
    .sensorSample [0], .sensorSample (List.replicate 114 65536), .thermalTrip 112 0, .thermalTrip 0 65536, .powerMeasure 65536 0 0 0 0,
    .powerMeasure 0 65536 0 0 0, .powerMeasure 0 0 65536 0 0, .powerMeasure 0 0 0 65536 0, .powerMeasure 0 0 0 0 65536,
    .juncThrottle 4, .ccWatchdog 8, .faultReport ⟨0, 15, 0⟩ 0, .faultReport unitEX 256, .restore 4, .diagnosis [⟨0, 15, 0⟩],
    .loopbackSelftest [48]] : List Instr), c.wf = false := by decide +kernel

theorem test_wf_refuses_ledger_commands : ∀ c ∈ ([.descriptorFetch 256 false, .admission 256, .tableSwitch 256, .ctxSet 256,
    .ringCoalesce 256, .join 0, .mark 0, .deadlineExpiry 0, .cond 0 0 true, .cond 1 8 true, .retry 0 0 true, .retry 1 8 true,
    .delayTick 4 0 0, .delayTick 0 4 0, .delayTick 0 0 (2 ^ 64), .taskDispatch 4, .completionRecord 256 true,
    .statusLineWrite 256 true] : List Instr), c.wf = false := by decide +kernel

theorem test_wf_refuses_engines : ∀ c ∈ ([.matmul 48, .pin 48, .tileHandoff 48, .endMarker 48, .rowTileCheck 48 [], .rowTileCheck 0 [130],
    .residueRecompute 48 [], .residueRecompute 0 [130], .partnerRun 48 [], .partnerRun 0 [130], .convert 8, .prune24 8, .compress 8,
    .decompress 8, .poolSum 48, .poolMean 48, .unique 48, .scatter 48, .coalesceProbe 48, .coalesceEntryFilled 48, .fragmentTake 48,
    .splitSlotDecrement 48, .reduce 12 [], .predict 8 [] none, .run 24, .wpool 24, .nop 24, .setvl 24, .ldi 24, .laneid 24, .flagrd 24,
    .summ 24, .ld 24, .st 24, .ldx 24, .stx 24, .stxadd 24, .accrd 24, .fadd 24, .fsub 24, .fmul 24, .fma 24, .fmin 24, .fmax 24,
    .fabs 24, .fneg 24, .fdiv 24, .fsqrt 24, .fcmp 24, .sel 24, .exp 24, .exp2 24, .log 24, .log2 24, .rcp 24, .rsqrt 24, .tanh 24,
    .sigmoid 24, .erf 24, .iadd 24, .isub 24, .imul 24, .imin 24, .imax 24, .and 24, .or 24, .xor 24, .shl 24, .shr 24, .sra 24,
    .icmp 24, .cvtfi 24, .cvtif 24, .qnt 24, .perm 24, .cmprs 24, .expnd 24, .scan 24, .red 24, .redResult 24, .smax 24] : List Instr),
    c.wf = false := by decide +kernel

/-- A frame with 5,120 data bytes. -/
def frame (header : Nat) (bad : List Nat) : Frame := ⟨header, zeros 5120, 0, bad⟩

theorem test_wf_refuses_fabric : ∀ c ∈ ([.exchange 4, .migrate 4, .rtsRetry 4, .allReduce 4, .allGather 4, .reduceScatter 4, .barrier 4,
    .peerStall 4, .batchNs 0, .sync 65536 0, .sync 0 (2 ^ 64), .retrain 48, .linkSilence 48, .laneRepair 48, .lossOfDeskew 48,
    .dataFrame 48 (frame 0 []), .dataFrame 0 (frame (2 ^ 128) []), .dataFrame 0 ⟨0, [0], 0, []⟩, .idleFrame 0 (frame 0 [8]),
    .identityFrame 48 ⟨0, 0, 0, 0, 0, []⟩, .identityFrame 0 ⟨1024, 0, 0, 0, 0, []⟩, .identityFrame 0 ⟨0, 0, 48, 0, 0, []⟩,
    .identityFrame 0 ⟨0, 0, 0, 256, 0, []⟩, .linkTraining 48 [], .linkTraining 0 (List.replicate 10 ⟨0, 0⟩), .retrainingComplete 48 true,
    .serWindow 48 0 ⟨0, 0⟩, .serWindow 0 9 ⟨0, 0⟩, .lossOfLock 48 0, .lossOfLock 0 9] : List Instr), c.wf = false := by decide +kernel

theorem test_wf_refuses_memory : ∀ c ∈ ([.stackAccess ⟨⟨0, 15, 0⟩, 0, 0, 1, false, []⟩ .clean, .stackAccess ⟨unitHI, 16, 0, 1, false, []⟩ .clean,
    .stackAccess ⟨unitHI, 0, 2 ^ 64, 1, false, []⟩ .clean, .vaultAccess ⟨unitHI, 0, 0, 0, false, []⟩ false,
    .cacheAccess ⟨unitHI, 0, 4095, 2, false, []⟩ false, .vaultAccess ⟨unitHI, 0, 0, 0, true, []⟩ false,
    .cacheAccess ⟨unitHI, 0, 4095, 0, true, [0, 0]⟩ false, .scrubRead 12 0 .clean, .scrubRead 0 1 .clean, .scrubRead 0 80000000000 .clean,
    .rowRemap 12, .pageRetire 12 [], .pageRetire 0 [1], .pageRetire 0 [80000000000], .accumulate 16 0 1 false [],
    .accumulate 0 1 1 false [], .accumulate 0 0 1 false [2 ^ 32], .cacheFill 1 0 false, .cacheFill (2 ^ 64) 0 false,
    .mergeDrain 16 false] : List Instr), c.wf = false := by decide +kernel

theorem test_wf_accepts : ∀ c ∈ ([.registerWrite 0x110 8 (2 ^ 64 - 1), .rcRead (2 ^ 26 - 8) 8, .assay (unitMA 47), .tallyWrite 65535 3 0,
    .tallyUpdate ⟨0, 3, 1, ⟨1, 0⟩, ⟨0, 0⟩, 2 ^ 64 - 1⟩, .delayTick 3 3 (2 ^ 64 - 1), .dataFrame 47 (frame (2 ^ 128 - 1) [7]),
    .stackAccess ⟨unitHI, 15, 4095, 1, false, []⟩ .clean, .cxlMemWrite 63 [0], .undefinedMcOp 0xFF call, .redResult 23] : List Instr),
    c.wf = true := by decide +kernel

/-! ### States that meet the statements’ hypotheses: registers, time, tallies, the directory -/

/-- A queue with a command in front (StepRunsFront, StepKeepsModule). -/
theorem witness_queue : ({ State.reset with pending := [.timeLatch] } : State).pending = .timeLatch :: [] := rfl

/-- An empty queue (IdleStepTicks), without and with the auxiliary supply. -/
theorem witness_idle : State.reset.pending = [] ∧ State.reset.pw.auxUp = false ∧ (up []).pending = [] ∧ (up []).pw.auxUp = true := by
  decide +kernel

/-- A canonical state that steps (StepKeepsCanonical). -/
theorem witness_canonical : tblWf (fun _ => (0 : Byte)) State.reset.mem = true ∧ tblWf (fun _ => (0 : Byte)) State.reset.host = true ∧
    tblWf (regDefault State.reset.variant) State.reset.regs = true := by decide +kernel

/-- Commands of either kind of frame (MemoryFrames). -/
theorem witness_frames : storesMem .timeLatch = false ∧ writesHost .timeLatch = false := by decide +kernel

/-- Malformed and reserved accesses while BAR0 answers, at the ends of a page's range (AccessesAreAnsweredOrRecorded). -/
theorem witness_badAccess : linkUp (up []) = true ∧ wellAligned 1 4 = false ∧ wellAligned 4 8 = false ∧ answers (2 ^ 26 - 8) = false := by
  decide +kernel

theorem witness_errCount : linkUp (up []) = true ∧ present (up []) unitEX = true ∧ present (up []) (unitMA 47) = true := by decide +kernel

/-- The first and the last offset of the statement (PlainWriteActsFieldByField). -/
theorem witness_plainWrite : commandable (up []) (unitMA 0) = true ∧ (unitMA 0).ty = 0x01 ∧ commandable (up []) unitPW = true ∧
    unitPW.ty = 0x25 ∧ 0x100 % 8 = 0 ∧ 0xFF8 % 8 = 0 := by decide +kernel

/-- Pages that may start an assay and a disable check (ChecksStartAndFinish). -/
theorem witness_checksStart :
    (let s := up [unitHI]
     linkUp s = true ∧ (present s (unitMA 0) = true ∧ resetting s (unitMA 0) = false ∧ assayBusy s (unitMA 0) = false ∧ enabled s (unitMA 0) = false) ∧
      present s unitHI = true ∧ resetting s unitHI = false ∧ assayBusy s unitHI = false ∧ enabled s unitHI = true) := by decide +kernel

/-- An assay without a finding, an assay with one, a disable check, and an assay in strongbox mode (ChecksStartAndFinish). -/
theorem witness_checksFinish :
    (let s := setF (up []) unitTB 0x18 0 0 1
     present s unitTB = true ∧ assayBusy s unitTB = true ∧ s.disableChecks = [] ∧ assayFindings s unitTB = []) ∧
    (let s := setF (setF (up []) unitTB 0x18 0 0 1) unitTB 0x120 31 16 0
     present s unitTB = true ∧ assayBusy s unitTB = true ∧ assayFindings s unitTB ≠ []) ∧
    (let s := { setF (up [unitTB]) unitTB 0x18 0 0 1 with disableChecks := [unitTB] }
     present s unitTB = true ∧ assayBusy s unitTB = true ∧ s.disableChecks.contains unitTB = true ∧ disableFindings s unitTB = []) ∧
    (let s := setF (setF (up []) (unitMA 0) 0x18 0 0 1) unitDEV 0x120 3 0 2
     present s (unitMA 0) = true ∧ assayBusy s (unitMA 0) = true ∧ strongbox s = true ∧ unitMA 0 ∉ [unitDEV, unitMC, unitPW, unitTB]) := by
  decide +kernel

theorem witness_reset :
    (let s := up [unitMA 1]
     linkUp s = true ∧ resetting s (unitMA 1) = false ∧ assayBusy s (unitMA 1) = false ∧ enabled s (unitMA 1) = true ∧
      enabled s (unitMA 0) = false ∧ pageLocked s (unitMA 0) = false ∧ pageLocked { s with locks := 31 } unitPW = true) ∧
    (let s := setF (up []) unitEX 0x10 1 1 1
     present s (unitES 0) = true ∧ resetting (setF (up []) (unitES 0) 0x10 1 1 1) (unitES 0) = true ∧ (unitES 0).ty = 0x0E ∧ resetting s unitEX = true) ∧
    (let s := setF (setF (setF (up []) (unitMA 1) 0x10 1 1 1) (unitVE 0) 0x10 1 1 1) unitDEV 0x118 7 0 2
     present s (unitMA 1) = true ∧ resetting s (unitMA 1) = true ∧ (unitMA 1).ty = 1 ∧ present s (unitVE 0) = true ∧
      resetting s (unitVE 0) = true ∧ (unitVE 0).ty = 3 ∧ behaviourLevel s = 2) := by
  decide +kernel

theorem witness_load : commandable (up []) unitTB = true ∧ enabled (up []) unitTB = false ∧ commandable (up [unitTB]) unitTB = true ∧
    enabled (up [unitTB]) unitTB = true := by decide +kernel

theorem witness_timeLatch : linkUp (up []) = true ∧ ({ up [] with tb := { time := 2 ^ 64 - 1 } } : State).tb.time < 2 ^ 64 := by decide +kernel

theorem witness_compare :
    (let s := { setReg (up []) unitTB 0x150 6 with tb := { time := 5, armed := true } }
     commandable s unitTB = true ∧ s.tb.armed = true ∧ s.tb.time < (getReg s unitTB 0x150).toNat ∧ 5 ≤ s.tb.time ∧ s.tb.time < 6) := by decide +kernel

theorem witness_holdover :
    (let s := { setF (up [unitTB]) unitTB 0x120 1 0 2 with tb := { time := 2 ^ 64 - 1, lockedOnce := true, lastSync := 0 } }
     enabled s unitTB = true ∧ getF s unitTB 0x120 1 0 = 2 ∧ s.tb.time < 2 ^ 64 ∧
      s.tb.lastSync + 4 * (getF s unitTB 0x120 31 16 * 1000) < 2 ^ 64 ∧ s.tb.lockedOnce = true ∧
      getF s unitTB 0x120 15 8 < max 21 (getF s unitTB 0x140 15 0)) := by decide +kernel

/-- The null slot and the last slot, each word (TallyWritesChangeOneWord). -/
theorem witness_tallyWrite : linkUp (up []) = true ∧ strongbox (up []) = false ∧ (up []).tally.clearing = false ∧ 65535 < 65536 ∧ 3 < 4 := by
  decide +kernel

/-- Slots of each kind, one at its bounds, and a kind that does not match (TallyUpdateMatchesKind). -/
theorem witness_tallyUpdate :
    (let s : State := { up [] with tally := { live := [(1, { w0 := 2 ^ 64 - 1, w3 := 1 }), (2, { w3 := 2 }), (65535, { w1 := 7, w3 := 3 })] } }
     s.tally.clearing = false ∧ slotKind (slotOf s.tally.live 1) = 1 ∧ slotKind (slotOf s.tally.live 2) = 2 ∧
      slotKind (slotOf s.tally.live 65535) = 3 ∧ slotKind (slotOf s.tally.live 3) = 0 ∧ 2 ^ 64 - 1 < (slotOf s.tally.live 1).w0 + 1) := by
  decide +kernel

theorem witness_snapshot : linkUp (up []) = true ∧
    (let s : State := { up [] with tally := { snap := some 65535 } }
     s.tally.snap = some 65535 ∧ s.tally.clearing = false) := by decide +kernel

theorem witness_clear : linkUp (up []) = true ∧ (up []).tally.clearing = false ∧
    (let u : TallyUpd := ⟨1, 1, 1, ⟨0, 0⟩, ⟨0, 0⟩, 0⟩
     let s : State := { up [] with tally := { clearing := true, held := [.update u] } }
     linkUp s = true ∧ s.tally.clearing = true ∧ s.tally.held = [u].map .update) := by decide +kernel

theorem witness_queries :
    (let s := setF (up [unitVB 15]) (unitVB 0) 0x18 24 24 1
     commandable s (unitGE 47) = true ∧ commandable s (unitVB 15) = true ∧ enabled s (unitVB 15) = true ∧ commandable s (unitVB 0) = true ∧
      enabled s (unitVB 0) = false ∧ getF s (unitVB 0) 0x18 24 24 = 1) ∧
    (tblEntry { up [] with led := { tables := [(0, { current := some ⟨1, 64, 2, 64, 0, none, 3, 0, 0⟩ })] } } 0).current =
      some ⟨1, 64, 2, 64, 0, none, 3, 0, 0⟩ := by decide +kernel

/-- A directory page that takes writes; a change out of range, one that would overlap, one of an entry that is valid while an
epoch is open, one that makes an entry invalid (DirectoryReadAndDiscard, DirectoryChanges). -/
theorem witness_directory :
    (let s := setReg (up []) unitPD 0x110 (BitVec.ofNat 64 (2 ^ 63 + 2 ^ 55))
     commandable s unitPD = true ∧ openEpoch s = 0 ∧ bitOf (getReg s unitPD 0x110) 63 = true ∧
      entryRange s (getReg s unitPD 0x110) (getReg s unitPD 0x118) = true) ∧
    (let s := { setReg (setF (up []) unitPD 0x108 17 0 1) unitPD 0x110 (BitVec.ofNat 64 (2 ^ 63)) with dir := [(0, { w0 := BitVec.ofNat 64 (2 ^ 63) })] }
     commandable s unitPD = true ∧ openEpoch s = 0 ∧ bitOf (getReg s unitPD 0x110) 63 = true ∧
      entryRange s (getReg s unitPD 0x110) (getReg s unitPD 0x118) = false ∧ entryAlign s (getReg s unitPD 0x110) (getReg s unitPD 0x118) = false ∧
      wouldOverlap s 1 (getReg s unitPD 0x110) (getReg s unitPD 0x118) = true) ∧
    (let s := { setF (up []) unitEX 0x118 47 0 1 with dir := [(0, { w0 := BitVec.ofNat 64 (2 ^ 63) })] }
     commandable s unitPD = true ∧ openEpoch s ≠ 0 ∧ bitOf (dirEntry s 0).w0 63 = true) ∧
    (commandable (up []) unitPD = true ∧ openEpoch (up []) = 0 ∧ bitOf (getReg (up []) unitPD 0x110) 63 = false ∧
      (up []).fab.staged.length < 4096) ∧
    (let s : State := { up [] with fab := { staged := List.replicate 4096 (0, 0, 0) } }
     commandable s unitPD = true ∧ bitOf (getReg s unitPD 0x110) 63 = false ∧ 4096 ≤ s.fab.staged.length) := by decide +kernel

/-! ### The host interface -/

/-- A ready device with some ring pairs. -/
def ready (us : List UnitId) (rings : Table Ring) : State :=
  let s := up (unitDEV :: unitHI :: us)
  { s with hi := { s.hi with rings := rings } }

/-- A pair that may be enabled, and one that may be disabled (RingEnableChecksConfiguration). -/
theorem witness_ringEnable :
    (let s := ready [] []
     commandable s unitHI = true ∧ strongbox s = false ∧ enabled s unitHI = true ∧ (ringOf s 0).state = 0 ∧ 6 ≤ sqLog2 (ringOf s 0) ∧
      6 ≤ cqLog2 (ringOf s 0) ∧ coalCount (ringOf s 0) ≠ 0 ∧ ringVector (ringOf s 0) < getF s unitHI 0x1C0 11 0) ∧
    (let s := setF (ready [] [(255, { state := 1 })]) unitHI 0x100 7 0 255
     commandable s unitHI = true ∧ enabled s unitHI = true ∧ strongbox s = false ∧ (ringOf s 255).state ≠ 0) := by decide +kernel

/-- Values that are taken at the ends of their range, across the wrap of the count, and values beyond (DoorbellsInRangeAreTaken). -/
theorem witness_doorbells :
    (let s := ready [] [(255, { state := 1, sqHead := 2 ^ 32 - 1, sqTail := 2 ^ 32 - 1, cqHead := 2 ^ 32 - 1, cqTail := 0 })]
     linkUp s = true ∧ deviceReady s = true ∧ (ringOf s 0).state = 0 ∧ (ringOf s 255).state ≠ 0 ∧
      (ahead 63 (2 ^ 32 - 1) ≤ 2 ^ sqLog2 (ringOf s 255) ∧ ahead (2 ^ 32 - 1) (2 ^ 32 - 1) ≤ ahead 63 (2 ^ 32 - 1)) ∧
      2 ^ sqLog2 (ringOf s 255) < ahead 64 (2 ^ 32 - 1) ∧
      ahead 0 (2 ^ 32 - 1) ≤ ahead (ringOf s 255).cqTail (ringOf s 255).cqHead ∧
      ahead (ringOf s 255).cqTail (ringOf s 255).cqHead < ahead 1 (2 ^ 32 - 1)) := by decide +kernel

theorem witness_fetch :
    (let s := ready [] [(255, { state := 1, sqTail := 0, offer := 2 ^ 32 - 1 })]
     (ringOf s 255).state = 1 ∧ deviceReady s = true ∧ usable s unitHI = true ∧ phase s < 4 ∧
      ((ringOf s 255).offer + (ringOf s 255).fetched.length) % 2 ^ 32 ≠ (ringOf s 255).sqTail) := by decide +kernel

/-- A record of an enabled pair with room for one more, with no room, and of a disabled pair; a line that is due with its
message; a first unsignalled record (RecordsAndStatusLinesAreWritten). -/
theorem witness_records :
    (let x : PendRecord := ⟨0, 255, zeros 32⟩
     let s (r : Ring) : State := { ready [] [(255, r)] with led := { records := [⟨0, 1, []⟩, x] } }
     let a := s { state := 1, cqTail := 62, cqHead := 2 ^ 32 - 1 }
     let b := s { state := 1, cqTail := 63, cqHead := 2 ^ 32 - 1 }
     phase a < 4 ∧ a.led.records = [⟨0, 1, []⟩] ++ x :: [] ∧ (∀ y ∈ [(⟨0, 1, []⟩ : PendRecord)], y.ring % 256 ≠ 255) ∧
      (ringOf a 255).state ≠ 0 ∧ ahead (ringOf a 255).cqTail (ringOf a 255).cqHead < 2 ^ cqLog2 (ringOf a 255) ∧
      (ringOf b 255).state ≠ 0 ∧ 2 ^ cqLog2 (ringOf b 255) ≤ ahead (ringOf b 255).cqTail (ringOf b 255).cqHead ∧
      (ringOf (s { held := 1 }) 255).state = 0) ∧
    (let s := ready [] [(255, { lineDue := true, msgDue := true }), ]
     let t := { s with hi := { s.hi with unmasked := [0] } }
     (ringOf t 255).lineDue = true ∧ (ringOf t 255).msgDue = true ∧ ringVector (ringOf t 255) ∈ t.hi.unmasked) ∧
    (let s := ready [] [(255, { unsignalled := 1, cfg := 0x0001000100000606 })]
     (ringOf s 255).unsignalled ≠ 0 ∧ (ringOf s 255).msgDue = false ∧ coalUs (ringOf s 255) ≠ 0) := by decide +kernel

theorem witness_errorRing :
    (let s := ready [] []
     let on := setF (setReg s unitHI 0x180 0x1000) unitHI 0x188 63 63 1
     let t : State := { on with hi := { on.hi with errQueue := [{ kind := 5 }] } }
     let d : State := { on with hi := { on.hi with errDropped := 1 } }
     t.hi.errQueue = { kind := 5 } :: [] ∧ t.hi.errDropped = 0 ∧ errRoom t = true ∧
      errRoom { s with hi := { s.hi with errQueue := [{ kind := 5 }] } } = false ∧ commandable d unitHI = true ∧ d.hi.errDropped ≠ 0 ∧
      errRoom (after (.errHead 0) d) = true) := by decide +kernel

theorem witness_vectors :
    (let s := ready [] []
     let p : State := { s with hi := { s.hi with msixPending := [2047], ideMem := .secure } }
     linkUp p = true ∧ 2047 ∈ p.hi.msixPending ∧ 0 ∉ p.hi.msixPending ∧ 3 < getF p unitHI 0x1C8 2 0 ∧
      dpaTaken p 3 0 (2 ^ 28) = false ∧ enabled p unitHI = true ∧ strongbox p = false ∧ enabled (up []) unitHI = false ∧ p.hi.ideMem = .secure) := by
  decide +kernel

/-- The window over stack 0, with and without its controller. -/
def window (us : List UnitId) : State :=
  let s := ready us []
  { s with hi := { s.hi with decoders := [(0, ⟨true, false, 2 ^ 40, 2 ^ 28, 0⟩)] } }

/-- Lines at the start of the window: unmapped, plain, refused while an epoch is open, and read (HostWindowAccesses). -/
theorem witness_window :
    (dpaOf (window []) (2 ^ 40 + 63) = some 63 ∧ windowMapped (window []) 0 = false) ∧
    (let s := window [unitHS 0]
     dpaOf s (2 ^ 40 + 63) = some 63 ∧ windowMapped s (63 / 64 * 64) = true ∧ hostRefused s (2 ^ 60 + 63) = false ∧ openEpoch s = 0 ∧
      (2 ^ 40 + 63) % 64 = 63 % 64 ∧ bankFor s 0 ((2 ^ 60 + 63) / 64 * 64) = none ∧ escrowOwn s (2 ^ 60 + 63) = false ∧
      pageBase 63 ∉ (stackOf s 0).offline ∧ dpaOf s ((2 ^ 40 + 63) / 64 * 64) = some 0 ∧ windowMapped s 0 = true ∧
      hostHit s (2 ^ 60) = false ∧ capWaits s (hostReq s (2 ^ 60)) = false ∧ escrowOwn s (2 ^ 60) = false) ∧
    (let s := setF (setReg (setReg (window [unitHS 0, unitES 0]) (unitES 0) 0x100 (BitVec.ofNat 64 (2 ^ 60))) (unitES 0) 0x108
        (BitVec.ofNat 64 (2 ^ 63 + 4096))) unitEX 0x118 47 0 1
     dpaOf s (2 ^ 40) = some 0 ∧ windowMapped s 0 = true ∧ hostRefused s (2 ^ 60) = true) := by decide +kernel

/-! ### Firmware images and authorisations. The key and the signatures were made with OpenSSL (RSA-3072, SHA-256, PSS with a
32-byte salt). -/

/-- The modulus of a test key. -/
def modulus : List Byte :=
  [0xbbef7db1a6c294d4aafc2a7a37c60aaf34d1b1d75ab0fea5464ef4efcaff4e7537a4f75b58872152189b54eabe316913b365f1b2c69ea6291b1c838872f41e03,
   0x2b746e5f29054e1135e2319ea90c20300f5f88958ce225e719e972a50c9f4ccdc025e4e696cd89ff1ac05eb3a8e956150a1eb528f083fb53aa4881c3fb436af9,
   0x46bb6172ed137684d809d2da2321c37f41c596d556df34abfb9a3953b401484fa2de8ac648c2c1c66127e326aa8d6c1b454fd516d76d8bbd4f26273175d82434,
   0xdff6d744a61b18a83a68190ebe7cbca73a0d253cea9c4278bac2db1a351528f5ce53f02888479533162005e14cf0d7416aa8e33da3e8a0b1462171eff34114cd,
   0x1fdde045442af1e2bc44e0ef31706e926a83e67a68e8eb3789409a6c55986e78262ecc4d6c691b90fceb9e18ff31081012193ef36e649b50680082b70d3b3809,
   0x4c3f6f9eae06383ae51bb273e3eac1f294ba02963efe39e98558b5e321cdfdfe3c55b70385ab9c042808e49b4181cd058b8bf09bd90cfd78c7827b3689d75259].flatMap (beBytes 64)

/-- Its signature of the image header below. -/
def imageSig : List Byte :=
  [0x2d2c158d774cb770fd954e0480e71bda3c7f3cfe11cb21f33b8740bcda48301eaf74ea3ef69a150cda38204e348b8ce1c50b2a86284cdd552c16cad4732285cc,
   0x77684499b316c5ca4d474f0fba3414f3150f16d84e075d3c44b8a16822f8f00b53ba76c676e9d3da858e4e91740ea77e63967c50cc13d211a9213c1316210c32,
   0x8b6f122a88c4ad51257db85952e25d1a3f075501ce4b6d1a647391952d1dc80fc203fe3175de77009aa967b1e9d8ee3e9d4786f5862df9f23a908a487adbced8,
   0xfbc27e1735c286307ab7be10ea4dd66fa317cb4b38ba6f65b05ceb9584fe485a1ad3b16f23f419c6f99ba8002602f2619830b11ca26ffadef05af4c2aa805540,
   0x1ede1aa0b1ed77d1548c748b5b0a6d23a20a700a492f3611beb2a8afb2e6c81eb790e01a217db020ba2859a0ec131f1f0ff946e976f4e13de00da4b57a700525,
   0x62ff0d2eb0897fdd8e0a067fd00b8b8b6187eba24707c79dd23f9bdc0db5f73595484e7e3f390e6dad0f057080226688338f5dc69fda4f07d84ba76ae7a3e51b].flatMap (beBytes 64)

/-- Its signature of the FUSE_SVN authorisation below. -/
def fuseSig : List Byte :=
  [0x948ad35e265bc2c5ac8462a48bf35e8e4b43b6328bd9da8d77560305f1a33cff9d7a30c5bc3e570f6a6c9695ce72929e979830e1e4c5b4579e7442ff7b875ed9,
   0xeae80a76af474a76b3aef92f3e6772266a8f3c7a386c08cf10849eea485ba9e92f0b076d3d4c5d326dab22d537b6cec4961fca5bfe0557910a4359e8a4bd87c3,
   0xa13a4d03d00e4132a02fa71cec479a56e4573923ce160a13b771b355599a1ee2aebfb70e1bb93c140201fe7dbf125d4c8a10ba67fb5324c1ba4a28d66bd92971,
   0xa9c712bd0000538501097e022dad9b9538c0553b096a3e550d630b3372a428451ed687d2a7e17a35d28898cc247967b2bc6a03742a4ea690bed096934de4cbff,
   0x246a4911df69c2906085ad877a4c433225dd5c943c738d81f95908c817ab4b9859ab12523d973651cd829400e7c680ae7713e76bc984797e3302dae886cd608,
   0x98f05fee990030326c4c821e7dab56290f76ce7a3685cffdbc582f2a21deff52cd0e8fa16de3030abd49ce397cf4ba7932834f171360dff266afed899f91e802].flatMap (beBytes 64)

/-- Its signature of the REVOKE_SLOT authorisation below. -/
def revokeSig : List Byte :=
  [0xa4277608efcdbaa34e3d736accb73907bfc233e95472999f4fd1b1985f34f0531d4613ca9a8268ad042e0df34e392517cbdb423f64fa4cda69cf914925739471,
   0xa1ad5aca0fc880ad7df6c577e5839373229b61388b825b0bc6edd2e8f5c7b9893580fbf833d8ff46ec461b26f4dd1c18888154bc0cfc43ba5e960f983b34513d,
   0xd0cb79a79dc34ff9f41e857d081c21533b3a66ef1fcf62587001b31426dc7b182905ce54700abaf08d8f3a55690cb4512d3ca620cd62d466514fd4f7b91cc54,
   0xddc8dc880978ebbb557fee58d6adc2e1d9198128989cb26e4d942df0715ce7d0d1c981448518f7e42b9f9c0058026c64bd16e18a71bc6e2652480000b587ae1a,
   0x26de519c8c5fc1fb040f49654a683508bf13e6b4819f5f9326b2eb0133f895dabb5fb06e46b7dbde5b184d36bf2773cb3858930a9783e570bc782dfdedb1c0d4,
   0xff9b55058b726f5270621cb79eaf83130ec0de5063915069927e50f0fb23b94f6de36cfa99f8357e5bae6608bec7ce6547dace6d0aebdfbb3d839242e62981f8].flatMap (beBytes 64)

/-- Bytes of consecutive fields: width and value, little-endian. -/
def fields (l : List (Nat × Nat)) : List Byte := l.flatMap fun f => leBytes f.1 f.2

/-- The exponent. -/
def expo : List Byte := leBytes 4 65537

/-- The SHA-256 of a body of 4,096 zeros. -/
def bodyHash : List Byte := beBytes 32 0xad7facb2586fc6e966c004d7d1d16b024f5805ff7cb47c7a85dabd8b48892ca7

/-- A header of slot 3 with SVN 5 for that body: its first 24 bytes, what is signed, and all of it. -/
def imageHead : List Byte :=
  fields [(2, 1), (1, 3), (1, 5), (1, 1), (1, 2), (1, 3), (1, 0), (2, 9), (6, 0), (4, 4096), (4, 0)]
def imageMsg : List Byte := imageHead ++ (bodyHash ++ (modulus ++ (expo ++ zeros 68)))
def image : List Byte := imageMsg ++ (imageSig ++ zeros 128)

/-- Authorisations by slot 3 for serial number 1 and NONCE 7: FUSE_SVN to 6, REVOKE_SLOT of slot 2. -/
def fuseHead : List Byte := fields [(1, 0x30), (1, 3), (6, 0), (8, 1), (8, 7), (8, 6)]
def revokeHead : List Byte := fields [(1, 0x31), (1, 3), (6, 0), (8, 1), (8, 7), (8, 2)]
def authMsg (head : List Byte) : List Byte := head ++ (modulus ++ (expo ++ zeros 92))

/-- The SHA-256 of the key, as slot 3’s fuses hold it. -/
def keyHash : List Byte := beBytes 32 0xc238089d97829622468cbaf39d3252c46f48e1ed15d33f3d23a24a917a5527a2

/-! ### SHA-256 over plain numbers, which the kernel evaluates faster, equal to the model’s -/

def fRot (x n : Nat) : Nat := Nat.lor (Nat.shiftRight x n) (Nat.mod (Nat.shiftLeft x (Nat.sub 32 n)) 4294967296)
def fNext (a b c d : Nat) : Nat :=
  Nat.mod (Nat.add (Nat.add (Nat.add a (Nat.xor (Nat.xor (fRot b 7) (fRot b 18)) (Nat.shiftRight b 3))) c)
    (Nat.xor (Nat.xor (fRot d 17) (fRot d 19)) (Nat.shiftRight d 10))) 4294967296
def fT1 (e f g h k w : Nat) : Nat :=
  Nat.add (Nat.add (Nat.add (Nat.add h (Nat.xor (Nat.xor (fRot e 6) (fRot e 11)) (fRot e 25)))
    (Nat.xor (Nat.land e f) (Nat.land (Nat.sub 4294967295 e) g))) k) w
def fT2 (a b c : Nat) : Nat :=
  Nat.add (Nat.xor (Nat.xor (fRot a 2) (fRot a 13)) (fRot a 22)) (Nat.xor (Nat.xor (Nat.land a b) (Nat.land a c)) (Nat.land b c))

theorem fRot_eq (x : BitVec 32) (n : Nat) (h : n < 32) : fRot x.toNat n = (x.rotateRight n).toNat := by
  rw [BitVec.toNat_rotateRight, Nat.mod_eq_of_lt h]
  rfl

theorem fNext_eq (a b c d : BitVec 32) : fNext a.toNat b.toNat c.toNat d.toNat =
    (a + (b.rotateRight 7 ^^^ b.rotateRight 18 ^^^ (b >>> 3)) + c + (d.rotateRight 17 ^^^ d.rotateRight 19 ^^^ (d >>> 10))).toNat := by
  simp only [fNext, fRot_eq _ _ (show 7 < 32 by decide), fRot_eq _ _ (show 18 < 32 by decide), fRot_eq _ _ (show 17 < 32 by decide),
    fRot_eq _ _ (show 19 < 32 by decide)]
  simp only [BitVec.toNat_add, BitVec.toNat_xor, BitVec.toNat_ushiftRight, Nat.mod_add_mod]
  rfl
theorem fT1_eq (e f g h k w : BitVec 32) : fT1 e.toNat f.toNat g.toNat h.toNat k.toNat w.toNat % 2 ^ 32 =
    (h + (e.rotateRight 6 ^^^ e.rotateRight 11 ^^^ e.rotateRight 25) + ((e &&& f) ^^^ (~~~e &&& g)) + k + w).toNat := by
  simp only [fT1, fRot_eq _ _ (show 6 < 32 by decide), fRot_eq _ _ (show 11 < 32 by decide), fRot_eq _ _ (show 25 < 32 by decide)]
  simp only [BitVec.toNat_add, BitVec.toNat_xor, BitVec.toNat_and, BitVec.toNat_not, Nat.mod_add_mod]
  rfl
theorem fT2_eq (a b c : BitVec 32) : fT2 a.toNat b.toNat c.toNat % 2 ^ 32 =
    ((a.rotateRight 2 ^^^ a.rotateRight 13 ^^^ a.rotateRight 22) + ((a &&& b) ^^^ (a &&& c) ^^^ (b &&& c))).toNat := by
  simp only [fT2, fRot_eq _ _ (show 2 < 32 by decide), fRot_eq _ _ (show 13 < 32 by decide), fRot_eq _ _ (show 22 < 32 by decide)]
  simp only [BitVec.toNat_add, BitVec.toNat_xor, BitVec.toNat_and]
  rfl

def fRounds : List Nat → Nat → Nat → Nat → Nat → Nat → Nat → Nat → Nat → Nat → Nat → Nat → Nat → Nat → Nat → Nat → Nat → Nat → Nat → Nat → Nat → Nat → Nat → Nat → Nat → List Nat
  | [], _, _, _, _, _, _, _, _, _, _, _, _, _, _, _, _, a, b, c, d, e, f, g, h => [a, b, c, d, e, f, g, h]
  | k :: ks, w0, w1, w2, w3, w4, w5, w6, w7, w8, w9, w10, w11, w12, w13, w14, w15, a, b, c, d, e, f, g, h =>
    fRounds ks w1 w2 w3 w4 w5 w6 w7 w8 w9 w10 w11 w12 w13 w14 w15 (fNext w0 w1 w9 w14) (Nat.mod (Nat.add (fT1 e f g h k w0) (fT2 a b c)) 4294967296) a b c
      (Nat.mod (Nat.add d (fT1 e f g h k w0)) 4294967296) e f g

theorem fRounds_eq (ks : List (BitVec 32)) (w0 w1 w2 w3 w4 w5 w6 w7 w8 w9 w10 w11 w12 w13 w14 w15 a b c d e f g h : BitVec 32) :
    fRounds (ks.map BitVec.toNat) w0.toNat w1.toNat w2.toNat w3.toNat w4.toNat w5.toNat w6.toNat w7.toNat w8.toNat w9.toNat w10.toNat w11.toNat w12.toNat w13.toNat w14.toNat w15.toNat a.toNat b.toNat c.toNat d.toNat e.toNat f.toNat g.toNat h.toNat =
      (let t := shaRounds ks [w0, w1, w2, w3, w4, w5, w6, w7, w8, w9, w10, w11, w12, w13, w14, w15] ⟨a, b, c, d, e, f, g, h⟩
       [t.a.toNat, t.b.toNat, t.c.toNat, t.d.toNat, t.e.toNat, t.f.toNat, t.g.toNat, t.h.toNat]) := by
  induction ks generalizing w0 w1 w2 w3 w4 w5 w6 w7 w8 w9 w10 w11 w12 w13 w14 w15 a b c d e f g h with
  | nil => rfl
  | cons k ks ih =>
    have x := fNext_eq w0 w1 w9 w14
    have e1 : Nat.mod (Nat.add (fT1 e.toNat f.toNat g.toNat h.toNat k.toNat w0.toNat) (fT2 a.toNat b.toNat c.toNat)) 4294967296 =
        (shaRound k w0 ⟨a, b, c, d, e, f, g, h⟩).a.toNat := by
      simp only [shaRound]
      rw [BitVec.toNat_add, ← fT1_eq, ← fT2_eq]
      exact (Nat.add_mod _ _ _)
    have e2 : Nat.mod (Nat.add d.toNat (fT1 e.toNat f.toNat g.toNat h.toNat k.toNat w0.toNat)) 4294967296 =
        (shaRound k w0 ⟨a, b, c, d, e, f, g, h⟩).e.toNat := by
      simp only [shaRound]
      rw [BitVec.toNat_add, ← fT1_eq, Nat.add_mod_mod]
      rfl
    simp only [List.map_cons, fRounds, e1, e2]
    rw [x]
    exact ih _ _ _ _ _ _ _ _ _ _ _ _ _ _ _ _ _ _ _ _ _ _ _ _

def shaKs : List Nat := shaK.map BitVec.toNat

def fBlock (a b c d e f g h : Nat) (w : List Nat) : List Nat :=
  match w with
  | [w0, w1, w2, w3, w4, w5, w6, w7, w8, w9, w10, w11, w12, w13, w14, w15] => List.zipWith (fun x y => Nat.mod (Nat.add x y) 4294967296) [a, b, c, d, e, f, g, h] (fRounds shaKs w0 w1 w2 w3 w4 w5 w6 w7 w8 w9 w10 w11 w12 w13 w14 w15 a b c d e f g h)
  | _ => []

def fHash : List (List Nat) → List Nat → List Nat
  | [], s => s
  | w :: t, [a, b, c, d, e, f, g, h] => fHash t (fBlock a b c d e f g h w)
  | _, _ => []

theorem fBlock_gen (ks : List (BitVec 32)) (w0 w1 w2 w3 w4 w5 w6 w7 w8 w9 w10 w11 w12 w13 w14 w15 a b c d e f g h : BitVec 32) (t : ShaState) (ht : shaRounds ks [w0, w1, w2, w3, w4, w5, w6, w7, w8, w9, w10, w11, w12, w13, w14, w15] ⟨a, b, c, d, e, f, g, h⟩ = t) :
    List.zipWith (fun x y => Nat.mod (Nat.add x y) 4294967296) [a.toNat, b.toNat, c.toNat, d.toNat, e.toNat, f.toNat, g.toNat, h.toNat]
      (fRounds (ks.map BitVec.toNat) w0.toNat w1.toNat w2.toNat w3.toNat w4.toNat w5.toNat w6.toNat w7.toNat w8.toNat w9.toNat w10.toNat w11.toNat w12.toNat w13.toNat w14.toNat w15.toNat a.toNat b.toNat c.toNat d.toNat e.toNat f.toNat g.toNat h.toNat) = [(a + t.a).toNat, (b + t.b).toNat, (c + t.c).toNat, (d + t.d).toNat, (e + t.e).toNat, (f + t.f).toNat, (g + t.g).toNat, (h + t.h).toNat] := by
  rw [fRounds_eq, ht]
  simp only [BitVec.toNat_add]
  rfl

theorem fBlock_eq (s : ShaState) (blk : List Byte) :
    fBlock s.a.toNat s.b.toNat s.c.toNat s.d.toNat s.e.toNat s.f.toNat s.g.toNat s.h.toNat ((shaWords blk).map BitVec.toNat) = [(shaBlock s blk).a.toNat, (shaBlock s blk).b.toNat, (shaBlock s blk).c.toNat, (shaBlock s blk).d.toNat, (shaBlock s blk).e.toNat, (shaBlock s blk).f.toNat, (shaBlock s blk).g.toNat, (shaBlock s blk).h.toNat] :=
  fBlock_gen shaK _ _ _ _ _ _ _ _ _ _ _ _ _ _ _ _ s.a s.b s.c s.d s.e s.f s.g s.h _ rfl

theorem fHash_eq (bs : List (List Byte)) (s : ShaState) :
    fHash (bs.map fun b => (shaWords b).map BitVec.toNat) [s.a.toNat, s.b.toNat, s.c.toNat, s.d.toNat, s.e.toNat, s.f.toNat, s.g.toNat, s.h.toNat] =
      (let t := bs.foldl shaBlock s
       [t.a.toNat, t.b.toNat, t.c.toNat, t.d.toNat, t.e.toNat, t.f.toNat, t.g.toNat, t.h.toNat]) := by
  induction bs generalizing s with
  | nil => rfl
  | cons b bs ih =>
    have h : fBlock s.a.toNat s.b.toNat s.c.toNat s.d.toNat s.e.toNat s.f.toNat s.g.toNat s.h.toNat ((shaWords b).map BitVec.toNat) =
        [(shaBlock s b).a.toNat, (shaBlock s b).b.toNat, (shaBlock s b).c.toNat, (shaBlock s b).d.toNat, (shaBlock s b).e.toNat, (shaBlock s b).f.toNat, (shaBlock s b).g.toNat, (shaBlock s b).h.toNat] := by
      exact fBlock_eq s b
    simp only [List.map_cons, fHash, List.foldl_cons]
    rw [h]
    exact ih (shaBlock s b)

/-- SHA-256 over plain numbers, which the kernel evaluates faster. -/
def fastSha (m : List Byte) : List Byte :=
  let p := shaPad m
  (fHash ((pieces 64 (p.length / 64) p).map fun b => (shaWords b).map BitVec.toNat) [shaInit.a.toNat, shaInit.b.toNat, shaInit.c.toNat, shaInit.d.toNat, shaInit.e.toNat, shaInit.f.toNat, shaInit.g.toNat, shaInit.h.toNat]).flatMap (beBytes 4)

theorem fastSha_eq (m : List Byte) : fastSha m = sha256 m := by
  unfold fastSha sha256
  simp only [fHash_eq]
  rfl

def fastMgf (seed : List Byte) (n : Nat) : List Byte :=
  ((List.range (ceilDiv n 32)).flatMap fun k => fastSha (seed ++ beBytes 4 k)).take n

theorem fastMgf_eq (seed : List Byte) (n : Nat) : fastMgf seed n = mgf1 seed n := by
  simp only [fastMgf, mgf1, fastSha_eq]

def fastPss (em m : List Byte) : Bool :=
  let masked := em.take 351
  let h := slice em 351 32
  let db := List.zipWith (fun (x y : Byte) => x ^^^ y) masked (fastMgf h 351)
  let db0 : List Byte := (db.getD 0 0 &&& 0x7F) :: db.drop 1
  em.getD 383 0 = 0xBC && decide ((em.getD 0 0).toNat < 128) && (db0.take 318).all (fun b => b = 0) && db0.getD 318 0 = 0x01 &&
    h = fastSha (zeros 8 ++ fastSha m ++ slice db0 319 32)

theorem fastPss_eq (em m : List Byte) : fastPss em m = pssCheck em m := by
  simp only [fastPss, pssCheck, fastSha_eq, fastMgf_eq]

/-- A signature verifies. -/
theorem pss_of_fast (modulus signature m : List Byte) (h : ofBE signature < ofBE modulus)
    (c : fastPss (beBytes 384 (pow65537 (ofBE modulus) (ofBE signature))) m = true) : pssVerify modulus signature m = true := by
  simp [pssVerify, h, ← fastPss_eq, c]

theorem test_sha256 : ofBE (sha256 [0x61, 0x62, 0x63]) = 0xba7816bf8f01cfea414140de5dae2223b00361a396177a9cb410ff61f20015ad := by
  rw [← fastSha_eq]
  decide +kernel

/-! Slices of joined byte lists. -/

theorem getD_append (x y : List Byte) (k : Nat) : (x ++ y).getD k 0 = if k < x.length then x.getD k 0 else y.getD (k - x.length) 0 := by
  simp only [List.getD_eq_getElem?_getD, List.getElem?_append]
  split <;> rfl

theorem slice_left (x y : List Byte) (o n : Nat) (h : o + n ≤ x.length) : slice (x ++ y) o n = slice x o n := by
  apply List.map_congr_left
  intro k hk
  have hk := List.mem_range.mp hk
  rw [getD_append, if_pos (by omega)]

theorem slice_right (x y : List Byte) (o n : Nat) (h : x.length ≤ o) : slice (x ++ y) o n = slice y (o - x.length) n := by
  apply List.map_congr_left
  intro k _
  rw [getD_append, if_neg (by omega)]
  congr 1
  omega

theorem slice_all (x : List Byte) (n : Nat) (h : x.length = n) : slice x 0 n = x := by
  subst h
  apply List.ext_getElem
  · simp [slice]
  · intro i h1 h2
    simp [slice, h2]

theorem lens : modulus.length = 384 ∧ imageSig.length = 384 ∧ fuseSig.length = 384 ∧ revokeSig.length = 384 ∧ imageHead.length = 24 ∧
    bodyHash.length = 32 ∧ expo.length = 4 ∧ fuseHead.length = 32 ∧ revokeHead.length = 32 := by decide +kernel

theorem zeros_length (n : Nat) : (zeros n).length = n := by simp [zeros]

theorem imageMsg_length : imageMsg.length = 512 := by
  obtain ⟨h1, h2, h3, h4, h5, h6, h7, -⟩ := lens
  simp [imageMsg, h1, h5, h6, h7, zeros_length]

theorem image_length : image.length = 1024 := by
  obtain ⟨h1, h2, h3, h4, h5, h6, h7, -⟩ := lens
  simp [image, imageMsg_length, h2, zeros_length]

/-- The parts of the header. -/
theorem image_parts : slice image 0 512 = imageMsg ∧ slice image 512 384 = imageSig ∧ slice image 896 128 = zeros 128 ∧
    slice image 56 388 = modulus ++ expo ∧ slice image 56 384 = modulus ∧ slice image 440 4 = expo ∧ slice image 444 68 = zeros 68 ∧
    slice image 24 32 = bodyHash ∧ ∀ o n, o + n ≤ 24 → slice image o n = slice imageHead o n := by
  obtain ⟨h1, h2, h3, h4, h5, h6, h7, -⟩ := lens
  have hm := imageMsg_length
  have l (o n : Nat) (h : o + n ≤ 512) : slice image o n = slice imageMsg o n := slice_left _ _ _ _ (by omega)
  have m56 (n : Nat) (h : 56 + n ≤ 512) : slice image 56 n = slice (modulus ++ (expo ++ zeros 68)) 0 n := by
    rw [l _ _ h, imageMsg, slice_right _ _ _ _ (by omega), slice_right _ _ _ _ (by omega), h5, h6]
  refine ⟨?_, ?_, ?_, ?_, ?_, ?_, ?_, ?_, ?_⟩
  · rw [l _ _ (by omega), slice_all _ _ hm]
  · rw [image, slice_right _ _ _ _ (by omega), hm, slice_left _ _ _ _ (by omega), slice_all _ _ h2]
  · rw [image, slice_right _ _ _ _ (by omega), hm, slice_right _ _ _ _ (by omega), h2, slice_all _ _ (zeros_length _)]
  · rw [m56 _ (by omega), ← List.append_assoc, slice_left _ _ _ _ (by simp [h1, h7]), slice_all _ _ (by simp [h1, h7])]
  · rw [m56 _ (by omega), slice_left _ _ _ _ (by omega), slice_all _ _ h1]
  · rw [l _ _ (by omega), imageMsg, slice_right _ _ _ _ (by omega), slice_right _ _ _ _ (by omega), slice_right _ _ _ _ (by omega), h5, h6, h1,
      slice_left _ _ _ _ (by omega), slice_all _ _ h7]
  · rw [l _ _ (by omega), imageMsg, slice_right _ _ _ _ (by omega), slice_right _ _ _ _ (by omega), slice_right _ _ _ _ (by omega),
      slice_right _ _ _ _ (by omega), h5, h6, h1, h7, slice_all _ _ (zeros_length _)]
  · rw [l _ _ (by omega), imageMsg, slice_right _ _ _ _ (by omega), h5, slice_left _ _ _ _ (by omega), slice_all _ _ h6]
  · intro o n h
    rw [l _ _ (by omega), imageMsg, slice_left _ _ _ _ (by omega)]

/-- The parts of an authorisation. -/
theorem auth_parts (head sig : List Byte) (hh : head.length = 32) (hs : sig.length = 384) :
    let o := authMsg head ++ sig
    slice o 0 512 = authMsg head ∧ slice o 512 384 = sig ∧ slice o 32 388 = modulus ++ expo ∧ slice o 32 384 = modulus ∧
      o.length = 896 ∧ ∀ k n, k + n ≤ 32 → slice o k n = slice head k n := by
  obtain ⟨h1, -, -, -, -, -, h7, -⟩ := lens
  have hm : (authMsg head).length = 512 := by simp [authMsg, hh, h1, h7, zeros_length]
  have l (o n : Nat) (h : o + n ≤ 512) : slice (authMsg head ++ sig) o n = slice (authMsg head) o n := slice_left _ _ _ _ (by omega)
  have m32 (n : Nat) (h : 32 + n ≤ 512) : slice (authMsg head ++ sig) 32 n = slice (modulus ++ (expo ++ zeros 92)) 0 n := by
    rw [l _ _ h, authMsg, slice_right _ _ _ _ (by omega), hh]
  refine ⟨?_, ?_, ?_, ?_, ?_, ?_⟩
  · rw [l _ _ (by omega), slice_all _ _ hm]
  · rw [slice_right _ _ _ _ (by omega), hm, slice_all _ _ hs]
  · rw [m32 _ (by omega), ← List.append_assoc, slice_left _ _ _ _ (by simp [h1, h7]), slice_all _ _ (by simp [h1, h7])]
  · rw [m32 _ (by omega), slice_left _ _ _ _ (by omega), slice_all _ _ h1]
  · simp [hm, hs]
  · intro k n h
    rw [l _ _ (by omega), authMsg, slice_left _ _ _ _ (by omega)]

/-- A table that holds a byte list from an address on. -/
def run (a : Nat) (bs : List Byte) : List Host.Cell := (List.range' a bs.length).map fun i => (i, bs.getD (i - a) 0)

theorem tblFind_run (f : Nat → Byte) (a n k : Nat) (h : a ≤ k) (h2 : k < a + n) :
    tblFind ((List.range' a n).map fun i => (i, f i)) k = some (f k) := by
  induction n generalizing a with
  | zero => omega
  | succ n ih =>
    simp only [List.range'_succ, List.map_cons, tblFind]
    by_cases hk : a = k
    · simp [hk]
    · simp only [if_neg hk]
      exact ih (a + 1) (by omega) (by omega)

theorem run_bytes (d : Nat → Byte) (a o n : Nat) (bs : List Byte) (h : o + n ≤ bs.length) :
    ((List.range n).map fun k => tblGet d (run a bs) (a + o + k)) = slice bs o n := by
  apply List.map_congr_left
  intro k hk
  have hk := List.mem_range.mp hk
  unfold tblGet run
  rw [tblFind_run _ _ _ _ (by omega) (by omega)]
  simp only [Option.getD_some]
  congr 1
  omega

theorem host_run (s : State) (a n : Nat) (bs : List Byte) (h : s.host = run a bs) (l : bs.length = n) : hostBytes s a n = bs := by
  unfold hostBytes hostByte
  rw [h]
  exact (run_bytes _ a 0 n bs (by omega)).trans (slice_all _ _ l)

theorem flash_run (s : State) (a o n : Nat) (bs : List Byte) (h : s.mc.flash = run a bs) (l : o + n ≤ bs.length) :
    flashBytes s (a + o) n = slice bs o n := by
  unfold flashBytes
  rw [h]
  exact run_bytes _ a o n bs l

/-- A module whose slot 3 holds the test key, with ARG0 0x1000, an ARG1, and the host’s bytes there. -/
def managed (arg1 : Nat) (bs : List Byte) : State :=
  let s := setReg (setReg (up []) unitMC 0x108 0x1000) unitMC 0x110 (BitVec.ofNat 64 arg1)
  { s with mc := { s.mc with keys := [[], [], [], keyHash], imageSvn := 6 }, host := run 0x1000 bs }

theorem managed_host (n : Nat) (bs : List Byte) : (managed n bs).host = run 0x1000 bs := rfl

/-- The premises that the statements about management commands share. -/
theorem witness_mcCommon : commandable (managed 0 []) unitMC = true ∧ call.mctp = false ∧ call.hostOk = true ∧ call.flashOk = true ∧
    getF (managed 0 []) unitMC 0x158 0 0 = 0 ∧ strongbox (managed 0 []) = false ∧ (managed 0 []).mc.session = none ∧ (managed 0 []).mc.running = none := by decide +kernel

/-- The key’s hash and the signatures: this model’s SHA-256 and PSS verification against OpenSSL’s. -/
theorem test_keyHash : sha256 (modulus ++ expo) = keyHash := by
  rw [← fastSha_eq]
  decide +kernel

theorem test_imageSigned : pssVerify modulus imageSig imageMsg = true :=
  pss_of_fast _ _ _ (by decide +kernel) (by decide +kernel)

theorem test_fuseSigned : pssVerify modulus fuseSig (authMsg fuseHead) = true :=
  pss_of_fast _ _ _ (by decide +kernel) (by decide +kernel)

theorem test_revokeSigned : pssVerify modulus revokeSig (authMsg revokeHead) = true :=
  pss_of_fast _ _ _ (by decide +kernel) (by decide +kernel)

theorem image_formed : headerFormed image = true := by
  obtain ⟨-, -, p3, -, -, p6, p7, -, p9⟩ := image_parts
  have z (n : Nat) : (zeros n).all (fun b => decide (b = 0)) = true := by simp [zeros]
  have e : ofLE expo = 65537 := by decide +kernel
  simp only [headerFormed, hdrBytes, allZero, leAt, p3, p6, p7, p9 0 2 (by omega), p9 16 4 (by omega), p9 7 1 (by omega), p9 10 6 (by omega),
    p9 20 4 (by omega), z, e]
  decide +kernel

theorem image_slot : hdrSlot image = 3 ∧ hdrSvn image = 5 ∧ hdrBytes image = 4096 ∧ hdrHash image = bodyHash := by
  obtain ⟨-, -, -, -, -, -, -, p8, p9⟩ := image_parts
  simp only [hdrSlot, hdrSvn, hdrBytes, hdrHash, leAt, p8, p9 2 1 (by omega), p9 3 1 (by omega), p9 16 4 (by omega)]
  decide +kernel

/-- With slot 3 whole and its key fused, the image’s header passes every check when the counter is at most 5. -/
theorem image_check (s : State) (h : slotIntact s 3 = true) (k : s.mc.keys = [[], [], [], keyHash]) :
    headerCheck s image = if 5 < svnFuses s then 5 else 0 := by
  obtain ⟨p1, p2, -, p4, p5, -⟩ := image_parts
  obtain ⟨q1, q2, -⟩ := image_slot
  simp [headerCheck, image_formed, h, keyMatches, p4, test_keyHash, k, p1, p2, p5, test_imageSigned, q1, q2]

/-- A header that passes every check (UpdateSessionRunsInOrder). -/
theorem witness_headerPasses : hostBytes (managed 0 image) (getReg (managed 0 image) unitMC 0x108).toNat 1024 = image ∧
    headerCheck (managed 0 image) image = 0 := by
  have a : (getReg (managed 0 image) unitMC 0x108).toNat = 0x1000 := by rfl
  have v : ¬ 5 < svnFuses (managed 0 image) := by decide +kernel
  refine ⟨?_, ?_⟩
  · rw [a]
    exact host_run _ _ _ image (managed_host 0 image) image_length
  · rw [image_check _ (by decide +kernel) rfl, if_neg v]

/-- Headers that fail the first check, the second, and the anti-rollback check. -/
theorem witness_headerFails : headerCheck (managed 0 []) (zeros 1024) = 1 ∧
    headerCheck (setF (managed 0 []) unitMC 0x130 11 8 8) image = 2 := by
  refine ⟨by decide +kernel, ?_⟩
  have h : slotIntact (setF (managed 0 []) unitMC 0x130 11 8 8) 3 = false := by decide +kernel
  simp [headerCheck, image_formed, h, image_slot.1]

theorem witness_headerRollsBack : headerCheck (setF (managed 0 []) unitMC 0x130 5 0 6) image = 5 := by
  have v : 5 < svnFuses (setF (managed 0 []) unitMC 0x130 5 0 6) := by decide +kernel
  rw [image_check _ (by decide +kernel) rfl, if_pos v]

/-- A header with an empty body. -/
def emptyImage : List Byte :=
  zeros 24 ++ beBytes 32 0xe3b0c44298fc1c149afbf4c8996fb92427ae41e4649b934ca495991b7852b855

/-- A session: a chunk in order of the longest body, a chunk out of order, an empty one, one too long, and a whole body of each
kind (UpdateSessionRunsInOrder). -/
theorem witness_updateData :
    (let x : Session := { mctp := false, header := image, got := 0 }
     let s (arg1 : Nat) (y : Session) : State := { managed arg1 [] with mc := { (managed arg1 []).mc with session := some y } }
     let a := s (4096 * 2 ^ 32) x
     (a.mc.session = some x ∧ x.mctp = false ∧ getF a unitMC 0x110 31 0 = x.got ∧ 0 < getF a unitMC 0x110 63 32 ∧
      getF a unitMC 0x110 63 32 ≤ 0x100000 ∧ x.got + getF a unitMC 0x110 63 32 ≤ hdrBytes x.header) ∧
     getF (s 1 x) unitMC 0x110 31 0 ≠ x.got ∧ getF (s 0 x) unitMC 0x110 63 32 = 0 ∧
     0x100000 < getF (s (0x100001 * 2 ^ 32) x) unitMC 0x110 63 32 ∧
     hdrBytes x.header < x.got + getF (s (4097 * 2 ^ 32) x) unitMC 0x110 63 32 ∧
     (let y : Session := { mctp := false, header := emptyImage }
      y.got = hdrBytes y.header ∧ bodyMatches (s 0 y) y.header = true) ∧
     (let y : Session := { mctp := false, header := [] }
      y.got = hdrBytes y.header ∧ bodyMatches (s 0 y) y.header = false)) := by decide +kernel

/-- A profile of one entry: index, level, locks, an entry’s address and value. -/
def profile (index level locks addr v : Nat) : List Byte :=
  fields [(1, index), (1, level), (2, locks), (4, 1), (24, 0), (4, addr), (4, 0), (8, v)]

/-- Profiles, selections, authorisations and ranges of the store (ProfilesFusesAndRecords). -/
theorem witness_profiles :
    (let b := profile 3 2 31 (pageOf unitTB + 0x150) 1
     let s := managed (48 * 2 ^ 32 + 3) b
     let r := hostBytes s (getReg s unitMC 0x108).toNat (getF s unitMC 0x110 63 32)
     getF s unitMC 0x110 63 32 ≤ 64032 ∧ (profileFormed r && leAt r 0 1 = getF s unitMC 0x110 31 0 && levelSupported s (leAt r 1 1)) = true ∧
      compactDue s = false) ∧
    64032 < getF (managed (64033 * 2 ^ 32) []) unitMC 0x110 63 32 ∧ profileFormed [] = false ∧
    getF (managed 3 []) unitMC 0x110 31 0 < 4 ∧ 4 ≤ getF (managed 4 []) unitMC 0x110 31 0 ∧ profileRecord (managed 3 []) 3 = none ∧
    (let s : State := { managed 3 [] with mc := { store0 := [⟨0x0005, 1, [3], false⟩] } }
     profileRecord s 3 = some [3]) ∧
    getF (managed 0 []) unitMC 0x110 31 0 + getF (managed 0 []) unitMC 0x110 63 32 ≤ 2 * halfBytes ∧
    2 * halfBytes < getF (managed (2 ^ 32 - 1) []) unitMC 0x110 31 0 + getF (managed (2 ^ 32 - 1) []) unitMC 0x110 63 32 := by decide +kernel

/-- A module with NONCE 7, ARG0’s bytes in host memory, and the counter at a value. -/
def fused (n : Nat) (bs : List Byte) : State := setF (setReg (managed 0 bs) unitMC 0x138 7) unitMC 0x130 5 0 n

theorem auth_holds (s : State) (op : Nat) (head sig : List Byte) (hh : head.length = 32) (hs : sig.length = 384)
    (v : pssVerify modulus sig (authMsg head) = true) (d : leAt head 0 1 = op ∧ leAt head 1 1 = 3 ∧ leAt head 8 8 = 1 ∧ leAt head 16 8 = 7)
    (e : s.serial = 1) (k : s.mc.keys = [[], [], [], keyHash]) (h : slotIntact s 3 = true) (n : (getReg s unitMC 0x138).toNat = 7) :
    authorised s op (authMsg head ++ sig) = true := by
  obtain ⟨p1, p2, p3, p4, -, p6⟩ := auth_parts head sig hh hs
  obtain ⟨d1, d2, d3, d4⟩ := d
  have f (o n : Nat) (h : o + n ≤ 32) : leAt (authMsg head ++ sig) o n = leAt head o n := by simp only [leAt, p6 o n h]
  simp [authorised, f, d1, d2, d3, d4, e, n, h, keyMatches, k, p1, p2, p3, p4, test_keyHash, v]

theorem auth_bytes (n : Nat) (head sig : List Byte) (hh : head.length = 32) (hs : sig.length = 384)
    (r : (getReg (fused n (authMsg head ++ sig)) unitMC 0x108).toNat = 0x1000) :
    hostBytes (fused n (authMsg head ++ sig)) (getReg (fused n (authMsg head ++ sig)) unitMC 0x108).toNat 896 = authMsg head ++ sig := by
  have l := (auth_parts head sig hh hs).2.2.2.2.1
  rw [r]
  exact host_run _ _ _ _ rfl l

theorem auth_arg (head sig : List Byte) (hh : head.length = 32) (hs : sig.length = 384) : leAt (authMsg head ++ sig) 24 8 = leAt head 24 8 := by
  simp only [leAt, (auth_parts head sig hh hs).2.2.2.2.2 24 8 (by omega)]

/-- An authorised FUSE_SVN that is taken, one that would not raise the counter, and a refused one (ProfilesFusesAndRecords). -/
theorem witness_fuseSvn :
    (let o := authMsg fuseHead ++ fuseSig
     (∀ n, n = 5 ∨ n = 6 → hostBytes (fused n o) (getReg (fused n o) unitMC 0x108).toNat 896 = o ∧ authorised (fused n o) 0x30 o = true) ∧
      leAt o 24 8 = 6 ∧ svnFuses (fused 5 o) = 5 ∧ (fused 5 o).mc.imageSvn = 6 ∧ svnFuses (fused 6 o) = 6) ∧
    authorised (managed 0 []) 0x30 (zeros 896) = false := by
  obtain ⟨-, -, h3, -, -, -, -, h8, -⟩ := lens
  refine ⟨⟨?_, ?_, by rfl, by rfl, by rfl⟩, by decide +kernel⟩
  · rintro n (rfl | rfl)
    · exact ⟨auth_bytes _ _ _ h8 h3 rfl, auth_holds _ _ _ _ h8 h3 test_fuseSigned (by decide +kernel) rfl rfl (by rfl) (by rfl)⟩
    · exact ⟨auth_bytes _ _ _ h8 h3 rfl, auth_holds _ _ _ _ h8 h3 test_fuseSigned (by decide +kernel) rfl rfl (by rfl) (by rfl)⟩
  · rw [auth_arg _ _ h8 h3]
    decide +kernel

/-- An authorised REVOKE_SLOT that is taken, and a refused one (ProfilesFusesAndRecords). -/
theorem witness_revokeSlot :
    (let o := authMsg revokeHead ++ revokeSig
     hostBytes (fused 5 o) (getReg (fused 5 o) unitMC 0x108).toNat 896 = o ∧ authorised (fused 5 o) 0x31 o = true ∧ leAt o 24 8 = 2 ∧
      (0 ≠ 2 ∧ (revoked (fused 5 o)).testBit 0 = false) ∧ getF (fused 5 o) unitMC 0x18 18 18 = 0) ∧
    authorised (managed 0 []) 0x31 (zeros 896) = false := by
  obtain ⟨-, -, -, h4, -, -, -, -, h9⟩ := lens
  refine ⟨⟨auth_bytes _ _ _ h9 h4 rfl, auth_holds _ _ _ _ h9 h4 test_revokeSigned (by decide +kernel) rfl rfl (by rfl) (by rfl), ?_,
    by decide +kernel, by rfl⟩, by decide +kernel⟩
  rw [auth_arg _ _ h9 h4]
  decide +kernel

/-- Locked commands, diagnostics, an undefined OP and the transports (LocksDiagnosticsAndMessages). -/
theorem witness_locks :
    (let s := setF (managed 11 []) unitMC 0x158 0 0 1
     commandable s unitMC = true ∧ getF s unitMC 0x158 0 0 = 1 ∧ getF s unitMC 0x110 31 0 < 12 ∧ present s (unitHS 11) = true ∧
      enabled s (unitHS 11) = false) ∧
    (getF (managed 47 []) unitMC 0x110 31 0 < 48 ∧ present (managed 47 []) (unitKP 47) = true ∧ enabled (managed 47 []) (unitKP 47) = false) ∧
    0xFF % 256 ∉ mcOps ∧ (up []).pw.auxUp = true ∧ getF (setF (up []) unitMC 0x18 21 21 1) unitMC 0x18 21 21 = 1 ∧ linkUp (up []) = true ∧
    0 ∈ ({ up [] with hi := { unmasked := [0] } } : State).hi.unmasked ∧
    (let s : State := { managed 0 [] with mc := { (managed 0 []).mc with running := some 1 } }
     commandable s unitMC = true ∧ s.mc.running ≠ none) := by decide +kernel

theorem witness_supplies :
    (let s := up []
     s.pw.mainOn = true ∧ s.pw.perst = true ∧ s.pw.auxUp = true ∧ s.pw.tripped = false ∧ tripCause s 111 1760 ≠ 0 ∧ tripCause s 63 1840 ≠ 0 ∧
      4299 < 4300 ∧ 5900 < 5901) := by decide +kernel

theorem witness_resets :
    (up []).pw.perst = true ∧ (up []).pw.mainOn = true ∧ bootCount (up []) < 3 ∧ (up []).mc.sbRequested = false ∧
    (let s : State := { up [] with pw := { (up []).pw with perst := false } }
     s.pw.perst = false ∧ s.pw.auxUp = true ∧ s.pw.mainOn = true ∧ bootCount s < 3 ∧ s.mc.sbRequested = false) := by decide +kernel

/-- A module at a step of its start. -/
def starting (n : Nat) : State := { up [] with mc := { (up []).mc with bootStep := n } }

/-- Steps of the start (BootReachesReady). -/
theorem witness_boot :
    State.reset.pw.auxUp = false ∧ (starting 5).mc.bootStep = 5 ∧ imageCheck { starting 5 with mc := { (starting 5).mc with flash := (List.range 1024).map fun k => (imageBase + k, 0) } } true ≠ 0 ∧
    ((starting 7).mc.bootStep = 7 ∧ present (starting 7) (unitHS 11) = true ∧ 11 ∉ (starting 7).mc.trained ∧
      trainingPasses (List.replicate 32 2) = true ∧ (starting 7).mc.looped = false) ∧
    (let b := profile 0 2 31 (pageOf unitTB + 0x150) 1
     let s : State := { up [] with mc := { bootStep := 7, looped := true, trained := List.range 12, store0 := [⟨0x0005, 1, b, false⟩] } }
     s.mc.bootStep = 7 ∧ trainingOver s = true ∧ profileRecord s (activeProfile s) = some b ∧ levelSupported s (leAt b 1 1) = true ∧
      (applyEntries 0 (profileEntries b) (setF s unitDEV 0x118 7 0 (leAt b 1 1))).2 = true) ∧
    (starting 9).mc.bootStep = 9 ∧
    (let s : State := { up [] with mc := { restartDue := true } }
     s.mc.restartDue = true ∧ bootCount s < 3 ∧ s.mc.sbRequested = false) ∧
    (5 ≤ (starting 9).mc.bootStep ∧ (starting 9).mc.bootStep < 10 ∧ bootCount (starting 9) ≠ 3 ∧
      bootCount (setF (starting 5) unitMC 0x120 17 16 3) = 3) := by decide +kernel

theorem slice_zeros (m o n : Nat) (h : o + n ≤ m) : slice (zeros m) o n = zeros n := by
  apply List.ext_getElem
  · simp [slice, zeros]
  · intro i h1 h2
    simp only [slice, List.length_map, List.length_range] at h1
    simp only [slice, zeros, List.getElem_map, List.getElem_range, List.getD_eq_getElem?_getD, List.getElem?_replicate, List.getElem_replicate]
    rw [if_pos (by omega)]
    rfl

/-- The flash with the test image: its header, and zeros up to the end of its body. -/
def imaged : State :=
  { starting 5 with mc := { (starting 5).mc with keys := [[], [], [], keyHash], flash := run imageBase (image ++ zeros 7168) } }

theorem test_bodyHash : sha256 (zeros 4096) = bodyHash := by
  rw [← fastSha_eq]
  decide +kernel

/-- An image in flash that passes every check (BootReachesReady). -/
theorem witness_imagePasses : imaged.mc.bootStep = 5 ∧ imageCheck imaged true = 0 := by
  have len : (image ++ zeros 7168).length = 8192 := by simp [image_length, zeros_length]
  have e : imageHeader imaged = image := by
    refine (flash_run _ imageBase 0 1024 _ rfl (by rw [len]; omega)).trans ?_
    rw [slice_left _ _ _ _ (by simp [image_length]), slice_all _ _ image_length]
  have b : flashBytes imaged (imageBase + 4096) 4096 = zeros 4096 := by
    refine (flash_run _ imageBase 4096 4096 _ rfl (by simp [len])).trans ?_
    rw [slice_right _ _ _ _ (by rw [image_length]; omega), image_length]
    exact slice_zeros 7168 3072 4096 (by omega)
  have v : ¬ 5 < svnFuses imaged := by decide +kernel
  obtain ⟨-, -, q3, q4⟩ := image_slot
  refine ⟨by decide +kernel, ?_⟩
  have hc : headerCheck imaged image = 0 := by rw [image_check _ (by decide +kernel) rfl, if_neg v]
  have hb : bodyMatches imaged image = true := by simp only [bodyMatches, q3, b, q4, test_bodyHash, decide_true]
  simp only [imageCheck, e, hc, hb]
  rfl

/-- Records that wait, and a store past its limit (RecordsAreAppendedAndCompacted). -/
theorem witness_recordStore :
    (let s : State := { up [] with flashDue := [⟨0x0001, [0]⟩] }
     s.pw.auxUp = true ∧ s.flashDue = ⟨0x0001, [0]⟩ :: [] ∧ compactDue s = false ∧ storeTail s + recordSize 1 ≤ halfBytes) := by decide +kernel

theorem witness_compaction : ∃ s : State, s.pw.auxUp = true ∧ compactDue s = true := by
  have h (n : Nat) (hn : storeLimit < n) : compactDue { up [] with mc := { store0 := [⟨0x0001, 1, zeros n, false⟩] } } = true := by
    simp [compactDue, storeTail, halfUsed, halfRecords, recordSize, zeros, storeLimit, roundUp] at hn ⊢
    omega
  exact ⟨_, by decide +kernel, h (2 ^ 24) (by decide)⟩

/-- Measurements and steps of the power manager (SensorsPowerAndClocks). -/
theorem witness_power :
    (let s := up [unitPW]
     let t (samples : List Nat) : State := { setF s unitPW 0x100 12 0 100 with pw := { s.pw with samples := samples, capStep := 8, floorSince := some 0, hot := [3] } }
     s.pw.auxUp = true ∧ s.pw.mainOn = true ∧ supplyMarginal 43999 = true ∧ supplyMarginal 59000 = true ∧ supplyMarginal 44000 = false ∧ sensorPresent s 113 = true ∧
      overCap (t [10001]) = true ∧ powerSum (t [9799]) < 98 * capWatts (t [9799]) ∧ (overCap (t [10000]) = false ∧ 98 * capWatts (t [10000]) ≤ powerSum (t [10000])) ∧
      3 ∈ (t []).pw.hot ∧ 0 ∉ (t []).pw.hot ∧
      ((t [10001]).pw.floorSince = some 0 ∧ (t [10001]).pw.capStep = 8 ∧ getF (t [10001]) unitPW 0x18 20 20 = 0)) := by decide +kernel

/-! ### Sync, links and frames -/

/-- A state in which a message has arrived. -/
def arrived (s : State) (m : Message) : State := { s with fab := { s.fab with inbox := [m] } }

/-- A message on a port. -/
def message (type port : Nat) (body : List Byte) : Message := { seg := { type := type, dest := 0, src := 1, body := body }, port := port, at_ := 9 }

/-- A grandmaster’s interval; a SYNC to a locked and to an unlocked follower, HOPS at the end of its range; DELAY_REQ; DELAY_RSP
(SyncMessagesKeepTime). -/
theorem witness_sync :
    (let s := setF (up [unitTB]) unitTB 0x120 1 0 1
     enabled s unitTB = true ∧ syncRole s = 1 ∧ s.tb.following = false) ∧
    (let m := message 0x12 47 (syncBody 1 254 0)
     let s (locked : Bool) : State := { arrived (setReg (setF (up [unitTB]) unitTB 0x120 1 0 2) unitTB 0x128 (BitVec.ofNat 64 (2 ^ 47))) m with
       tb := { lockedOnce := locked } }
     (∀ l, enabled (s l) unitTB = true ∧ syncRole (s l) = 2 ∧ (s l).fab.inbox = [] ++ m :: [] ∧ m.seg.type = 0x12 ∧
       bitOf (getReg (s l) unitTB 0x128) m.port = true ∧ takesFrom (s l) m = true ∧ m.port < 48 ∧ leAt m.seg.body 2 2 < 255) ∧
      (s true).tb.lockedOnce = true ∧ (s false).tb.lockedOnce = false ∧ 20 ≤ getF (s false) unitTB 0x120 15 8) ∧
    (let m := message 0x13 0 (leBytes 8 3)
     (arrived (up []) m).fab.inbox = [] ++ m :: [] ∧ m.seg.type = 0x13) ∧
    (let m := message 0x14 2 (fields [(8, 5), (8, 6), (8, 7)])
     let s : State := { arrived (up []) m with tb := { reqAt := 5, reqPort := 2 } }
     s.fab.inbox = [] ++ m :: [] ∧ m.seg.type = 0x14 ∧ leAt m.seg.body 0 8 = s.tb.reqAt ∧ m.port = s.tb.reqPort) := by decide +kernel

/-- A port in a link state. -/
def linked (p state : Nat) (x : Port) : State :=
  let s := setF (up [unitKP p]) (unitKP p) 0x18 27 24 state
  { s with fab := { s.fab with ports := [(p, x)] } }

/-- Trainings with nine and with seven passing lanes, identities that match and that do not, causes of a retraining, and its end
(LinksTrainAndRetrain). -/
theorem witness_links :
    (listens (linked 47 1 {}) 47 = true ∧ linkState (linked 47 1 {}) 47 = 1 ∧ 8 ≤ (passing (linked 47 1 {}) 47 (List.replicate 9 ⟨0, 0⟩)).length ∧
      (passing (linked 47 1 {}) 47 (List.replicate 7 ⟨0, 0⟩)).length < 8) ∧
    (listens (linked 0 3 {}) 0 = true ∧ linkState (linked 0 3 {}) 0 = 3) ∧
    (let s := linked 0 1 { trained := true }
     listens s 0 = true ∧ linkState s 0 = 1 ∧ (portOf s 0).trained = true ∧ 0 = getF s unitPD 0x100 47 32 ∧ 1 ≠ getF s unitPD 0x100 47 32 ∧
      1023 ≠ deviceId s ∧ 0 = deviceId s) ∧
    (listens (linked 0 2 {}) 0 = true ∧ linkState (linked 0 2 {}) 0 = 2 ∧ linkUp (linked 0 2 {}) = true ∧ linkState (linked 0 2 {}) 0 ∈ [2, 4, 5] ∧
      linkState (linked 0 5 {}) 0 ∈ [2, 4, 5]) ∧
    (let s := linked 0 3 { trained := true, fails := 1 }
     listens s 0 = true ∧ linkState s 0 = 3 ∧ (portOf s 0).trained = true ∧ (portOf s 0).fails < 2 ∧ 2 ≤ (portOf (linked 0 3 { fails := 2 }) 0).fails) := by
  decide +kernel

/-- A lane that can be repaired, one that cannot, windows at and beyond the limit, and a repair (LanesAreSparedInService). -/
theorem witness_lanes :
    (let s := setF (setF (linked 0 2 {}) (unitKP 0) 0x18 22 22 1) (unitKP 0) 0x118 35 32 8
     listens s 0 = true ∧ linkState s 0 = 2 ∧ (portOf s 0).repair = none ∧ canRepair s 0 = true ∧
      canRepair (setF s (unitKP 0) 0x18 22 22 0) 0 = false ∧ getF s (unitKP 0) 0x100 23 8 < getF s (unitKP 0) 0x100 23 8 + 1 ∧
      spareLane s 0 = 8 ∧ getF s (unitKP 0) 0x18 23 23 = 0) ∧
    (portOf (linked 0 2 { repair := some 7 }) 0).repair = some 7 ∧ linkState (linked 0 2 { repair := some 7 }) 0 = 2 ∧
      listens (linked 0 2 { repair := some 7 }) 0 = true := by decide +kernel

/-- A frame whose header above the CRC is given, with its CRC or with another. -/
def framed (hb extra : Nat) : Frame := ⟨hb * 2 ^ 32 + (Config.frameCrc hb (zeros 5120) + extra) % 2 ^ 32, zeros 5120, 0, []⟩

theorem framed_good (hb : Nat) : frameGood (framed hb 0) = true := by
  have h : (hb * 2 ^ 32 + Config.frameCrc hb (zeros 5120) % 2 ^ 32) / 2 ^ 32 = hb := by omega
  have h2 : (hb * 2 ^ 32 + Config.frameCrc hb (zeros 5120) % 2 ^ 32) % 2 ^ 32 = Config.frameCrc hb (zeros 5120) % 2 ^ 32 := by omega
  simp only [frameGood, framed, Nat.add_zero, h, h2]
  simp

theorem framed_bad (hb : Nat) : frameGood (framed hb 1) = false := by
  have h : (hb * 2 ^ 32 + (Config.frameCrc hb (zeros 5120) + 1) % 2 ^ 32) / 2 ^ 32 = hb := by omega
  have h2 : (hb * 2 ^ 32 + (Config.frameCrc hb (zeros 5120) + 1) % 2 ^ 32) % 2 ^ 32 = (Config.frameCrc hb (zeros 5120) + 1) % 2 ^ 32 := by omega
  simp only [frameGood, framed, h, h2]
  simp
  omega

/-- Good data frames with the expected and with another FSEQ at the end of its range, a frame with a bad CRC, and a good idle frame
(FramesAreAcceptedInOrder). -/
theorem witness_frames2 : carries (linked 47 2 { expected := 65535 }) 47 = true ∧ (portOf (linked 47 2 { expected := 65535 }) 47).expected = 65535 ∧
    (frameGood (framed (65535 * 2 ^ 80) 0) = true ∧ fhKind (framed (65535 * 2 ^ 80) 0).header = 0 ∧ fhSeq (framed (65535 * 2 ^ 80) 0).header = 65535) ∧
    (fhSeq (framed 0 0).header = 0 ∧ fhKind (framed 0 0).header = 0) ∧ ((framed 0 1).bad = [] ∧ frameGood (framed 0 1) = false) ∧
    (portOf (linked 47 2 { expected := 65535 }) 47).nakAt = none ∧
    (frameGood (framed (2 ^ 60) 0) = true ∧ fhKind (framed (2 ^ 60) 0).header = 1) := by
  refine ⟨by decide +kernel, by decide +kernel, ⟨framed_good _, ?_, ?_⟩, ⟨?_, ?_⟩, ⟨rfl, framed_bad _⟩, by decide +kernel, ⟨framed_good _, ?_⟩⟩ <;>
    simp only [fhKind, fhSeq, natField, framed] <;> omega

/-! ### The ledgers -/

/-- A MARK task’s descriptor. -/
def markDesc (id : Nat) : List Byte := desc [(0, 4, id), (4, 1, 9), (11, 1, 0xFF), (32, 1, 5)]

/-- A state whose ring 255 offers a descriptor. -/
def offering (us : List UnitId) (d : List Byte) : State :=
  let s := ready us [(255, { state := 1, fetched := [d] })]
  { s with led := { s.led with ctxs := [(0, some {})] } }

/-- Descriptors that are held, refused, and admitted; a TABLE_SWITCH and a CTX_SET that pass their checks
(AdmissionTakesRefusesOrHolds). -/
theorem witness_admission :
    (let s := offering [unitLG 0] (markDesc 7)
     (ringOf s 255).fetched = markDesc 7 :: [] ∧ (ringOf s 255).state = 1 ∧ usable s (unitLG (dQuarter (markDesc 7))) = true ∧ openEpoch s = 0 ∧
      phase s = 0 ∧ s.esc.startWanted = false ∧ (∀ x ∈ s.led.tasks, x.seq ≠ s.led.nextSeq) ∧ s.led.nextSeq < 2 ^ 48 ∧
      holdCode s (markDesc 7) = 0 ∧ refusal s 255 (markDesc 7) = none) ∧
    (let s := offering [unitLG 0] (markDesc 0)
     holdCode s (markDesc 0) = 0 ∧ refusal s 255 (markDesc 0) = some 0xF4) ∧
    (let s : State := offering [unitLG 0] (markDesc 7)
     holdCode { s with led := { s.led with ctxs := [(0, some { quota := 0 })] } } (markDesc 7) = 2) ∧
    (let d := desc [(0, 4, 7), (4, 1, 2), (11, 1, 0xFF), (32, 1, 0x10), (33, 1, 1), (34, 1, 1), (36, 2, 1023), (38, 2, 1), (40, 4, 1), (44, 4, 64), (48, 8, 64)]
     let s := offering [unitLG 0, unitGE 0] d
     (ringOf s 255).fetched = d :: [] ∧ usable s (unitLG (dQuarter d)) = true ∧ dTableSwitch d = true ∧ holdCode s d = 0 ∧ refusal s 255 d = none ∧
      switchRefusal s d = none) ∧
    (let d := desc [(0, 4, 7), (4, 1, 9), (11, 1, 0xFF), (32, 1, 4), (36, 2, 4095), (38, 2, 1)]
     let s := offering [unitLG 0] d
     dTableSwitch d = false ∧ dLedgerClass d = true ∧ dOp d = 4 ∧ (leAt d 33 1).testBit 0 = false ∧ holdCode s d = 0 ∧ refusal s 255 d = none) := by
  decide +kernel

/-- A state with two tasks: the first has ended or not, the second has an edge to it. -/
def pair (e : Option Verdict) (d : List Byte) (pol : Bool) (anyEdge : Bool := true) : State :=
  let a : Task := { seq := 1, ring := 0, tAdmit := 0, desc := markDesc 7, desc0 := markDesc 7, ending := e.map fun v => { verdict := v }, released := e.isSome,
                    place := if e.isSome then .ended else .waiting }
  let b : Task := { seq := 2, ring := 0, tAdmit := 0, desc := d, desc0 := d, edges := if anyEdge then [⟨pol, 1⟩] else [] }
  let s := up [unitLG 0, unitCC 0]
  { s with led := { s.led with tasks := [a, b], nextSeq := 3 } }

theorem witness_markAndJoin :
    (let s := pair (some .ok) (markDesc 8) false
     (ledgerTask s 2 5).isSome = true ∧ (ledgerTask s 2 5).map (anyUnsat s) = some false ∧ (ledgerTask s 2 5).map (allSat s) = some true) ∧
    (let s := pair (some .failed) (markDesc 8) false
     (ledgerTask s 2 5).map (anyUnsat s) = some true) ∧
    (let d (any : Nat) := desc [(0, 4, 8), (4, 1, 9), (11, 1, 0xFF), (32, 1, 1), (33, 1, any)]
     (let s := pair (some .ok) (d 0) false
      (ledgerTask s 2 1).map joinAny = some false ∧ (ledgerTask s 2 1).map (anyUnsat s) = some false ∧ (ledgerTask s 2 1).map (allSat s) = some true) ∧
     (let s := pair (some .failed) (d 0) false
      (ledgerTask s 2 1).map joinAny = some false ∧ (ledgerTask s 2 1).map (anyUnsat s) = some true) ∧
     (let s := pair (some .ok) (d 1) false
      (ledgerTask s 2 1).map joinAny = some true ∧ (ledgerTask s 2 1).map (allDecided s) = some true ∧
       (ledgerTask s 2 1).map (fun x => x.edges.any fun e => edgeState s x e = .satisfied) = some true) ∧
     (let s := pair (some .failed) (d 1) false
      (ledgerTask s 2 1).map joinAny = some true ∧ (ledgerTask s 2 1).map (allDecided s) = some true ∧
       (ledgerTask s 2 1).map (fun x => x.edges.any fun e => edgeState s x e = .satisfied) = some false) ∧
     (let s := pair none (d 1) false
      (ledgerTask s 2 1).map joinAny = some true ∧ (ledgerTask s 2 1).map (allDecided s) = some false)) := by decide +kernel

/-- COND over a tally with a value and over a source with none, and RETRY in each of its three ways (LedgerTasksEnd). -/
theorem witness_condAndRetry :
    (let d (source : Nat) := desc [(0, 4, 8), (4, 1, 9), (10, 1, 1), (11, 1, 0xFF), (12, 4, 7), (32, 1, 2), (33, 1, source), (34, 1, 0), (35, 1, 2), (38, 2, 1), (40, 8, 0)]
     let s (source : Nat) := pair (some .ok) (d source) false
     (ledgerTask (s 0) 2 2).isSome = true ∧ (ledgerTask (s 0) 2 2).map (anyUnsat (s 0)) = some false ∧ (ledgerTask (s 0) 2 2).map (allSat (s 0)) = some true ∧
      mayEvaluate (s 0) 0 (unitCC 0) = true ∧ (ledgerTask (s 0) 2 2).map (fun x => (condValue (s 0) x).isSome) = some false ∧
      (ledgerTask (s 3) 2 2).map (fun x => (condValue (s 3) x).isSome) = some true) ∧
    (let d := desc [(0, 4, 8), (4, 1, 9), (11, 1, 0xFF), (32, 1, 3), (34, 1, 1), (38, 2, 1), (40, 4, 0), (48, 2, 65535)]
     let work := desc [(0, 4, 7), (4, 1, 6), (11, 1, 0xFF), (32, 1, 1), (34, 1, 7), (35, 1, 32)]
     let t (n : Nat) : Task := { seq := 2, ring := 0, tAdmit := 0, desc := d, desc0 := d, attempt := n }
     let y : Task := { seq := 1, ring := 0, tAdmit := 0, desc := work, desc0 := work, scope := some 2, ending := some { verdict := .ok }, place := .ended }
     let s (n w1 : Nat) : State := { up [unitLG 0, unitCC 0] with led := { tasks := [y, t n], nextSeq := 3 }, tally := { live := [(65535, { w1 := w1, w2 := 1, w3 := 2 })] } }
     (∀ n w, n ≤ 2 → w ≤ 1 → ledgerTask (s n w) 2 3 = some (t n)) ∧ (t 0).edges = [] ∧
      (∀ z ∈ scopeOf (s 0 0) 2, z.ending.isSome = true ∧ z.seq ≠ 2) ∧ mayEvaluate (s 0 0) (quarterOf (t 0)) (unitCC 0) = true ∧
      (∀ m ∈ (retrySlots d).map (metricOf (s 0 0) (leAt d 33 1 = 1)), exceeds m (numOf32 (leAt d 40 4)) = false) ∧
      (∀ m ∈ (retrySlots d).map (metricOf (s 0 1) (leAt d 33 1 = 1)), exceeds m (numOf32 (leAt d 40 4)) = true) ∧ retrySlots d = [65535] ∧
      scopeCodes (scopeOf (s 1 1) 2) ≠ [] ∧ (t 1).attempt < 2 ∧ (∀ c ∈ scopeCodes (scopeOf (s 1 1) 2), widerFmt c ≠ none) ∧ 2 ≤ (t 2).attempt) ∧
    (7 < 8 ∧ usable (up [unitCC 7]) (unitCC 7) = true) := by
  refine ⟨by decide +kernel, ⟨?_, by decide +kernel⟩, by decide +kernel⟩
  intro n w hn hw
  rcases n with _ | _ | _ | n <;> rcases w with _ | _ | w <;> first | omega | rfl

theorem witness_delays :
    (up []).tb.time < 2 ^ 64 ∧ 2 ^ 64 - 2 ^ 20 < 2 ^ 64 ∧ (2 ^ 64 - 2 ^ 20) % max 1 (tickOf (setF (up []) (unitLG 3) 0x120 19 0 (2 ^ 19)) 3 3) = 0 ∧
    (let d := desc [(0, 4, 8), (4, 1, 9), (5, 1, 32), (11, 1, 0xFF), (20, 4, 1), (32, 1, 5)]
     let x : Task := { seq := 1, ring := 0, tAdmit := 0, desc := d, desc0 := d }
     let s : State := { up [] with led := { tasks := [x] } }
     taskOf s 1 = some x ∧ x.ending = none ∧ deadlineAt x = some 1000 ∧ contained s = false) ∧
    (let v : TblVersion := ⟨65535, 64, 1, 64, 1, none, 0, 255, 3⟩
     let s : State := { up [] with led := { tables := [(1023, { draining := [v] })] } }
     contained s = false ∧ (tblEntry s 1023).draining.find? (fun y => y.version = 65535 && y.refs = 0) = some v) := by decide +kernel

theorem witness_dispatch :
    (let d := desc [(0, 4, 8), (4, 1, 6), (6, 2, 3 * 2 ^ 12), (11, 1, 0xFF), (32, 1, 1)]
     let x : Task := { seq := 1, ring := 0, tAdmit := 0, desc := d, desc0 := d, place := .ready 0, logged := true }
     let s : State := { up [unitLG 3, unitQC 7] with led := { tasks := [x] } }
     contained s = false ∧ usable s (unitLG 3) = true ∧ leastBy dispatchKey (dispatchable s 3) = some x ∧ chooseEngine s x = some (unitQC 7)) ∧
    (let d := desc [(0, 4, 8), (4, 1, 6), (11, 1, 0xFF), (32, 1, 1)]
     let e : Ending := { verdict := .failed, status := 6 }
     let s0 := front (up [unitQC 0, unitLG 0]) (unitQC 0) d
     let s := setEng s0 (unitQC 0) { engOf s0 (unitQC 0) with done := some e }
     (engOf s (unitQC 0)).done = some e ∧ runningTask s (unitQC 0) = some (task (unitQC 0) d) ∧ contained s = false ∧
      (engOf s (unitQC 0)).markerDue = false ∧ bufferFull s (quarterOf (task (unitQC 0) d)) = false ∧ s.rem.writes = [] ∧
      roundPending s (unitQC 0) = false ∧ s.esc.startWanted = false) := by decide +kernel

/-! ### Epochs and recovery -/

/-- A root of a domain of one device, in a phase with an epoch open. -/
def root (us : List UnitId) (ph ep : Nat) : State :=
  setF (setF (setF (setF (up (unitEX :: us)) unitEX 0x128 63 63 1) unitEX 0x128 42 32 1) unitEX 0x18 23 20 ph) unitEX 0x118 47 0 ep

/-- A token from a device. -/
def token (ph ep count from_ reason : Nat) : Message :=
  { seg := { type := 0x10, dest := 0, src := from_, body := fields [(6, ep), (1, ph), (1, 0), (2, count), (2, from_), (2, reason)] }, port := 0, at_ := 0 }

theorem witness_epochs :
    (let s := setF (root [unitCO 3] 0 0) unitEX 0x108 47 0 1
     commandable s unitEX = true ∧ phase s = 0 ∧ enabled s unitEX = true ∧ 1 ≤ epochBase s ∧ (3 < 4 ∧ usable s (unitCO 3) = true) ∧ treeRoot s = true ∧
      children s = [] ∧ domainSize s = 1 ∧ (∀ x ∈ s.led.tasks, x.ending.isSome = true ∧ x.released = true) ∧
      (∀ n, n < 4 → usable (root [] 0 0) (unitCO n) = false)) ∧
    (let s := root [] 1 1
     phase s = 1 ∧ closeAt s < 2 ^ 64 ∧ commandable s unitEX = true ∧ treeRoot s = true ∧ s.esc.requestSent = false) ∧
    (let s0 := setF (setF (setF (up [unitEX]) unitEX 0x108 47 0 1) unitEX 0x128 63 63 0) unitEX 0x128 9 0 1023
     let s : State := { arrived s0 (token 4 1 0 1023 0) with esc := { startSent := true } }
     (takeToken s 4).map (fun r => (r.1, fromParent s r.1)) = some (⟨1, 4, 0, 1023, 0, 1023⟩, true) ∧ phase s = 0 ∧ s.esc.startSent = true ∧
      1 ≤ epochBase s) := by decide +kernel

theorem witness_commits :
    (let s := root [] 2 (2 ^ 48 - 2)
     0 < openEpoch s ∧ openEpoch s + 1 < 2 ^ 48 ∧ phase s = 2 ∧ epochEnded s = true ∧ s.vb = [] ∧ s.rem.writes = [] ∧ s.rem.rounds = [] ∧
      treeRoot s = true ∧ children s = [] ∧ domainSize s = 1 ∧ s.esc.faulted = false) ∧
    (let s0 := setF (setF (setF (setF (up [unitEX]) unitEX 0x118 47 0 1) unitEX 0x128 63 63 0) unitEX 0x128 9 0 1023) unitEX 0x18 23 20 1
     (let s := arrived s0 (token 2 1 0 1023 0)
      (takeToken s 2).map (fun r => (r.1.count, r.1.epoch, fromParent s r.1)) = some (0, 1, true) ∧ contained s = false ∧ s.esc.abortEpoch = 0) ∧
     (let s := arrived s0 (token 1 1 0 1023 0)
      (takeToken s 1).map (fun r => (r.1.count, r.1.epoch, fromParent s r.1)) = some (0, 1, true) ∧ phase s = 1) ∧
     (let s := arrived (setReg s0 unitEX 0x278 (BitVec.ofNat 64 (2 ^ 63 + 5))) (token 1 1 65535 5 0)
      (takeToken s 1).map (fun r => (r.1.count, r.1.epoch, fromChild s r.1)) = some (65535, 1, true) ∧ s.esc.drained = false)) := by decide +kernel

theorem witness_faults :
    (let f : FaultReport := ⟨unitMA 47, 0x7F, none⟩
     let s (ph ep : Nat) : State := { root [] ph ep with esc := { pendingFaults := [f] } }
     isUnit (unitMA 47) = true ∧ (s 0 0).esc.pendingFaults.find? (fun x => x.unit = unitMA 47 && x.kind = 0x7F) = some f ∧ f.device = none ∧
      (s 0 0).esc.faulted = false ∧ phase (s 0 0) ≠ 5 ∧ phase (s 0 0) = 0 ∧ openEpoch (s 0 0) = 0 ∧
      (0 < openEpoch (s 3 1) ∧ phase (s 3 1) < 4 ∧ treeRoot (s 3 1) = true ∧ (s 3 1).esc.abortEpoch = 0 ∧ getF (s 3 1) unitEX 0x148 47 0 < openEpoch (s 3 1))) ∧
    (let s0 := setF (setF (setF (setF (up [unitEX]) unitEX 0x118 47 0 1) unitEX 0x128 63 63 0) unitEX 0x128 9 0 1023) unitEX 0x18 23 20 1
     let s := arrived s0 (token 3 1 0 1023 0x7F)
     (takeToken s 3).map (fun r => (r.1.count, r.1.epoch, fromParent s r.1, fromChild s r.1, beyondGuarantee r.1.reason)) = some (0, 1, true, false, false) ∧
      phase s ≠ 5 ∧ committed s < 1 ∧ 1 ≠ getF s unitEX 0x148 47 0) ∧
    (let s : State := { root [] 4 1 with esc := { abortEpoch := 1 } }
     phase s = 4 ∧ treeRoot s = true ∧ s.esc.abortEpoch ≠ 0) := by decide +kernel

theorem witness_recovery :
    (let s : State := { root [] 4 1 with esc := { abortEpoch := 1 } }
     phase s = 4 ∧ s.esc.abortEpoch ≠ 0 ∧ s.esc.fabricDone = false ∧ retryEmpty s = true) ∧
    (let s : State := { root [] 4 1 with esc := { abortEpoch := 1, fabricDone := true, suspects := [unitMA 0, unitLG 0] } }
     phase s = 4 ∧ s.esc.fabricDone = true ∧ s.esc.restoredQ = [] ∧ s.tally.clearing = false ∧ s.esc.diagDone = false ∧ s.esc.restoredQ.length ≠ 4 ∧
      (∀ u ∈ s.esc.suspects, (neverRetired u && [unitMA 0].contains u) = false) ∧ unitMA 0 ∈ s.esc.suspects ∧ retirable (unitMA 0) = true) := by
  decide +kernel

/-! ### Memory -/

/-- A request of an engine. -/
def reads (a n : Nat) : MemReq := ⟨unitMA 0, 0, a, n, false, []⟩
def writes (a : Nat) (bs : List Byte) : MemReq := ⟨unitMA 0, 0, a, 0, true, bs⟩

/-- The last sector of a stack, and the ends of a row’s and a page’s spares (StacksServeSectors). -/
theorem witness_stacks :
    (let s := up [unitHS 11]
     let off := 79999999936
     stackNames s 11 off = true ∧ stackNames s 11 (off + 63) = true ∧ escrowOwn s (stackAddr 11 off) = false ∧
      bankFor s 11 (stackAddr 11 off / 64 * 64) = none ∧ capWaits s (reads (stackAddr 11 off) 64) = false ∧
      capWaits s (writes (stackAddr 11 off) (zeros 64)) = false ∧ off % 64 + 64 ≤ 64 ∧ openEpoch s = 0 ∧ pageBase off ∉ (stackOf s 11).offline ∧
      wholeSector off 64 = true ∧ stackNames s 11 ((off + 63) / 64 * 64) = true) ∧
    (let r : RowId := ⟨0, 0⟩
     let s (used : Nat) (moved : List Nat) : State := { up [unitHS 0] with hs := [(0, { triggers := [r], spareRows := [(0, used)], movedPages := moved })] }
     (stackOf (s 7 []) 0).triggers = r :: [] ∧ stackServes (s 7 []) 0 = true ∧ tblGet (fun _ => 0) (stackOf (s 7 []) 0).spareRows 0 < 8 ∧
      8 ≤ tblGet (fun _ => 0) (stackOf (s 8 []) 0).spareRows 0 ∧ (stackOf (s 8 (List.replicate 8191 0)) 0).movedPages.length < 8192 ∧
      8192 ≤ (stackOf (s 8 (List.replicate 8192 0)) 0).movedPages.length) := by decide +kernel

/-- A state with banks in scratchpad mode. -/
def pad (us : List UnitId) : State := up (unitVB 0 :: us)

theorem witness_banks :
    (let s := up [unitVB 15]
     bankServes s 15 = true ∧ bankBytes - 64 < bankBytes ∧ (bankBytes - 64) % 64 + 64 ≤ 64) ∧
    (let s := front (up [unitVB 15, unitMA 0]) (unitMA 0) (desc [])
     let x := task (unitMA 0) (desc [])
     taskOf s 1 = some x ∧ x.place = .till (unitMA 0) 0 ∧ (engOf s (unitMA 0)).tills.head? = some 1 ∧ (bankBytes - 8) % 4 = 0 ∧
      bankBytes - 8 + 4 * [2 ^ 32 - 1, 0x3F800000].length ≤ bankBytes ∧ bankServes s 15 = true ∧ ∀ v ∈ [2 ^ 32 - 1, 0x3F800000], v < 2 ^ 32) := by decide +kernel

/-- A state whose bank 0, the only one in cache mode of quarter 0, caches the lines of its stacks. -/
def caching : State := setF (up [unitVB 0, unitHS 0]) (unitVB 0) 0x100 1 0 1

theorem caching_banks : cacheBanks caching 0 = [0] ∧ enabled caching (unitVB 0) = true ∧ retired caching (unitVB 0) = false := by decide +kernel

/-- Whatever a line’s hash is, the one bank serves it. -/
theorem caching_serves (sector : Nat) : bankFor caching 0 sector = some 0 := by
  have h := caching_banks
  simp [bankFor, pickBank, h, Nat.mod_one]

theorem witness_cache :
    (let s := caching
     stackNames s 0 64 = true ∧ (reads (stackAddr 0 64) 64).addr = stackAddr 0 64 ∧ escrowOwn s (stackAddr 0 64) = false ∧
      bankFor s 0 (stackAddr 0 64 / 64 * 64) = some 0 ∧ 64 % 64 + 64 ≤ 64 ∧ (bankOf s 0).buf.length < 64 ∧ bankFor s 0 (stackAddr 0 64) = some 0 ∧
      (∀ l ∈ (bankOf s 0).lines, l.addr ≠ stackAddr 0 64 ∧ l.addr ≠ 0) ∧ (bankOf s 0).lines.length < bankLines) := by
  refine ⟨by decide +kernel, rfl, by decide +kernel, caching_serves _, by decide, by decide +kernel, caching_serves _, ?_, by decide +kernel⟩
  intro l h
  have e : (bankOf caching 0).lines = [] := by rfl
  rw [e] at h
  exact absurd h List.not_mem_nil

theorem witness_drain :
    (let e : MergeEntry := ⟨stackAddr 0 64, zeros 64, 2 ^ 63 + 1⟩
     let s : State := { caching with vb := [(0, { buf := [e] })] }
     (bankOf s 0).buf = e :: [] ∧ openEpoch s = 0 ∧ pageBase (natField e.sector 36 0) ∉ (stackOf s (natField e.sector 40 37)).offline) := by decide +kernel

/-! ### Matrix tasks -/

/-- Addresses in bank 0. -/
def at0 (off : Nat) : Nat := vaultAddr 0 off

/-- A 1 by 1 by 1 product of INT8 to FP32 (destination 0 memory, 2 the vector engine), its rows in bank 0. -/
def maDesc (dest : Nat) : List Byte :=
  desc [(0, 4, 8), (4, 1, 1), (11, 1, 0), (32, 1, 1), (33, 1, 8), (34, 1, 8), (36, 1, 4 * dest), (37, 1, 1), (40, 4, 1), (44, 4, 1), (48, 4, 64),
    (52, 4, 64), (60, 4, 64), (64, 8, at0 0), (80, 8, at0 64), (104, 8, at0 128)]

/-- An array with that task and a state of its row tile. -/
def maState (dest : Nat) (r : MaRun) : State :=
  working (front (pad [unitMA 0, unitMA 1]) (unitMA 0) (maDesc dest)) (unitMA 0) (.ma r)

/-- The state a run of a tile starts from. -/
def maStart (s : State) : State := { startFront s (unitMA 0) with rem := { s.rem with wait := false, full := none } }

/-- A tile that gives cells, a PIN task, a tile that passes to the vector engine and one that drains to memory, a tile handed over
at each level, and an end marker (MatrixTasks). -/
theorem witness_matmul :
    (let s : State := { maState 0 {} with mem := [(at0 0, 3), (at0 64, 0xFE)] }
     let x := task (unitMA 0) (maDesc 0)
     frontTask s (unitMA 0) 1 = some x ∧ (engOf s (unitMA 0)).work = .ma {} ∧ (engOf s (unitMA 0)).takeovers = [] ∧ cellsTaken s 0 = false ∧
      (runTile (maStart s) 0 0 x).2 = .cells [[.ofInt (-6) 0]] ∧ (runTile (maStart s) 0 0 x).1.rem.wait = false) := by decide +kernel

/-- A tile whose A operand, in an MX format, has a block with two different tags. -/
theorem witness_slip :
    (let d := splice (splice (maDesc 0) 33 [0x12]) 72 (leBytes 8 (at0 256))
     let s : State := { working (front (pad [unitMA 0]) (unitMA 0) d) (unitMA 0) (.ma {}) with
       mem := cells (at0 256) (fields [(8, at0 320), (8, at0 384), (8, at0 448), (4, 64)]) ++ [(at0 384, 1), (at0 448, 2)] }
     frontTask s (unitMA 0) 1 = some (task (unitMA 0) d) ∧ (runTile (maStart s) 0 0 (task (unitMA 0) d)).2 = .slip 0 0 1 2 ∧
      (runTile (maStart s) 0 0 (task (unitMA 0) d)).1.rem.wait = false) := by decide +kernel

theorem witness_pin :
    (let d := desc [(0, 4, 8), (4, 1, 1), (11, 1, 0), (32, 1, 2), (40, 4, 0x180000), (80, 8, at0 64), (104, 8, 0)]
     let s := front (pad [unitMA 0]) (unitMA 0) d
     frontTask s (unitMA 0) 2 = some (task (unitMA 0) d) ∧ chooseFault (pinFaults (unitMA 0) d) = none ∧
      inScratchpad s (leAt d 80 8) (leAt d 40 4) = true) := by decide +kernel

theorem witness_tileCheck :
    (let s := maState 2 { phase := .ran, cells := [[.zero]] }
     frontTask s (unitMA 0) 1 = some (task (unitMA 0) (maDesc 2)) ∧ (maRunOf s 0).phase = .ran ∧ maDest (maDesc 2) = 2 ∧ [129] ≠ ([] : List Nat)) ∧
    (let s := maState 0 { phase := .ran, cells := [[.zero]] }
     frontTask s (unitMA 0) 1 = some (task (unitMA 0) (maDesc 0)) ∧ (maRunOf s 0).phase = .ran ∧ maDest (maDesc 0) = 0 ∧ bankServes s 0 = true ∧
      leAt (maDesc 0) 104 8 + 128 * (maRunOf s 0).tile * leAt (maDesc 0) 60 4 = vaultAddr 0 128 ∧
      128 + (maRunOf s 0).cells.length * leAt (maDesc 0) 60 4 ≤ bankBytes ∧ (∀ row ∈ (maRunOf s 0).cells, row.length = maN (maDesc 0)) ∧
      maN (maDesc 0) * maOutBytes (maDesc 0) ≤ leAt (maDesc 0) 60 4) := by decide +kernel

theorem witness_handoff :
    (let s := maState 2 { phase := .passed, cells := [[.zero]], byArray := some 0 }
     let y (n : Nat) : Tile := { task := 1, number := n, count := 2, vals := [] }
     frontTask s (unitMA 0) 1 = some (task (unitMA 0) (maDesc 2)) ∧ (maRunOf s 0).phase = .passed ∧ behaviourLevel s ≠ 2 ∧
      behaviourLevel (setF s unitDEV 0x118 7 0 2) = 2 ∧
      ((tilesOf { s with vq := [(0, [y 0])] } 0).filter fun z => z.marker.isNone).length < 2 ∧
      2 ≤ ((tilesOf { s with vq := [(0, [y 0, y 1])] } 0).filter fun z => z.marker.isNone).length) := by decide +kernel

theorem witness_marker :
    (let e : Ending := { verdict := .failed, status := 1 }
     let s0 := front (pad [unitMA 47]) (unitMA 47) (maDesc 2)
     let s := setEng s0 (unitMA 47) { engOf s0 (unitMA 47) with markerDue := true, done := some e }
     (engOf s (unitMA 47)).markerDue = true ∧ (engOf s (unitMA 47)).done = some e ∧ runningTask s (unitMA 47) = some (task (unitMA 47) (maDesc 2)) ∧
      frontTask s (unitVE (47 / 2)) 1 = none) := by decide +kernel

/-- The second run of a tile, without and with a mismatch, and a partner’s run (MatrixResidues). -/
theorem witness_residue :
    (let s : State := { maState 2 { phase := .again, bad := [0] } with mem := [(at0 0, 3), (at0 64, 5)] }
     let x := task (unitMA 0) (maDesc 2)
     let r := runTile (maStart s) 0 0 x
     frontTask s (unitMA 0) 1 = some x ∧ (maRunOf s 0).phase = .again ∧ r.2 = .cells [[.ofInt 15 0]] ∧ r.1.rem.wait = false ∧ maDest x.desc = 2 ∧
      (engOf r.1 (unitMA 0)).transients + 1 < getF r.1 (unitMA 0) 0x110 7 0 ∧ choosePartner r.1 0 x (maRunOf r.1 0) = some 1) := by decide +kernel

theorem witness_partner :
    (let s : State := { maState 2 { phase := .paused, bad := [129], partner := some 1 } with mem := [(at0 0, 3), (at0 64, 5)] }
     let x := task (unitMA 0) (maDesc 2)
     let r := runTile { s with rem := { s.rem with wait := false, full := none } } 0 1 x
     frontTask s (unitMA 0) 1 = some x ∧ (maRunOf s 0).phase = .paused ∧ (maRunOf s 0).partner = some 1 ∧ maDest x.desc = 2 ∧
      (maRunOf s 0).limited = false ∧ (maRunOf s 1).phase = .fresh ∧ (∀ m ∈ quarterArrays 1, (maRunOf s m).byArray ≠ some 1) ∧
      r.2 = .cells [[.ofInt 15 0]] ∧ r.1.rem.wait = false ∧ (maRunOf s 0).bad ≠ [] ∧
      (maRunOf s 0).bad.length + (sparedColumns r.1 0).length ≤ 2) := by decide +kernel

/-! ### Codec tasks -/

/-- A codec task of 128 rows (or 2) of 4 BF16 elements in bank 0, to INT8. -/
def qcDesc (op rows : Nat) (more : List (Nat × Nat × Nat)) : List Byte :=
  desc ([(0, 4, 8), (4, 1, 6), (11, 1, 0xFF), (32, 1, op), (33, 1, 1), (34, 1, 8), (40, 4, rows), (44, 4, 4), (48, 4, 64), (52, 4, 64),
    (56, 8, at0 0), (72, 8, at0 0x4000), (96, 4, 0x3F800000)] ++ more)

def qcState (d : List Byte) : State := front (pad [unitQC 7]) (unitQC 7) d

theorem witness_convert :
    (let d := qcDesc 0x01 2 []
     let s := qcState d
     let s0 : State := { startFront s (unitQC 7) with rem := { s.rem with wait := false, full := none } }
     frontTask s (unitQC 7) 0x01 = some (task (unitQC 7) d) ∧ chooseFault (qcFaults 0x01 d) = none ∧ isMx (qcSrc d) = false ∧ isMx (qcDst d) = false ∧
      qcFlag d 2 = false ∧ qcFlag d 4 = false ∧ qcFlag d 6 = false ∧ qcRot d = 0 ∧ inScratchpad s (leAt d 56 8) (qcRows d * leAt d 48 4) = true ∧
      inScratchpad s (leAt d 72 8) (qcRows d * leAt d 52 4) = true ∧ (readSource s0 (unitQC 7) (task (unitQC 7) d)).2.slip = none ∧
      (convertRun (unitQC 7) (task (unitQC 7) d) s0).rem.wait = false) := by decide +kernel

/-- A source in an MX format with a slip (CodecTasks). -/
theorem witness_convertSlip :
    (let d := qcDesc 0x01 2 [(33, 1, 0x12), (34, 1, 1), (64, 8, at0 0x8000)]
     let s : State := { qcState d with mem := [(at0 0x8000 + 64, 5)] }
     let s0 : State := { startFront s (unitQC 7) with rem := { s.rem with wait := false, full := none } }
     let r := (readSource s0 (unitQC 7) (task (unitQC 7) d)).2.slip
     frontTask s (unitQC 7) 0x01 = some (task (unitQC 7) d) ∧ chooseFault (qcFaults 0x01 d) = none ∧ r.isSome = true ∧
      (convertRun (unitQC 7) (task (unitQC 7) d) s0).rem.wait = false) := by decide +kernel

theorem witness_prune :
    (let d := qcDesc 0x10 2 [(112, 8, at0 0x8000), (120, 4, 64)]
     let s := qcState d
     let s0 : State := { startFront s (unitQC 7) with rem := { s.rem with wait := false, full := none } }
     frontTask s (unitQC 7) 0x10 = some (task (unitQC 7) d) ∧ chooseFault (qcFaults 0x10 d ++ unitFault s (unitQC 7) 0x10) = none ∧
      isMx (qcSrc d) = false ∧ isMx (qcDst d) = false ∧ qcFlag d 2 = false ∧ qcFlag d 4 = false ∧ qcFlag d 6 = false ∧ qcRot d = 0 ∧
      inScratchpad s (leAt d 56 8) (qcRows d * leAt d 48 4) = true ∧ inScratchpad s (leAt d 72 8) (qcRows d * leAt d 52 4) = true ∧
      inScratchpad s (leAt d 112 8) (qcRows d * leAt d 120 4) = true ∧ leAt d 72 8 + qcRows d * leAt d 52 4 ≤ leAt d 112 8 ∧
      (pruneRun (unitQC 7) (task (unitQC 7) d) s0).rem.wait = false) := by decide +kernel

theorem witness_compress :
    (let d := qcDesc 0x11 128 [(80, 8, at0 0x8000), (104, 1, 0), (105, 1, 3), (112, 8, 4096)]
     let s := qcState d
     let code (i : Nat) : List Nat := ((rowCodes (qcSrc d) (qcCols d) ((List.range (rowBytes (qcSrc d) (qcCols d))).map fun k =>
       rawByte s (leAt d 56 8 + i * leAt d 48 4 + k))).map fun c => (decodeElem (qcSrc d) (leAt d 38 1) c).mul (fp32At d 96)).map fun w =>
         (encodeElem (qcDst d) (leAt d 39 1) (qcFlag d 0) w).1
     let cs := (List.range (qcRows d)).map fun i => (code i).map fun c => (c, isZeroCode (qcDst d) (leAt d 39 1) c)
     let r := tileRecord (qcDst d) (chooseForm (qcDst d) (leAt d 105 1) cs) 0 cs
     frontTask s (unitQC 7) 0x11 = some (task (unitQC 7) d) ∧ chooseFault (qcFaults 0x11 d ++ unitFault s (unitQC 7) 0x11) = none ∧
      isMx (qcSrc d) = false ∧ isMx (qcDst d) = false ∧ qcFlag d 2 = false ∧ qcFlag d 4 = false ∧ qcFlag d 6 = false ∧ qcRot d = 0 ∧
      inScratchpad s (leAt d 56 8) (qcRows d * leAt d 48 4) = true ∧ qcRows d ≤ 128 ∧ qcCols d ≤ 128 ∧ r.length ≤ leAt d 112 8 ∧
      inScratchpad s (leAt d 72 8) r.length = true ∧ inScratchpad s (leAt d 80 8) 8 = true ∧ leAt d 72 8 + r.length ≤ leAt d 80 8) := by decide +kernel

/-- The record of a tile of 2 rows of 4 INT8 elements in BITMAP form with one element (CodecTasks). -/
theorem witness_decompress :
    (let d := qcDesc 0x12 2 [(33, 1, 8), (64, 8, at0 0x8000), (112, 8, 4096)]
     let body := tileBody 8 2 [[(0, true), (7, false), (0, true), (0, true)], List.replicate 4 (0, true)]
     let s : State := { qcState d with mem := cells (at0 0) (fields [(1, 2), (1, 8), (1, 1), (1, 3), (4, body.length), (4, 1), (4, 0)] ++ body) }
     let bytes (a n : Nat) : List Byte := (List.range n).map fun k => rawByte s (a + k)
     let off := ofLE (bytes (leAt d 64 8) 8)
     let h := bytes (leAt d 56 8 + off) 16
     frontTask s (unitQC 7) 0x12 = some (task (unitQC 7) d) ∧ chooseFault (expandFaults d ++ unitFault s (unitQC 7) 0x12) = none ∧ 0 < qcRows d ∧
      qcRows d ≤ 128 ∧ 0 < qcCols d ∧ qcCols d ≤ 128 ∧ inScratchpad s (leAt d 64 8) 8 = true ∧ off + 16 + leAt h 4 4 ≤ leAt d 112 8 ∧
      leAt d 56 8 + off + 16 + leAt h 4 4 ≤ 2 ^ 64 ∧ inScratchpad s (leAt d 56 8 + off) (16 + leAt h 4 4) = true ∧
      inScratchpad s (leAt d 72 8) (qcRows d * leAt d 52 4) = true ∧ leAt h 0 1 ≤ 2 ∧ leAt h 1 1 = qcSrc d ∧ leAt h 2 1 = qcRows d - 1 ∧
      leAt h 3 1 = qcCols d - 1 ∧ leAt h 12 4 = 0) := by decide +kernel

/-- The group of a NaN-free row, and a tile of the largest shape (CodecTasks, CompressedTilesExpandBack). -/
theorem witness_tiles : ([ExactNum.zero, .ofInt 1 0, .ofInt 2 0, .ofInt 3 0] : List ExactNum).length = 4 ∧
    (∀ w ∈ ([ExactNum.zero, .ofInt 1 0, .ofInt 2 0, .ofInt 3 0] : List ExactNum), w.isNan = false) ∧
    (elemOf 8).isSome = true ∧ (List.replicate 128 (List.replicate 128 (0, true)) : List (List (Nat × Bool))).length = 128 ∧
    ∀ row ∈ (List.replicate 128 (List.replicate 128 (0, true)) : List (List (Nat × Bool))), row.length = 128 := by decide +kernel

/-! ### Gather tasks -/

/-- A gather task of one segment of one position over table 5, its index at 0, its output at 0x1000 of bank 0. -/
def geDesc (op out dedup : Nat) : List Byte :=
  desc [(0, 4, 8), (4, 1, 2), (11, 1, 0xFF), (32, 1, op), (33, 1, out), (36, 2, 5), (40, 4, 1), (44, 4, 1), (56, 8, vaultAddr 0 0), (64, 8, 1),
    (72, 8, vaultAddr 0 0x1000), (80, 4, 64), (84, 4, 64), (88, 8, vaultAddr 0 0x2000), (96, 8, vaultAddr 0 0x4000), (108, 4, dedup),
    (112, 8, vaultAddr 0 0x100000)]

/-- The version the task has pinned: 10 rows of 64 bytes at pool address 2^26. -/
def geTbl (fmt : Nat) : TblVersion := { version := 1, base := 2 ^ 26, rows := 10, rowBytes := 64, rowFmt := fmt, default := none }

/-- The directory entry of that extent: this device's stack 0, from its third 64 MiB on. -/
def geDir : DirEntry := { w0 := putField (putField 0 63 63 1) 49 26 1, w1 := putField 0 36 26 2 }

/-- A gather engine with such a task in front, with an index. -/
def geState (d : List Byte) (fmt index : Nat) : State :=
  let s := front (pad [unitGE 47, unitHS 0]) (unitGE 47) d
  { s with
    led := { s.led with tasks := [{ task (unitGE 47) d with pin := some (5, 1) }], tables := [(5, { current := some (geTbl fmt) })] }
    dir := [(0, geDir)], mem := cells (vaultAddr 0 0) (leBytes 4 index) }

def geTask (d : List Byte) : Task := { task (unitGE 47) d with pin := some (5, 1) }

/-- What every clause of GatherTasks asks. -/
def geReady (s : State) (d : List Byte) (op : Nat) (fmt : Nat) : Bool :=
  decide (pinnedVersion s (geTask d) = some (geTbl fmt) ∧ (engOf s (unitGE 47)).frag = none ∧ frontTask s (unitGE 47) op = some (geTask d) ∧
    chooseFault (geFaults s (geTask d)) = none ∧ geCsr d = false ∧ geSegs d = 1 ∧ geBag d = 1 ∧ inScratchpad s (leAt d 56 8) 4 = true)

theorem witness_gather :
    (let d := geDesc 1 0 0
     let s := geState d 0xFF 9
     geReady s d 1 0xFF = true ∧ geRunOf s (unitGE 47) = none ∧ geDedup d = 0 ∧ poolOf s (47 / 12) = [] ∧
      inScratchpad s (leAt d 72 8) (geTbl 0xFF).rowBytes = true ∧ rowMissing s (unitGE 47) (2 ^ 26 + 9 * 64) 64 = false ∧
      ∀ k, k < 64 → spotOf s (2 ^ 26 + 9 * 64) k = .stack 0 (2 ^ 27 + 9 * 64 + k)) ∧
    (let d := geDesc 1 0 0
     let s := geState d 0xFF 10
     geReady s d 1 0xFF = true ∧ geRunOf s (unitGE 47) = none ∧ (geTbl 0xFF).rows ≤ 10 ∧ (geTbl 0xFF).default = none) := by decide +kernel

theorem witness_pool (op : Nat) (h : op = 2 ∨ op = 3) :
    (let d := geDesc op 0 0
     let s := geState d 0x00 9
     geReady s d op 0x00 = true ∧ geRunOf s (unitGE 47) = none ∧ geDedup d = 0 ∧ poolOf s (47 / 12) = [] ∧
      inScratchpad s (leAt d 72 8) (poolOutBytes d (geTbl 0x00)) = true ∧ rowMissing s (unitGE 47) (2 ^ 26 + 9 * 64) 64 = false ∧
      ∀ k, k < 64 → spotOf s (2 ^ 26 + 9 * 64) k = .stack 0 (2 ^ 27 + 9 * 64 + k)) := by
  rcases h with rfl | rfl <;> decide +kernel

theorem witness_unique :
    (let d := geDesc 5 0 1024
     let s := geState d 0x00 9
     let n := gradElems d (geTbl 0x00)
     geReady s d 5 0x00 = true ∧ geDedup d ≠ 0 ∧ 9 < (geTbl 0x00).rows ∧ inScratchpad s (leAt d 88 8) (n * wholeBytes (geOut d)) = true ∧
      inScratchpad s (leAt d 72 8) 80 = true ∧ inScratchpad s (leAt d 96 8) (4 * n) = true ∧
      inScratchpad s (leAt d 112 8) (16 * geDedup d) = true ∧ leAt d 72 8 + 80 ≤ leAt d 96 8) := by decide +kernel

theorem witness_scatter :
    (let d := geDesc 6 0 0
     let s := geState d 0xFF 9
     let off := 2 ^ 27 + 9 * 64
     geReady s d 6 0xFF = true ∧ 9 < (geTbl 0xFF).rows ∧ (geTbl 0xFF).rowBytes = 64 ∧ (2 ^ 26 + 9 * 64) % 64 = 0 ∧
      rowMissing s (unitGE 47) (2 ^ 26 + 9 * 64) 64 = false ∧ spotOf s (2 ^ 26 + 9 * 64) 0 = .stack 0 off ∧ off % 64 = 0 ∧ (0 : Nat) < 12 ∧
      stackNames s 0 off = true ∧ escrowOwn s (stackAddr 0 off) = false ∧ bankFor s 0 (stackAddr 0 off) = none ∧ openEpoch s = 0 ∧
      pageBase off ∉ (stackOf s 0).offline ∧ inScratchpad s (leAt d 88 8) 64 = true) := by decide +kernel

/-- A position of a coalescing task at a stage (CoalescingAndFragments); a region of one entry, so that every hash names it. -/
def geAt (stage : GeStage) : State :=
  working (geState (geDesc 1 0 1) 0xFF 9) (unitGE 47) (.ge { job := some { owner := 47, seq := 1, seg := 0, pos := 0, stop := 1, count := 1, stage := stage } })

theorem witness_probe :
    (let d := geDesc 1 0 1
     let s := geAt .probe
     let j : GeJob := { owner := 47, seq := 1, seg := 0, pos := 0, stop := 1, count := 1 }
     contained s = false ∧ (engOf s (unitGE 47)).frag = none ∧ geRunOf s (unitGE 47) = some { job := some j } ∧ jobTask s j = some (geTask d) ∧
      (engOf s (unitGE 47)).done = none ∧ pinnedVersion s (geTask d) = some (geTbl 0xFF) ∧ j.pos < j.stop ∧
      inScratchpad s (leAt d 56 8 + 4 * j.pos) 4 = true ∧ leAt d 56 8 + 4 * j.pos + 4 ≤ 2 ^ 64 ∧
      entryAddr d (geTbl 0xFF) 0 + entryBytes (geTbl 0xFF) ≤ 2 ^ 64 ∧ inScratchpad s (entryAddr d (geTbl 0xFF) 0) (entryBytes (geTbl 0xFF)) = true ∧
      9 < (geTbl 0xFF).rows ∧ geDedup d ≠ 0) := by decide +kernel

theorem witness_probeFind :
    probeFind { geAt .probe with rem := { (geAt .probe).rem with wait := false, full := none } } (unitGE 47) (geTask (geDesc 1 0 1)) (geTbl 0xFF) 9 16
      (Config.dedupHash 5 1 9 % geDedup (geDesc 1 0 1)) = some (0, false) := by
  have h : geDedup (geDesc 1 0 1) = 1 := by decide +kernel
  rw [h, Nat.mod_one]
  decide +kernel

theorem witness_claimed :
    (let d := geDesc 1 0 1
     let s := geAt (.claimed 0)
     let j : GeJob := { owner := 47, seq := 1, seg := 0, pos := 0, stop := 1, count := 1, stage := .claimed 0 }
     contained s = false ∧ (engOf s (unitGE 47)).frag = none ∧ geRunOf s (unitGE 47) = some { job := some j } ∧ jobTask s j = some (geTask d) ∧
      (engOf s (unitGE 47)).done = none ∧ rowMissing s (unitGE 47) (2 ^ 26 + 9 * 64) 64 = false ∧ dOp d = 1 ∧
      (∀ k, k < 64 → spotOf s (2 ^ 26 + 9 * 64) k = .stack 0 (2 ^ 27 + 9 * 64 + k)) ∧
      inScratchpad s (leAt d 72 8 + j.pos * leAt d 80 4) 64 = true ∧ leAt d 72 8 + j.pos * leAt d 80 4 + 64 ≤ entryAddr d (geTbl 0xFF) 0) := by
  decide +kernel

/-- A fragment of engine 47 in its quarter's pool, and engine 36 free. -/
def offered : State :=
  { pad [unitGE 36, unitGE 47] with frags := [{ owner := 47, seq := 1, seg := 0, pos := 1, stop := 2, count := 2, offered := true }] }

theorem witness_fragmentTake : contained offered = false ∧ (engOf offered (unitGE 36)).frag = none ∧ mayTake offered 36 = true ∧
    chooseFragment offered 36 = some { owner := 47, seq := 1, seg := 0, pos := 1, stop := 2, count := 2, offered := true } := by decide +kernel

/-- A fragment whose partial has been added to a slot two fragments share. -/
theorem witness_slot :
    (let d := geDesc 2 0 0
     let a := vaultAddr 0 0x8000
     let j : GeJob := { owner := 47, seq := 1, seg := 0, pos := 2, stop := 2, count := 2, slot := some a, stage := .added, offered := true }
     let s0 := working (geState d 0x00 0) (unitGE 47) (.ge { outstanding := 1 })
     let s : State := { setEng s0 (unitGE 36) { engOf s0 (unitGE 36) with frag := some j } with mem := cells a (leBytes 8 2) }
     contained s = false ∧ (engOf s (unitGE 36)).frag = some j ∧ j.stage = .added ∧ j.slot = some a ∧ j.stop ≤ j.pos ∧
      jobTask s j = some (geTask d) ∧ gePool (geTask d).desc = true ∧ geRunOf s (unitGE 47) = some { outstanding := 1 } ∧ a < 2 ^ 64 ∧
      inScratchpad s a 24 = true ∧ 2 ≤ ofLE ((List.range 8).map fun k => rawByte s (a + k))) := by decide +kernel
/-! ### Merge, predictor and vector tasks -/

/-- A merge task of one stream whose table is at 0 of bank 0, over rows 0 and 1 and 2 columns of one INT32 each, its tile at 0x1000. -/
def meDesc (flags : Nat) : List Byte :=
  desc [(0, 4, 8), (4, 1, 4), (11, 1, 0xFF), (32, 1, 1), (33, 1, 0x0C), (34, 1, 0x0C), (35, 1, flags), (36, 2, 1), (38, 2, 1), (40, 4, 2), (44, 4, 2),
    (48, 8, vaultAddr 0 0), (64, 8, 2 ^ 33), (72, 8, vaultAddr 0 0x1000), (80, 8, vaultAddr 0 0x2000), (88, 8, vaultAddr 0 0x3000),
    (96, 8, vaultAddr 0 0x4000), (104, 8, 96), (112, 4, 64), (116, 4, 16)]

/-- Two records of one key. -/
def meState (d : List Byte) : State :=
  { front (pad [unitME 11]) (unitME 11) d with
    mem := cells (vaultAddr 0 0) (fields [(8, vaultAddr 0 64), (8, vaultAddr 0 128), (8, 2)]) ++
      cells (vaultAddr 0 64) (fields [(8, 2 ^ 32 + 1), (8, 2 ^ 32 + 1)]) ++ cells (vaultAddr 0 128) (fields [(4, 7), (4, 2 ^ 32 - 5)]) }

theorem witness_dense :
    (let d := meDesc 0
     let s := meState d
     let table := (List.range 32).map fun k => rawByte s (leAt d 48 8 + k)
     frontTask s (unitME 11) 1 = some (task (unitME 11) d) ∧ meStreams d = 1 ∧ inScratchpad s (leAt d 48 8) 32 = true ∧ leAt table 16 8 = 2 ∧
      inScratchpad s (leAt table 0 8) (8 * 2) = true ∧ inScratchpad s (leAt table 8 8) (4 * meElems d * 2) = true ∧ meDense s d = true ∧
      meFloat d = false ∧ inScratchpad s (leAt d 72 8) (meRows d * leAt d 112 4) = true ∧
      chooseFault (meFaults s d ++ streamFaults s d (streamsOf table 1)) = none) := by decide +kernel

theorem witness_merge :
    (let d := meDesc 2
     let s := meState d
     let s0 := { startFront s (unitME 11) with rem := { s.rem with wait := false, full := none } }
     let tb := engineLoad s0 (unitME 11) (partOf (task (unitME 11) d)) (leAt d 48 8) (32 * meStreams d)
     frontTask s (unitME 11) 1 = some (task (unitME 11) d) ∧ meDense s d = false ∧
      chooseFault (meFaults s d ++ streamFaults s d (streamsOf tb.2 (meStreams d))) = none ∧
      (reduceRun (unitME 11) [1, 0] (task (unitME 11) d) s0).rem.wait = false) := by decide +kernel

/-- Three records in chunks of two (ReduceSumsRecords). -/
theorem witness_chunks : (0 : Nat) < 2 ∧ ∀ r ∈ ([⟨5, [1, 2]⟩, ⟨3, [3, 4]⟩, ⟨5, [-5, 6]⟩] : List Keyed), r.vals.length = 2 := by decide

/-- A predictor task of one INT8 layer of 32 inputs and 3 outputs, groups of 2 neurons, the best 2 groups; its weights are loaded. -/
def peDesc : List Byte :=
  desc [(0, 4, 8), (4, 1, 5), (11, 1, 0xFF), (32, 1, 1), (33, 1, 8), (34, 1, 1), (35, 1, 4), (36, 2, 2), (38, 2, 2), (40, 4, 1), (44, 4, 64),
    (48, 8, vaultAddr 0 0), (56, 8, vaultAddr 0 0x8000), (64, 8, vaultAddr 0 0x1000), (72, 8, vaultAddr 0 0x2000), (92, 4, 3)]

def peState : State :=
  let s := setReg (setF (front (pad [unitPE 7]) (unitPE 7) peDesc) (unitPE 7) 0x18 20 20 1) (unitPE 7) 0x128 (BitVec.ofNat 64 (vaultAddr 0 0x8000))
  let s1 := tileWrite s (unitPE 7) 0 (fields [(2, 32), (2, 3), (4, 8), (8, 0)] ++ zeros 48 ++ [1] ++ zeros 63 ++ [255] ++ zeros 63 ++ [2])
  { s1 with mem := s1.mem.filter (fun c => decide (c.1 < vaultAddr 0 0)) ++ cells (vaultAddr 0 0) [3] ++ s1.mem.filter fun c => decide (vaultAddr 0 0 ≤ c.1) }

theorem witness_predict :
    (let s := peState
     let x := task (unitPE 7) peDesc
     let ls : List Layer := [⟨0, 32, 3, 8, 0⟩]
     let s0 := { startFront s (unitPE 7) with rem := { s.rem with wait := false, full := none } }
     let input := (rowCodes 8 32 ((List.range 32).map fun k => rawByte s (leAt peDesc 48 8 + k))).map (decodeElem 8 0)
     let gs := selectGroups peDesc (scoresOf s (unitPE 7) ls 8 input).1
     frontTask s (unitPE 7) 1 = some x ∧ peReuse s (unitPE 7) peDesc = true ∧ peLayers peDesc ≤ 3 ∧
      (readLayers (unitPE 7) x (peLayers peDesc) 0 s0).2 = ls ∧ chooseFault (peFaults peDesc ++ layerFaults peDesc ls) = none ∧ ls ≠ [] ∧
      peTokens peDesc = 1 ∧ inScratchpad s (leAt peDesc 48 8) (rowBytes 8 32) = true ∧ peUnion peDesc = false ∧ leAt peDesc 80 8 = 0 ∧
      gs = ([0, 2], false) ∧ inScratchpad s (leAt peDesc 64 8) (4 * peGroup peDesc * gs.1.length) = true ∧
      inScratchpad s (leAt peDesc 72 8) 16 = true ∧ leAt peDesc 64 8 + 4 * peGroup peDesc * gs.1.length ≤ leAt peDesc 72 8) := by decide +kernel

/-- Weights that are loaded are read without a change of the state. -/
theorem witness_predictLoaded :
    (let s0 := { startFront peState (unitPE 7) with rem := { peState.rem with wait := false, full := none } }
     (readLayers (unitPE 7) (task (unitPE 7) peDesc) (peLayers peDesc) 0 s0).1 = s0) := by
  have h : peReuse { startFront peState (unitPE 7) with rem := { peState.rem with wait := false, full := none } } (unitPE 7) peDesc = true := by decide +kernel
  have n : peLayers peDesc = 1 := by decide +kernel
  simp [n, readLayers, weightRead, task, h]

/-- Groups are selected by rank (PredictRunAndWeightedPool). -/
theorem witness_topK : peThreshold peDesc = false ∧ (selectGroups peDesc [0x3F800000, 0x7FC00000, 0x40000000]).1 = [0, 2] := by decide +kernel

/-- A vector task of a program of one NOP, two iterations. -/
def veDesc : List Byte :=
  desc [(0, 4, 8), (4, 1, 3), (11, 1, 0xFF), (32, 1, 1), (34, 2, 32), (36, 2, 1), (40, 4, 2), (56, 8, vaultAddr 0 0), (64, 8, vaultAddr 0 64)]

theorem witness_run :
    (let s := front (pad [unitVE 23]) (unitVE 23) veDesc
     let d := veDesc
     frontTask s (unitVE 23) 1 = some (task (unitVE 23) d) ∧ veRunOf s (unitVE 23) = none ∧ leAt d 33 1 = 0 ∧ leAt d 56 8 % 64 = 0 ∧
      leAt d 64 8 % 64 = 0 ∧ leAt d 72 8 = 0 ∧ 1 ≤ leAt d 34 2 ∧ leAt d 34 2 ≤ 256 ∧ 1 ≤ veLen d ∧ veLen d ≤ 4096 ∧ 1 ≤ veIters d ∧
      inScratchpad s (leAt d 64 8) 256 = true ∧ inScratchpad s (leAt d 56 8) (8 * veLen d) = true ∧
      (∀ k, k < 256 → rawByte s (leAt d 64 8 + k) = 0) ∧ ∀ k, k < 8 * veLen d → rawByte s (leAt d 56 8 + k) = 0) ∧
    (let r : VeRun := { prog := [0], iter := 2, flags := [16, 1], vl := 32, slots := [], words := [(3, 7)], valid := 8 }
     let s := working (front (pad [unitVE 23]) (unitVE 23) veDesc) (unitVE 23) (.ve r)
     veRunOf s (unitVE 23) = some r ∧ frontTask s (unitVE 23) 1 = some (task (unitVE 23) veDesc) ∧ r.begun = false ∧ veIters veDesc ≤ r.iter ∧
      veAcc veDesc = false ∧ leAt veDesc 72 8 = 0 ∧ r.reds = [] ∧ r.dropped = false) := by decide +kernel

theorem witness_wpool :
    (let d := desc [(0, 4, 8), (4, 1, 3), (11, 1, 0xFF), (32, 1, 2), (33, 1, 0x03), (34, 1, 1), (36, 2, 16), (40, 4, 1), (44, 4, 1), (56, 8, vaultAddr 0 0),
       (64, 8, vaultAddr 0 64), (72, 8, vaultAddr 0 128), (80, 4, 64), (84, 4, 64), (88, 8, 1)]
     let s := front (pad [unitVE 0]) (unitVE 0) d
     frontTask s (unitVE 0) 2 = some (task (unitVE 0) d) ∧ chooseFault (wpFaults d) = none ∧ wpCsr d = false ∧ wpSegs d = 1 ∧ wpBag d = 1 ∧
      inScratchpad s (leAt d 56 8) (wpElems d * wholeBytes 3) = true ∧ inScratchpad s (leAt d 64 8) 4 = true ∧
      inScratchpad s (leAt d 72 8) (wpElems d * 2) = true) := by decide +kernel
/-! ### Collectives, exchanges and messages -/

/-- What taking the one arrived message leaves. -/
def emptied (s : State) : State := { s with fab := { s.fab with inbox := [] } }

theorem arrived_take (s : State) (m : Message) (p : Message → Bool) (h : p m = true) : takeMessage (arrived s m) p = some (m, emptied s) := by
  simp [takeMessage, takeFirst, arrived, emptied, h]

/-- A state with a route to device 1. -/
def routed (s : State) : State := { s with fab := { s.fab with routes := [(1, putField 0 27 24 1)] } }

/-- A collective of `p` members over 2 INT32 elements in bank 0, its member table at 0x3000. -/
def coDesc (op p rank : Nat) : List Byte :=
  desc [(0, 4, 8), (4, 1, 8), (11, 1, 0xFF), (32, 1, op), (33, 1, 0x0C), (34, 1, 1), (36, 2, p), (38, 2, rank), (40, 4, 77), (48, 8, 2), (56, 8, vaultAddr 0 0x1000),
    (64, 8, vaultAddr 0 0x2000), (72, 8, vaultAddr 0 0x3000)]

/-- Its engine; the member table names this device, 0, and device 1. -/
def coState (d : List Byte) (members : List Nat) : State :=
  { routed (front (pad [unitCO 3, unitKP 47]) (unitCO 3) d) with mem := cells (vaultAddr 0 0x3000) (fields (members.map fun k => (2, k))) }

/-- What the clauses of CollectivesAndExchanges about a collective ask. -/
def coReady (op p rank : Nat) (members : List Nat) : Bool :=
  let d := coDesc op p rank
  let s := coState d members
  decide (frontTask s (unitCO 3) op = some (task (unitCO 3) d) ∧ chooseFault (coFaults s (unitCO 3) (task (unitCO 3) d)) = none ∧
    (engOf s (unitCO 3)).work = .none ∧ inScratchpad s (leAt d 72 8) (2 * coP d) = true ∧
    inScratchpad s (leAt d 56 8) (coCount d * coBytes d) = true ∧ inScratchpad s (leAt d 64 8) (coCount d * coBytes d) = true ∧ coP d = p)

theorem witness_collectives : ∀ op ∈ [1, 2, 3, 4], coReady op 1 0 [0] = true ∧ coReady op 2 0 [0, 1] = true ∧ coReady op 2 1 [1, 0] = true := by
  decide +kernel

/-- A collective that runs. -/
def coRunning (op : Nat) (r : CoRun) : State := working (coState (coDesc op 2 0) [0, 1]) (unitCO 3) (.co r)

theorem witness_stall :
    (let r : CoRun := { members := [0, 1], sent := 1 }
     collectiveOf (coRunning 2 r) (unitCO 3) = some (task (unitCO 3) (coDesc 2 2 0), r) ∧ r.received < coSteps (coDesc 2 2 0) ∧ r.stalled = false ∧
      contained (coRunning 2 r) = false) := by decide +kernel

/-- An exchange with `n` sends to device 1 and `m` receives from it; rows of 64 bytes. -/
def exDesc (n m : Nat) : List Byte :=
  desc [(0, 4, 8), (4, 1, 7), (11, 1, 0xFF), (32, 1, 1), (33, 1, 0xFF), (36, 2, n), (38, 2, m), (40, 4, 9), (44, 4, 64), (48, 8, vaultAddr 0 0), (56, 8, vaultAddr 0 0x1000),
    (64, 8, vaultAddr 0 0x2000), (72, 8, 128)]

def exState (n m : Nat) : State :=
  { routed (front (pad [unitCL 3]) (unitCL 3) (exDesc n m)) with
    mem := cells (vaultAddr 0 0) (fields [(2, 1), (2, 0), (4, 2), (8, vaultAddr 0 0x4000)]) ++ cells (vaultAddr 0 0x1000) (leBytes 2 1) }

theorem witness_exchange : ∀ n ∈ [0, 1], ∀ m ∈ [0, 1],
    (let d := exDesc n m
     let s := exState n m
     let x := task (unitCL 3) d
     frontTask s (unitCL 3) 1 = some x ∧ chooseFault (exchangeFaults s (unitCL 3) x) = none ∧ (engOf s (unitCL 3)).work = .none ∧
      inScratchpad s (leAt d 48 8) (16 * n) = true ∧ inScratchpad s (leAt d 56 8) (16 * m) = true ∧ s.fab.rts = [] ∧
      (∀ k, k < n → ofLE ((List.range 2).map fun j => rawByte s (leAt d 48 8 + 16 * k + j)) ≠ deviceId s) ∧ writesAccepted s (unitCL 3) = true) := by
  decide +kernel

/-- An exchange that runs. -/
def exRunning (r : ClRun) : State := working (exState 1 1) (unitCL 3) (.cl r)

theorem witness_rtsRetry :
    (let y : SendLeg := ⟨1, 2, vaultAddr 0 0x4000, .busy 5⟩
     let r : ClRun := { sends := [y] }
     contained (exRunning r) = false ∧ exchangeOf (exRunning r) (unitCL 3) = some (task (unitCL 3) (exDesc 1 1), r) ∧ r.sends = [] ++ y :: [] ∧
      y.stage = .busy 5) := by decide +kernel

theorem witness_migrate :
    (let d := desc [(0, 4, 8), (4, 1, 7), (11, 1, 0xFF), (32, 1, 2), (48, 8, stackAddr 1 0), (56, 8, stackAddr 0 4032), (64, 8, 64)]
     let s := front (up [unitCL 0, unitHS 0, unitHS 1]) (unitCL 0) d
     frontTask s (unitCL 0) 2 = some (task (unitCL 0) d) ∧ chooseFault (migrateFaults d) = none ∧ (engOf s (unitCL 0)).work = .none ∧
      openEpoch s = 0 ∧ 4032 % 4096 + leAt d 64 8 ≤ 4096 ∧ leAt d 56 8 = stackAddr 0 4032 ∧ 4032 + leAt d 64 8 ≤ stackBytes ∧
      ∀ k, k < leAt d 64 8 → spotOf s (leAt d 48 8) k = .stack 1 k ∧ stackNames s 0 (4032 + k) = true ∧
        escrowOwn s (stackAddr 0 (4032 + k)) = false ∧ bankFor s 0 (stackAddr 0 (4032 + k) / 64 * 64) = none ∧
        pageBase (4032 + k) ∉ (stackOf s 0).offline) := by decide +kernel

theorem witness_batch :
    (let b : Batch := ⟨5, 3, 1, true, [], [], 0, false⟩
     let s0 := up [unitCL 3]
     let s : State := { s0 with fab := { s0.fab with batches := [b] } }
     contained s = false ∧ s.rem.wanted = [] ∧ s.rem.writes = [] ∧ s.rem.rounds = [] ∧ b.q < 4 ∧
      s.fab.batches.find? (fun y => y.id = b.id && !y.sent) = some b) := by decide +kernel

/-- The owner’s side (MessagesAreTaken): requests for a row this device owns and for one it does not. -/
def owner : State := { up [unitCL 3, unitHS 0] with dir := [(0, geDir)] }

theorem witness_readReq :
    (let m (a : Nat) : Message := message 0x01 47 (fields [(8, a), (4, 64), (4, 0)])
     let s (a : Nat) : State := arrived owner (m a)
     (∀ a ∈ [2 ^ 26, 0], contained (s a) = false ∧ (m a).port < 48 ∧ (m a).seg.body.length = 16 ∧ isMx (m a).seg.fmt = false ∧
       servedHere (s a) 0x01 (m a) = true ∧ leAt (m a).seg.body 0 8 = a ∧ leAt (m a).seg.body 8 4 = 64) ∧
      (∀ k, k < 64 → spotOf (s (2 ^ 26)) (2 ^ 26) k = .stack 0 (2 ^ 27 + k)) ∧ ownsRow (s (2 ^ 26)) (2 ^ 26) 64 = true ∧
      ownsRow (s 0) 0 64 = false) := by decide +kernel

theorem witness_writeReq :
    (let m (a : Nat) : Message := message 0x03 47 (fields [(8, a), (4, 64), (4, 0)] ++ rowRecord 0 0xFF (List.replicate 64 7))
     let s (a : Nat) : State := arrived owner (m a)
     (∀ a ∈ [2 ^ 26, 0], contained (s a) = false ∧ (m a).port < 48 ∧ servedHere (s a) 0x03 (m a) = true ∧ (s a).rem.rounds = [] ∧
       20 ≤ (m a).seg.body.length ∧ (takeRecord ((m a).seg.body.drop 16)).2.2.length < 20 ∧ leAt (m a).seg.body 8 4 = 64 ∧
       leAt (m a).seg.body 0 8 % 64 = 0 ∧ leAt (m a).seg.body 0 8 = a) ∧
      (let t := s (2 ^ 26)
       ownsRow t (2 ^ 26) 64 = true ∧ spotOf t (2 ^ 26) 0 = .stack 0 (2 ^ 27) ∧ 2 ^ 27 % 64 = 0 ∧ stackNames t 0 (2 ^ 27) = true ∧
        escrowOwn t (stackAddr 0 (2 ^ 27)) = false ∧ bankFor t 0 (stackAddr 0 (2 ^ 27)) = none ∧ hotEntry t 0 (2 ^ 27) = none ∧ openEpoch t = 0 ∧
        pageBase (2 ^ 27) ∉ (stackOf t 0).offline) ∧ ownsRow (s 0) 0 64 = false) := by decide +kernel

theorem witness_answers :
    (let b (w : Bool) : Batch := { id := 5, q := 3, dest := 1, write := w, entries := [(unitGE 47, 64, 64)], sent := true }
     let m (type : Nat) : Message := { seg := { type := type, dest := 0, src := 1, order := 0x0703, body := rowRecord 7 0xFF (zeros 64) }, port := 0, at_ := 9 }
     let s0 (w : Bool) : State := let s := up []
       { s with fab := { s.fab with batches := [b w] }, rem := { s.rem with asked := [(unitGE 47, 64)] } }
     answeredBatch (emptied (s0 false)) (m 0x02) false = some (b false) ∧ (unitGE 47, 64) ∈ (s0 false).rem.asked ∧ isMx (m 0x02).seg.fmt = false ∧
      (takeRecord (m 0x02).seg.body).1 ≠ 0xF ∧ answeredBatch (emptied (s0 true)) (m 0x04) true = some (b true)) := by decide +kernel

theorem witness_rts :
    (let m : Message := { seg := { type := 0x07, dest := 0, src := 1, tag := 9, body := leBytes 4 2 }, port := 47, at_ := 9 }
     let r : ClRun := { recvs := [{ src := 1 }] }
     contained (exRunning r) = false ∧ exchangeBy (emptied (exRunning r)) 9 = some (3, task (unitCL 3) (exDesc 1 1), r) ∧
      answerOffer (exDesc 1 1) r m.seg.src (leAt m.seg.body 0 4) = some ({ granted := 128, recvs := [{ src := 1, grant := some (2, 0) }] }, some 0) ∧
      exchangeBy (emptied (up [unitCL 3])) 9 = none ∧ exchangeEnded (emptied (up [unitCL 3])) 9 = false ∧
      ((emptied (up [unitCL 3])).fab.rts.filter fun y => y.q = m.port / 12).length < 4096) := by decide +kernel

theorem witness_cts :
    (let m : Message := { seg := { type := 0x08, dest := 0, src := 1, tag := 9, body := leBytes 8 0 ++ leBytes 1 0 }, port := 0, at_ := 9 }
     let y : SendLeg := ⟨1, 2, vaultAddr 0 0x4000, .offered⟩
     let r : ClRun := { sends := [y] }
     exchangeBy (emptied (exRunning r)) (m.seg.tag % 2 ^ 32) = some (3, task (unitCL 3) (exDesc 1 1), r) ∧
      (r.sends.findIdx? fun z => z.dest = m.seg.src && z.stage = .offered) = some 0 ∧ leAt m.seg.body 8 1 = 0 ∧
      inScratchpad (exRunning r) y.addr (y.rows * leAt (exDesc 1 1) 44 4) = true) := by decide +kernel

theorem witness_exchData :
    (let m : Message := { seg := { type := 0x05, dest := 0, src := 1, tag := 9, body := rowRecord 7 0xFF (zeros 64) ++ rowRecord 7 0xFF (List.replicate 64 3) }, port := 0, at_ := 9 }
     let z : RecvLeg := { src := 1, grant := some (2, 0) }
     let r : ClRun := { granted := 128, recvs := [z] }
     let d := exDesc 1 1
     let data := (unpackRows m.seg.fmt (leAt d 44 4) 2 0 m.seg.body).1
     let area := leAt d 64 8 + 0
     let entry := leAt d 56 8 + 16 * 0 + 4
     exchangeBy (emptied (exRunning r)) (m.seg.tag % 2 ^ 32) = some (3, task (unitCL 3) d, r) ∧
      (r.recvs.findIdx? fun y => y.src = m.seg.src && y.grant.isSome && !y.done && !y.ackDue) = some 0 ∧
      (unpackRows m.seg.fmt (leAt d 44 4) 2 0 m.seg.body).2 = none ∧ writesAccepted (exRunning r) (unitCL 3) = true ∧ m.seg.src ≠ deviceId (exRunning r) ∧
      area + data.length ≤ 2 ^ 64 ∧ entry + 12 ≤ 2 ^ 64 ∧ inScratchpad (exRunning r) area data.length = true ∧
      inScratchpad (exRunning r) entry 12 = true ∧ entry + 12 ≤ area) := by decide +kernel

theorem witness_exchAck :
    (let y : SendLeg := ⟨1, 2, vaultAddr 0 0x4000, .sent⟩
     let r : ClRun := { sends := [y] }
     exchangeBy (emptied (exRunning r)) 9 = some (3, task (unitCL 3) (exDesc 1 1), r) ∧
      (r.sends.findIdx? fun z => z.dest = 1 && z.stage = .sent) = some 0) := by decide +kernel

/-- A step of an ALL_REDUCE of two that is not its last, and an acknowledgement. -/
theorem witness_collData :
    (let m (type : Nat) : Message := { seg := { type := type, dest := 0, src := 1, tag := 77, body := leBytes 8 5 }, port := 0, at_ := 9 }
     let x := task (unitCO 3) (coDesc 1 2 0)
     let r : CoRun := { members := [0, 1], chunks := [[1], [2]], sent := 1 }
     let s := coRunning 1 r
     contained s = false ∧ collectiveOf s (unitCO 3) = some (x, r) ∧ (∀ c, c < 4 → c ≠ 3 → collectiveOf s (unitCO c) = none) ∧
      coId x.desc = (m 0x09).seg.tag % 2 ^ 32 ∧ r.received + 1 < coSteps x.desc ∧ coPrev x.desc r.members = 1 ∧
      (awaitsData (arrived s (m 0x09)) (m 0x09)).isSome = true ∧ r.received < coSteps x.desc ∧ coNext x.desc r.members = 1 ∧ r.acked < r.sent) := by
  decide +kernel

/-- The messages of those witnesses are taken. -/
theorem witness_taken (s : State) (m : Message) : takeMessage (arrived s m) (fun y => y.seg.type = m.seg.type) = some (m, emptied s) :=
  arrived_take s m _ (by simp)

theorem witness_invalAck :
    (let r : InvalRound := { who := unitGE 0, granules := [64], sent := true, waiting := [1, 2] }
     r.sent = true ∧ 1 ∈ r.waiting ∧ 64 ∈ r.granules ∧ r.waiting.erase 1 ≠ [] ∧ ({ r with waiting := [1] } : InvalRound).waiting.erase 1 = []) := by decide

theorem witness_replicaInstall :
    (let r : Replica := ⟨2 ^ 30, 64, 0, false, 0⟩
     let s0 := setReg (up [unitHS 11]) unitPD 0x140 (BitVec.ofNat 64 (stackAddr 11 64))
     let s : State := { s0 with rem := { s0.rem with replicas := [r], got := [(unitPD, r.addr, zeros 64)] } }
     s.rem.replicas = r :: [] ∧ r.valid = false ∧ r.bytes = 64 ∧ (zeros 64).length = 64 ∧ (unitPD, r.addr) ∉ s.rem.missing ∧
      s.rem.got.find? (fun g => g.1 = unitPD && g.2.1 = r.addr) = some (unitPD, r.addr, zeros 64) ∧ replicaAddr s r % 64 = 0 ∧
      spotOf s (replicaAddr s r) 0 = .stack 11 64 ∧ stackNames s 11 64 = true ∧ escrowOwn s (stackAddr 11 64) = false ∧
      bankFor s 11 (stackAddr 11 64) = none ∧ openEpoch s = 0 ∧ pageBase 64 ∉ (stackOf s 11).offline) := by decide +kernel
/-! ### Vector instructions -/

/-- A program in its course, its next instruction given; its slot 0 is a window of 1024 bytes at 0x10000 of bank 0, in which the word at 0 is 5. -/
def veRun (w vl : Nat) (reds : List PendingRed) : VeRun :=
  { prog := [w], flags := List.replicate 256 0, vl := vl, slots := [⟨vaultAddr 0 0x10000, 1024, 0, 0⟩], begun := true, reds := reds, bound := some 46 }

def veState (r : VeRun) : State :=
  { working (front (pad [unitVE 23]) (unitVE 23) veDesc) (unitVE 23) (.ve r) with
    mem := cells (vaultAddr 0 0x10000) [5], vq := [(46, [{ task := 1, number := 0, count := 1, vals := [] }])] }

theorem veRun_regs (w vl : Nat) (reds : List PendingRed) (n : Nat) : (vReg (veRun w vl reds) n).length = 256 := by
  have h : vReg (veRun w vl reds) n = zeroLanes := rfl
  rw [h]
  decide +kernel

/-- Every operation of VectorInstructions as the next instruction, with all 256 lanes. -/
theorem witness_vector : ∀ op ∈ [0x00, 0x01, 0x02, 0x03, 0x04, 0x05, 0x10, 0x11, 0x12, 0x13, 0x14, 0x15, 0x20, 0x21, 0x22, 0x23, 0x24, 0x25, 0x26, 0x27, 0x28,
      0x29, 0x2A, 0x2B, 0x30, 0x31, 0x32, 0x33, 0x34, 0x35, 0x36, 0x37, 0x38, 0x40, 0x41, 0x42, 0x43, 0x44, 0x45, 0x46, 0x47, 0x48, 0x49, 0x4A, 0x4B, 0x50,
      0x51, 0x52, 0x60, 0x61, 0x62, 0x70, 0x80, 0x90],
    (let r := veRun (op * 2 ^ 56) 256 []
     let w := r.prog.getD r.pc 0
     frontTask (veState r) (unitVE 23) 1 = some (task (unitVE 23) veDesc) ∧ veRunOf (veState r) (unitVE 23) = some r ∧ r.begun = true ∧ r.pc < r.prog.length ∧ r.flags.length = 256 ∧ vOpc w = op ∧ waitsForRed r w = false) := by
  decide +kernel

/-- A SCAN with the last lane, an ACCRD of a tile of the bound array, a pending reduction, a window, and STXADD of INT32 and of FP32 from one lane. -/
theorem witness_vectorMore :
    (let w := 0x70 * 2 ^ 56 + 3
     vFunc w = 3 ∧ vSeg w = false ∧ 255 < (veRun w 256 []).vl) ∧
    (let r := veRun (0x15 * 2 ^ 56) 256 []
     vOpc (r.prog.getD 0 0) = 0x15 ∧ r.bound = some 46 ∧ tilesOf (veState r) 46 = { task := 1, number := 0, count := 1, vals := [] } :: []) ∧
    (let r := veRun 0 256 [⟨7, [(0, 9, 0)]⟩]
     r.reds = ⟨7, [(0, 9, 0)]⟩ :: []) ∧
    (let r := veRun (0x10 * 2 ^ 56) 256 []
     r.slots[vSlot (r.prog.getD 0 0)]? = some ⟨vaultAddr 0 0x10000, 1024, 0, 0⟩ ∧ windowAt veDesc ⟨vaultAddr 0 0x10000, 1024, 0, 0⟩ 0 = vaultAddr 0 0x10000 ∧
      inScratchpad (veState r) (vaultAddr 0 0x10000) 1024 = true ∧ vaultAddr 0 0x10000 % 64 = 0) ∧
    vMfmt (0x14 * 2 ^ 56 + 6 * 2 ^ 32) = 6 ∧ vOpc (0x14 * 2 ^ 56 + 6 * 2 ^ 32) = 0x14 ∧ vMfmt (0x14 * 2 ^ 56) = 0 ∧ vMasked (0x14 * 2 ^ 56) = false ∧
    laneOffset (veRun (0x14 * 2 ^ 56) 1 []) (0x14 * 2 ^ 56) 0 = 0 := by decide +kernel

theorem witness_oneLane (k : Nat) : (decide (k < (veRun (0x14 * 2 ^ 56) 1 []).vl) &&
    (!vMasked (0x14 * 2 ^ 56) || vLane (veRun (0x14 * 2 ^ 56) 1 []) (vVM (0x14 * 2 ^ 56)) k ≠ 0)) = true ↔ k = 0 := by
  have h : vMasked (0x14 * 2 ^ 56) = false := by decide
  have v : (veRun (0x14 * 2 ^ 56) 1 []).vl = 1 := rfl
  rw [v, h]; simp
/-! ### Worked examples of the spec: what the model computes beside the numbers the rules print -/

/-- The example of R112: ties go away from zero in both signs. -/
theorem test_bf16_ties : (roundTo bf16 false (numOf32 0x3F808000)).1 = 0x3F81 ∧ (roundTo bf16 false (numOf32 0xBF808000)).1 = 0xBF81 := by
  decide +kernel

/-- The example of R113: 500.0 to E4M3 and to E5M2. -/
theorem test_fp8_overflow : roundTo e4m3 false (numOf32 0x43FA0000) = (0x7E, flagOverflow ||| flagInexact) ∧
    roundTo e5m2 false (numOf32 0x43FA0000) = (0x60, flagInexact) := by
  decide +kernel

/-- The instructions of the example of R291 pass their check with an accumulator source: ACCRD, FMAX and ST. -/
theorem test_vector_encodings : ∀ w ∈ [0x1508000000000005, 0x2508400008000000, 0x1108001300100014], instrFaults true 0 w = [] := by
  decide +kernel

/-- The example of R331: offset 0x3_0000_1000 of HS07 and offset 0x40_0000 of VB09. -/
theorem test_address_forms : stackAddr 7 0x300001000 = 0x100000E300001000 ∧ vaultAddr 9 0x400000 = 0x2000000048400000 := by
  decide +kernel

/-- The example of R561: IDENT of VE07 at level 1. -/
theorem test_ident : identOf (setF (up []) unitDEV 0x118 7 0 1) (unitVE 7) = 0x0000000101110103 := by
  decide +kernel

/-- The admission logs of the shipped profiles (R557). -/
theorem test_shipped_logs : ∀ e ∈ [(0, 0x12A01F2000), (1, 0x72A01F2000), (2, 0xD2A01F2000), (3, 0x132A01F2000)],
    (pageOf (unitLG e.1) + 0x128, e.2) ∈ shippedEntries fun _ _ => true := by
  decide +kernel

/-- The example of R484: pair 9 takes a tail of 5,600 at SQ_HEAD 5,000, and not one of 6,500 at SQ_HEAD 5,400. -/
theorem test_doorbell :
    (let s0 := up [unitDEV, unitHI]
     let r : Ring := { cfg := 10, state := 1, sqHead := 5000, sqTail := 5000 }
     (ringOf (sqTailWrite (setRing s0 9 r) 9 5600) 9).sqTail = 5600 ∧
      ringOf (sqTailWrite (setRing s0 9 { r with sqHead := 5400, sqTail := 5600 }) 9 6500) 9 =
        { r with sqHead := 5400, sqTail := 5600, dbRange := true, lineDue := true } ∧
      (ringOf (sqTailWrite (setRing s0 9 { r with sqHead := 5600, sqTail := 5600 }) 9 6500) 9).sqTail = 6500) := by
  decide +kernel

/-- The example of R496: a decoder's mapping, and an address that falls in the hole of HS03. -/
theorem test_decoder :
    (let s := setDecoder (up []) 0 ⟨true, false, 0x4000000000, 0x6000000000, 0x6000000000⟩
     dpaOf s 0x6012345000 = some 0x8012345000 ∧ 2 ^ 60 + 0x8012345000 = stackAddr 4 305418240 ∧ dpaOf s 0x5300000000 = some 0x7300000000 ∧
      windowMapped s 0x7300000000 = false) := by
  decide +kernel

/-- The example of R531: 42 of 64 steps. -/
theorem test_clocks :
    (let s := { up [] with pw := { (up []).pw with capStep := 42 } }
     field (clockNow s 0) 15 0 = 787 ∧ field (clockNow s 0) 31 16 = 918 ∧ field (clockNow s 0) 47 32 = 1050 ∧ field (clockNow s 0) 63 48 = 2000) := by
  decide +kernel

/-- R443: an epoch of 250 ms that opened just before or after half of its target has passed closes at the earliest multiple that leaves it half a
target. -/
theorem test_close_instant :
    (let s (o : Nat) : State := { up [] with esc := { (up []).esc with openedAt := o } }
     closeAt (s 125000000) = 250000000 ∧ closeAt (s 125000001) = 500000000) := by
  decide +kernel

end Sys2Proof.Tests
end

section
/-! PROOFS. What one step keeps, from what each command keeps (the files XKept): the dispatch over the commands, the step, and
the statement about the module and the queue. -/

namespace Sys2Proof.Machine

open Sys2Proof

/-- A relation that is closed under more updates is closed under fewer. -/
theorem Closed.mono {R : State → State → Prop} {m h m' h' : Bool} (k : Closed R m h) (hm : m' = true → m = true)
    (hh : h' = true → h = true) : Closed R m' h' where
  update := k.update
  reg := k.reg
  page := k.page
  byte e := k.byte (hm e)
  copy e := k.copy (hm e)
  clear e := k.clear (hm e)
  reset e := k.reset (hm e)
  off e := k.off (hm e)
  hostByte e := k.hostByte (hh e)

/-- A command keeps every relation that is closed under the updates it may make: those of device memory only when
`storesMem` names it, those of host memory only when `writesHost` does. One arm per arm of `exec`. -/
theorem exec_keeps {R : State → State → Prop} {s x : State} (hx : Keeps R s x) :
    ∀ c : Instr, Closed R (storesMem c) (writesHost c) → KeepsNext R s (exec c x)
  | .registerWrite .., kr => execRegisterWrite_keeps kr hx
  | .badAccess .., kr => execBadAccess_keeps kr hx
  | .rcRead .., kr => execRcRead_keeps kr hx
  | .assay .., kr => execAssay_keeps kr hx
  | .disableCheck .., kr => execDisableCheck_keeps kr hx
  | .assayDone .., kr => execAssayDone_keeps kr hx
  | .reset .., kr => execReset_keeps kr hx
  | .resetComplete .., kr => execResetComplete_keeps kr hx
  | .timeLatch, kr => execTimeLatch_keeps kr hx
  | .load, kr => execLoad_keeps kr hx
  | .compareWrite .., kr => execCompareWrite_keeps kr hx
  | .compare, kr => execCompare_keeps kr hx
  | .syncInterval, kr => execSyncInterval_keeps kr hx
  | .holdover .., kr => execHoldover_keeps kr hx
  | .tallyWrite .., kr => execTallyWrite_keeps kr hx
  | .tallyUpdate .., kr => execTallyUpdate_keeps kr hx
  | .tallySnapshot .., kr => execTallySnapshot_keeps kr hx
  | .snapValid, kr => execSnapValid_keeps kr hx
  | .clearAll, kr => execClearAll_keeps kr hx
  | .clearComplete, kr => execClearComplete_keeps kr hx
  | .tblQuery .., kr => execTblQuery_keeps kr hx
  | .tblQueryDone .., kr => execTblQueryDone_keeps kr hx
  | .invalidate .., kr => execInvalidate_keeps kr hx
  | .invDone .., kr => execInvDone_keeps kr hx
  | .retrain .., kr => execRetrain_keeps kr hx
  | .read, kr => execRead_keeps kr hx
  | .write, kr => execWrite_keeps kr hx
  | .stage, kr => execStage_keeps kr hx
  | .discardStaged, kr => execDiscardStaged_keeps kr hx
  | .undefinedEntryOp .., kr => execUndefinedEntryOp_keeps kr hx
  | .flush, kr => execFlush_keeps kr hx
  | .enable, kr => execEnable_keeps kr hx
  | .disable, kr => execDisable_keeps kr hx
  | .sqTail .., kr => execSqTail_keeps kr hx
  | .cqHead .., kr => execCqHead_keeps kr hx
  | .errHead .., kr => execErrHead_keeps kr hx
  | .msixUnmask .., kr => execMsixUnmask_keeps kr hx
  | .decoderCommit .., kr => execDecoderCommit_keeps kr hx
  | .epochStart, kr => execEpochStart_keeps kr hx
  | .epochStop, kr => execEpochStop_keeps kr hx
  | .close, kr => execClose_keeps kr hx
  | .cfgLock, kr => execCfgLock_keeps kr hx
  | .updateBegin .., kr => execUpdateBegin_keeps kr hx
  | .updateData .., kr => execUpdateData_keeps kr hx
  | .updateEnd .., kr => execUpdateEnd_keeps kr hx
  | .updateAbort .., kr => execUpdateAbort_keeps kr hx
  | .profileWrite .., kr => execProfileWrite_keeps kr hx
  | .profileSelectNext .., kr => execProfileSelectNext_keeps kr hx
  | .profileRead .., kr => execProfileRead_keeps kr hx
  | .clearBootCount .., kr => execClearBootCount_keeps kr hx
  | .enterStrongbox .., kr => execEnterStrongbox_keeps kr hx
  | .fuseSvn .., kr => execFuseSvn_keeps kr hx
  | .revokeSlot .., kr => execRevokeSlot_keeps kr hx
  | .diagTrain .., kr => execDiagTrain_keeps kr hx
  | .diagPort _ lanes, kr => execDiagPort_keeps (a1 := lanes) kr hx
  | .recordRead .., kr => execRecordRead_keeps kr hx
  | .undefinedMcOp .., kr => execUndefinedMcOp_keeps kr hx
  | .mctpRequest .., kr => execMctpRequest_keeps kr hx
  | .sessionTimeout, kr => execSessionTimeout_keeps kr hx
  | .doeObject .., kr => execDoeObject_keeps kr hx
  | .ideFail .., kr => execIdeFail_keeps kr hx
  | .cxlMemRead .., kr => execCxlMemRead_keeps kr hx
  | .cxlMemWrite .., kr => execCxlMemWrite_keeps kr hx
  | .submissionLineSnoop .., kr => execSubmissionLineSnoop_keeps kr hx
  | .auxPowerUp .., kr => execAuxPowerUp_keeps kr hx
  | .auxPowerLoss, kr => execAuxPowerLoss_keeps kr hx
  | .pwrGood, kr => execPwrGood_keeps kr hx
  | .pwrGoodDeassert, kr => execPwrGoodDeassert_keeps kr hx
  | .p54Undervoltage .., kr => execP54Undervoltage_keeps kr hx
  | .p54Overvoltage .., kr => execP54Overvoltage_keeps kr hx
  | .perstRelease .., kr => execPerstRelease_keeps kr hx
  | .perstAssert, kr => execPerstAssert_keeps kr hx
  | .cxlReset, kr => execCxlReset_keeps kr hx
  | .functionLevelReset, kr => execFunctionLevelReset_keeps kr hx
  | .cxlLinkTrained .., kr => execCxlLinkTrained_keeps kr hx
  | .imageVerify .., kr => execImageVerify_keeps kr hx
  | .memoryTraining .., kr => execMemoryTraining_keeps kr hx
  | .profileApply, kr => execProfileApply_keeps kr hx
  | .deviceReady, kr => execDeviceReady_keeps kr hx
  | .bootRestart, kr => execBootRestart_keeps kr hx
  | .bootWatchdog, kr => execBootWatchdog_keeps kr hx
  | .recordWrite .., kr => execRecordWrite_keeps kr hx
  | .compaction, kr => execCompaction_keeps kr hx
  | .descriptorFetch .., kr => execDescriptorFetch_keeps kr hx
  | .admission .., kr => execAdmission_keeps kr hx
  | .tableSwitch .., kr => execTableSwitch_keeps kr hx
  | .ctxSet .., kr => execCtxSet_keeps kr hx
  | .join .., kr => execJoin_keeps kr hx
  | .mark .., kr => execMark_keeps kr hx
  | .cond .., kr => execCond_keeps kr hx
  | .retry .., kr => execRetry_keeps kr hx
  | .delayTick .., kr => execDelayTick_keeps kr hx
  | .deadlineExpiry .., kr => execDeadlineExpiry_keeps kr hx
  | .taskDispatch .., kr => execTaskDispatch_keeps kr hx
  | .taskComplete .., kr => execTaskComplete_keeps kr hx
  | .completionRecord .., kr => execCompletionRecord_keeps kr hx
  | .statusLineWrite .., kr => execStatusLineWrite_keeps kr hx
  | .ringCoalesce .., kr => execRingCoalesce_keeps kr hx
  | .errorRecord, kr => execErrorRecord_keeps kr hx
  | .tableDrained .., kr => execTableDrained_keeps kr hx
  | .matmul .., kr => execMatmul_keeps kr hx
  | .pin .., kr => execPin_keeps kr hx
  | .rowTileCheck .., kr => execRowTileCheck_keeps kr hx
  | .residueRecompute .., kr => execResidueRecompute_keeps kr hx
  | .partnerRun .., kr => execPartnerRun_keeps kr hx
  | .convert .., kr => execConvert_keeps kr hx
  | .prune24 .., kr => execPrune24_keeps kr hx
  | .compress .., kr => execCompress_keeps kr hx
  | .decompress .., kr => execDecompress_keeps kr hx
  | .gather .., kr => execGather_keeps kr hx
  | .poolSum .., kr => execPoolSum_keeps kr hx
  | .poolMean .., kr => execPoolMean_keeps kr hx
  | .unique .., kr => execUnique_keeps kr hx
  | .scatter .., kr => execScatter_keeps kr hx
  | .coalesceProbe .., kr => execCoalesceProbe_keeps kr hx
  | .coalesceEntryFilled .., kr => execCoalesceEntryFilled_keeps kr hx
  | .fragmentTake .., kr => execFragmentTake_keeps kr hx
  | .splitSlotDecrement .., kr => execSplitSlotDecrement_keeps kr hx
  | .reduce .., kr => execReduce_keeps kr hx
  | .predict .., kr => execPredict_keeps kr hx
  | .run .., kr => execRun_keeps kr hx
  | .wpool .., kr => execWpool_keeps kr hx
  | .tileHandoff .., kr => execTileHandoff_keeps kr hx
  | .endMarker .., kr => execEndMarker_keeps kr hx
  | .nop .., kr => execNop_keeps kr hx
  | .setvl .., kr => execSetvl_keeps kr hx
  | .ldi .., kr => execLdi_keeps kr hx
  | .laneid .., kr => execLaneid_keeps kr hx
  | .flagrd .., kr => execFlagrd_keeps kr hx
  | .summ .., kr => execSumm_keeps kr hx
  | .ld .., kr => execLd_keeps kr hx
  | .st .., kr => execSt_keeps kr hx
  | .ldx .., kr => execLdx_keeps kr hx
  | .stx .., kr => execStx_keeps kr hx
  | .stxadd .., kr => execStxadd_keeps kr hx
  | .accrd .., kr => execAccrd_keeps kr hx
  | .fadd .., kr => execFadd_keeps kr hx
  | .fsub .., kr => execFsub_keeps kr hx
  | .fmul .., kr => execFmul_keeps kr hx
  | .fma .., kr => execFma_keeps kr hx
  | .fmin .., kr => execFmin_keeps kr hx
  | .fmax .., kr => execFmax_keeps kr hx
  | .fabs .., kr => execFabs_keeps kr hx
  | .fneg .., kr => execFneg_keeps kr hx
  | .fdiv .., kr => execFdiv_keeps kr hx
  | .fsqrt .., kr => execFsqrt_keeps kr hx
  | .fcmp .., kr => execFcmp_keeps kr hx
  | .sel .., kr => execSel_keeps kr hx
  | .exp .., kr => execExp_keeps kr hx
  | .exp2 .., kr => execExp2_keeps kr hx
  | .log .., kr => execLog_keeps kr hx
  | .log2 .., kr => execLog2_keeps kr hx
  | .rcp .., kr => execRcp_keeps kr hx
  | .rsqrt .., kr => execRsqrt_keeps kr hx
  | .tanh .., kr => execTanh_keeps kr hx
  | .sigmoid .., kr => execSigmoid_keeps kr hx
  | .erf .., kr => execErf_keeps kr hx
  | .iadd .., kr => execIadd_keeps kr hx
  | .isub .., kr => execIsub_keeps kr hx
  | .imul .., kr => execImul_keeps kr hx
  | .imin .., kr => execImin_keeps kr hx
  | .imax .., kr => execImax_keeps kr hx
  | .and .., kr => execAnd_keeps kr hx
  | .or .., kr => execOr_keeps kr hx
  | .xor .., kr => execXor_keeps kr hx
  | .shl .., kr => execShl_keeps kr hx
  | .shr .., kr => execShr_keeps kr hx
  | .sra .., kr => execSra_keeps kr hx
  | .icmp .., kr => execIcmp_keeps kr hx
  | .cvtfi .., kr => execCvtfi_keeps kr hx
  | .cvtif .., kr => execCvtif_keeps kr hx
  | .qnt .., kr => execQnt_keeps kr hx
  | .perm .., kr => execPerm_keeps kr hx
  | .cmprs .., kr => execCmprs_keeps kr hx
  | .expnd .., kr => execExpnd_keeps kr hx
  | .scan .., kr => execScan_keeps kr hx
  | .red .., kr => execRed_keeps kr hx
  | .redResult .., kr => execRedResult_keeps kr hx
  | .smax .., kr => execSmax_keeps kr hx
  | .exchange .., kr => execExchange_keeps kr hx
  | .migrate .., kr => execMigrate_keeps kr hx
  | .allReduce .., kr => execAllReduce_keeps kr hx
  | .allGather .., kr => execAllGather_keeps kr hx
  | .reduceScatter .., kr => execReduceScatter_keeps kr hx
  | .barrier .., kr => execBarrier_keeps kr hx
  | .peerStall .., kr => execPeerStall_keeps kr hx
  | .batchNs .., kr => execBatchNs_keeps kr hx
  | .rtsRetry .., kr => execRtsRetry_keeps kr hx
  | .readReq, kr => execReadReq_keeps kr hx
  | .readRsp, kr => execReadRsp_keeps kr hx
  | .writeReq, kr => execWriteReq_keeps kr hx
  | .writeAck, kr => execWriteAck_keeps kr hx
  | .exchData, kr => execExchData_keeps kr hx
  | .exchAck, kr => execExchAck_keeps kr hx
  | .rts, kr => execRts_keeps kr hx
  | .cts, kr => execCts_keeps kr hx
  | .collData, kr => execCollData_keeps kr hx
  | .collAck, kr => execCollAck_keeps kr hx
  | .commitVote, kr => execCommitVote_keeps kr hx
  | .commitCommit, kr => execCommitCommit_keeps kr hx
  | .commitAbort, kr => execCommitAbort_keeps kr hx
  | .commitStart, kr => execCommitStart_keeps kr hx
  | .slow, kr => execSlow_keeps kr hx
  | .sync .., kr => execSync_keeps kr hx
  | .delayReq, kr => execDelayReq_keeps kr hx
  | .delayRsp, kr => execDelayRsp_keeps kr hx
  | .inval, kr => execInval_keeps kr hx
  | .invalAck, kr => execInvalAck_keeps kr hx
  | .replicaInstall, kr => execReplicaInstall_keeps kr hx
  | .dataFrame .., kr => execDataFrame_keeps kr hx
  | .idleFrame .., kr => execIdleFrame_keeps kr hx
  | .identityFrame .., kr => execIdentityFrame_keeps kr hx
  | .linkTraining .., kr => execLinkTraining_keeps kr hx
  | .linkSilence .., kr => execLinkSilence_keeps kr hx
  | .retrainingComplete .., kr => execRetrainingComplete_keeps kr hx
  | .serWindow .., kr => execSerWindow_keeps kr hx
  | .laneRepair .., kr => execLaneRepair_keeps kr hx
  | .stackAccess .., kr => execStackAccess_keeps kr hx
  | .scrubRead .., kr => execScrubRead_keeps kr hx
  | .rowRemap .., kr => execRowRemap_keeps kr hx
  | .pageRetire .., kr => execPageRetire_keeps kr hx
  | .vaultAccess .., kr => execVaultAccess_keeps kr hx
  | .accumulate .., kr => execAccumulate_keeps kr hx
  | .cacheAccess .., kr => execCacheAccess_keeps kr hx
  | .cacheFill .., kr => execCacheFill_keeps kr hx
  | .mergeDrain .., kr => execMergeDrain_keeps kr hx
  | .sensorSample .., kr => execSensorSample_keeps kr hx
  | .thermalTrip .., kr => execThermalTrip_keeps kr hx
  | .powerMeasure .., kr => execPowerMeasure_keeps kr hx
  | .capStep, kr => execCapStep_keeps kr hx
  | .juncThrottle .., kr => execJuncThrottle_keeps kr hx
  | .capUnmet, kr => execCapUnmet_keeps kr hx
  | .ccWatchdog .., kr => execCcWatchdog_keeps kr hx
  | .closeInstant, kr => execCloseInstant_keeps kr hx
  | .drainComplete, kr => execDrainComplete_keeps kr hx
  | .faultReport .., kr => execFaultReport_keeps kr hx
  | .fabricDrain, kr => execFabricDrain_keeps kr hx
  | .restore .., kr => execRestore_keeps kr hx
  | .diagnosis .., kr => execDiagnosis_keeps kr hx
  | .resumeLimit, kr => execResumeLimit_keeps kr hx
  | .p54WithinRange, kr => execP54WithinRange_keeps kr hx
  | .lossOfDeskew .., kr => execLossOfDeskew_keeps kr hx
  | .lossOfLock .., kr => execLossOfLock_keeps kr hx
  | .loopbackSelftest .., kr => execLoopbackSelftest_keeps kr hx
  | .mcFirmwareWatchdog, kr => execMcFirmwareWatchdog_keeps kr hx

/-! ### The step -/

theorem step_of_pending_nil {s : State} (hp : s.pending = []) : step s = .next (tick s) := by
  unfold step
  rw [hp]

theorem step_of_pending_cons {s : State} {c : Instr} {rest : List Instr} (hp : s.pending = c :: rest) :
    step s = exec c { s with pending := rest } := by
  unfold step
  rw [hp]

/-- A step, of a command or of a tick, keeps of the state without the front command what no operation changes. -/
theorem step_kept {s t : State} (h : step s = .next t) : Kept { s with pending := s.pending.tail } t := by
  cases hp : s.pending with
  | nil =>
    have popped : { s with pending := [] } = s := by rw [← hp]
    rw [step_of_pending_nil hp] at h
    cases h
    rw [List.tail_nil, popped]
    exact tick_keeps kept_closed (keeps_iff.2 (Kept.refl s)) _ rfl
  | cons c rest =>
    rw [step_of_pending_cons hp] at h
    exact exec_keeps (keeps_iff.2 (Kept.refl _)) c (kept_closed.mono (fun _ => rfl) fun _ => rfl) t h

/-- Settles O5: the queue, the variant, the serial number, the keys and the secret are among what `Kept` says every command
and the tick keep, and taking the front command changes only the queue. -/
theorem stepKeepsModule : Obligations.StepKeepsModule := by
  intro s t h
  have k := step_kept h
  exact ⟨⟨k.same.variant, k.same.serial, k.same.keys, k.same.secret⟩, k.pending⟩

end Sys2Proof.Machine
end

section
/-! PROOFS. A row tile that mismatches (R174): the fields its runs write read back through the writes that follow, whether an
array may be a partner does not depend on those writes, and the two runs end as the statement about residues says. -/

namespace Sys2Proof.Machine

open Sys2Proof

namespace Residues

/-! ### Fields of registers that another update does not write -/

theorem isUnit_unitMA {n : Nat} (h : n < 48) : isUnit (unitMA n) = true := by
  have hq : n / 12 < 4 := by omega
  have hi : n % 12 < 12 := Nat.mod_lt _ (by decide)
  simp [isUnit, unitMA, unitOf, perQuarter, isDeviceType, hq, hi]

section
variable (s : State) {u u' : UnitId} {off' hi' lo' : Nat} (hu : isUnit u = true) (hu' : isUnit u' = true) (ho' : off' < 0x1000)

include hu hu' ho'

/-- Writing a field leaves a field of another offset, or beside it at the same offset, alone on every page. -/
theorem getF_setF_apart {off hi lo : Nat} (v : Nat) (ho : off < 0x1000) (h64 : hi < 64) (h : off' ≠ off ∨ hi < lo' ∨ hi' < lo) :
    getF (setF s u off hi lo v) u' off' hi' lo' = getF s u' off' hi' lo' := by
  by_cases hx : pageOf u' + off' = pageOf u + off
  · obtain ⟨rfl, rfl⟩ := page_inj hu' hu ho' ho hx
    exact getF_setF_ne s u' off' hi lo v hi' lo' h64 (h.resolve_left fun hne => hne rfl)
  · unfold getF setF
    rw [getReg_setReg_addr s hx]

/-- An engine's record leaves every field alone but STATUS TILLS. -/
theorem getF_setEng_apart (e : Engine) (h : off' ≠ 0x18 ∨ 17 < lo' ∨ hi' < 16) :
    getF (setEng s u e) u' off' hi' lo' = getF s u' off' hi' lo' :=
  getF_setF_apart { s with eng := tblSet (fun _ => {}) s.eng (pageOf u) e } hu hu' ho' _ (by decide) (by decide) h

/-- An error bit leaves every field alone but those of ERR_SUMMARY and INT_STATUS. -/
theorem getF_raiseErr_apart (b : Nat) (h28 : off' ≠ 0x28) (h30 : off' ≠ 0x30) :
    getF (raiseErr s u b) u' off' hi' lo' = getF s u' off' hi' lo' := by
  have apart {off : Nat} (ho : off < 0x1000) (h : off' ≠ off) : pageOf u' + off' ≠ pageOf u + off :=
    fun hx => h (page_inj hu' hu ho' ho hx).2
  unfold getF
  rw [getReg_raiseErr_addr s b (apart (by decide) h28) (apart (by decide) h30)]

end

/-- A field reads as the value written to it when the value fits. -/
theorem getF_setF_fits (s : State) (u : UnitId) (off : Nat) {hi lo v : Nat} (h : hi < 64) (hv : v < 2 ^ (hi + 1 - lo)) :
    getF (setF s u off hi lo v) u off hi lo = v := by
  rw [getF_setF_same s u off hi lo v h, Nat.mod_eq_of_lt hv]

theorem getF_raiseErr_same (s : State) (u : UnitId) {b : Nat} (h : b < 64) : getF (raiseErr s u b) u 0x28 b b = 1 := by
  unfold getF
  rw [getReg_raiseErr_same]
  exact (field_putField_same _ _ _ _ h).trans (Nat.mod_eq_of_lt (Nat.one_lt_two_pow (by omega)))

/-- A saturating count reads as the sum, or as the most its field holds. -/
theorem getF_bump_same (s : State) (u : UnitId) (off hi lo n : Nat) {most : Nat} (h : hi < 64) (hmost : 2 ^ (hi + 1 - lo) - 1 = most) :
    getF (bump s u off hi lo n) u off hi lo = min (getF s u off hi lo + n) most := by
  have hpos := Nat.two_pow_pos (hi + 1 - lo)
  unfold bump satAdd
  rw [getF_setF_fits s u off h (by omega), hmost]

theorem getF_of_regsKept {l : List (UnitId × List Nat)} {s t : State} (h : RegsKept l s t) {u : UnitId} {off : Nat}
    (hu : isUnit u = true) (ho : off < 0x1000) (hc : ∀ e ∈ l, e.1 = u → off ∉ e.2) (hi lo : Nat) :
    getF t u off hi lo = getF s u off hi lo := by
  unfold getF
  rw [h u off hu ho hc]

/-! ### The parts that an update of registers or of an array leaves alone -/

section
variable {ps : List Part} {s x : State} (h : Only ps s x) (hr : Part.regs ∈ ps)

include h hr

theorem only_setEng (he : Part.eng ∈ ps) (u : UnitId) (e : Engine) : Only ps s (setEng x u e) :=
  only_setF (only_trans h fun p hp => by
    cases p
    case eng => exact absurd he hp
    all_goals rfl) hr u 0x18 17 16 e.tills.length

theorem only_setMaRun (he : Part.eng ∈ ps) (n : Nat) (r : MaRun) : Only ps s (setMaRun x n r) := only_setEng h hr he _ _

theorem only_bump (u : UnitId) (off hi lo n : Nat) : Only ps s (bump x u off hi lo n) := only_setF h hr u off hi lo _

theorem only_lastResidue (n hi lo v : Nat) : Only ps s (lastResidue x n hi lo v) := only_setF h hr _ _ hi lo v

end

/-! ### An array's work -/

theorem engOf_congr {s t : State} (h : t.eng = s.eng) (u : UnitId) : engOf t u = engOf s u := by
  unfold engOf
  rw [h]

theorem maRunOf_congr {s t : State} (h : t.eng = s.eng) (n : Nat) : maRunOf t n = maRunOf s n := by
  unfold maRunOf
  rw [engOf_congr h]

theorem maRunOf_setMaRun (s : State) (n : Nat) (r : MaRun) : maRunOf (setMaRun s n r) n = r := by
  unfold maRunOf setMaRun
  rw [engOf_setEng]

theorem transients_setMaRun (s : State) (n : Nat) (r : MaRun) :
    (engOf (setMaRun s n r) (unitMA n)).transients = (engOf s (unitMA n)).transients := by
  unfold setMaRun
  rw [engOf_setEng]

theorem getF_setMaRun_apart (s : State) {n : Nat} (hn : n < 48) (r : MaRun) {u' : UnitId} {off' hi' lo' : Nat} (hu' : isUnit u' = true)
    (ho' : off' < 0x1000) (h : off' ≠ 0x18 ∨ 17 < lo' ∨ hi' < 16) :
    getF (setMaRun s n r) u' off' hi' lo' = getF s u' off' hi' lo' :=
  getF_setEng_apart s (isUnit_unitMA hn) hu' ho' _ h

/-- Work that does not wait clears both wait bits (R30). -/
theorem engineWork_of_done {s t : State} {u : UnitId} {f : State → State}
    (hf : f { startFront s u with rem := { s.rem with wait := false, full := none } } = t) (hw : t.rem.wait = false) :
    engineWork s u f = setF t u 0x18 19 18 0 := by
  have hrem : (startFront s u).rem = s.rem := setEng_rem ..
  simp only [engineWork, hrem, hf, hw, Bool.false_eq_true, if_false]

/-- A drain that does not wait clears OUT_WAIT (R179). -/
theorem drainWork_of_done {s t : State} {u : UnitId} {f : State → State}
    (hf : f { s with rem := { s.rem with wait := false, full := none } } = t) (hw : t.rem.wait = false) :
    drainWork s u f = setF t u 0x18 19 19 0 := by
  simp only [drainWork, hf, hw, Bool.false_eq_true, if_false]

/-- A tile for the vector engine stays in the cells when it passes, and memory is not written (R168). -/
theorem drainTile_toVector (s : State) (n by_ : Nat) {t : Task} (c : List (List ExactNum)) (h : maDest t.desc = 2) :
    ∃ r, drainTile s n by_ t c = setMaRun (bump64 s (unitMA by_) 0x138 1) n r ∧ r.phase = .passed ∧ r.cells = c ∧
      r.byArray = some by_ := by
  simp only [drainTile, h]
  exact ⟨_, rfl, rfl, rfl, rfl⟩

theorem only_drainTile_toVector {ps : List Part} {s x : State} (h : Only ps s x) (hr : Part.regs ∈ ps) (he : Part.eng ∈ ps)
    (n by_ : Nat) {t : Task} (c : List (List ExactNum)) (hd : maDest t.desc = 2) : Only ps s (drainTile x n by_ t c) := by
  obtain ⟨r, hdrain, -⟩ := drainTile_toVector x n by_ c hd
  rw [hdrain]
  exact only_setMaRun (only_bump h hr _ _ _ _ _) hr he n r

/-! ### The choice of a partner (R175) -/

theorem partnerUsable_congr {s t : State} {p : Nat} (hv : t.variant = s.variant) (h10 : getReg t (unitMA p) 0x10 = getReg s (unitMA p) 0x10)
    (h18 : getReg t (unitMA p) 0x18 = getReg s (unitMA p) 0x18) : partnerUsable t p = partnerUsable s p := by
  unfold partnerUsable usable present enabled retired resetting assayBusy getF
  rw [hv, h10, h18]

theorem lt_of_mem_quarterArrays {n m : Nat} (hn : n < 48) (h : m ∈ quarterArrays n) : m < 48 := by
  simp only [quarterArrays, List.mem_filter, List.mem_map, List.mem_range] at h
  omega

/-- The choice looks at no register but CTRL and STATUS. -/
theorem choosePartner_congr {s t : State} {n : Nat} {l : List (UnitId × List Nat)} (hn : n < 48) (hk : RegsKept l s t)
    (hv : t.variant = s.variant) (hl : ∀ e ∈ l, 0x10 ∉ e.2 ∧ 0x18 ∉ e.2) (x : Task) (r : MaRun) :
    choosePartner t n x r = choosePartner s n x r := by
  have usableSame {p : Nat} (hp : p < 48) : partnerUsable t p = partnerUsable s p :=
    partnerUsable_congr hv (hk _ _ (isUnit_unitMA hp) (by decide) fun e he _ => (hl e he).1)
      (hk _ _ (isUnit_unitMA hp) (by decide) fun e he _ => (hl e he).2)
  have own : (if n % 2 = 0 then n + 1 else n - 1) < 48 := by split <;> omega
  have others : (quarterArrays n).find? (partnerUsable t) = (quarterArrays n).find? (partnerUsable s) := by
    rw [← List.head?_filter, ← List.head?_filter, List.filter_congr fun m hm => usableSame (lt_of_mem_quarterArrays hn hm)]
  simp only [choosePartner, usableSame own, others]

theorem regsKept_setF {l : List (UnitId × List Nat)} {s x : State} (h : RegsKept l s x) {u : UnitId} {off : Nat} (hi lo v : Nat)
    (hu : isUnit u = true) (ho : off < 0x1000) (hm : ∃ e ∈ l, e.1 = u ∧ off ∈ e.2) : RegsKept l s (setF x u off hi lo v) :=
  regsKept_setReg h _ hu ho hm

theorem regsKept_trans {l : List (UnitId × List Nat)} {s x y : State} (h1 : RegsKept l s x) (h2 : RegsKept l x y) : RegsKept l s y :=
  fun u off hu ho hc => (h2 u off hu ho hc).trans (h1 u off hu ho hc)

theorem regsKept_noteMismatch {n : Nat} (hn : n < 48) (s : State) (tile : Nat) (bad : List Nat) :
    RegsKept [(unitMA n, [0x120])] s (noteMismatch s n tile bad) := by
  have field {x : State} (h : RegsKept [(unitMA n, [0x120])] s x) (hi lo v : Nat) :
      RegsKept [(unitMA n, [0x120])] s (lastResidue x n hi lo v) :=
    regsKept_setF h hi lo v (isUnit_unitMA hn) (by decide) ⟨_, List.mem_singleton_self _, rfl, List.mem_singleton_self _⟩
  exact field (field (field (field (field (regsKept_refl _ s) _ _ _) _ _ _) _ _ _) _ _ _) _ _ _

theorem noteMismatch_only (s : State) (n tile : Nat) (bad : List Nat) : Only [.regs] s (noteMismatch s n tile bad) := by
  have field {x : State} (h : Only [.regs] s x) (hi lo v : Nat) : Only [.regs] s (lastResidue x n hi lo v) :=
    only_lastResidue h (by decide) n hi lo v
  exact field (field (field (field (field (only_refl _ s) _ _ _) _ _ _) _ _ _) _ _ _) _ _ _

/-! ### The second run (R174 steps 2 to 4) -/

/-- A second run without a mismatch is counted as a transient of the epoch (R174 step 3). -/
def countTransient (s : State) (n : Nat) : State :=
  setEng (raiseErr (bump s (unitMA n) 0x118 31 0 1) (unitMA n) 18) (unitMA n)
    { engOf s (unitMA n) with transients := (engOf s (unitMA n)).transients + 1 }

theorem drained_only (s : State) (n : Nat) {x : Task} (c : List (List ExactNum)) (hd : maDest x.desc = 2) :
    Only [.regs, .hi, .eng] s (drainTile (lastResidue (countTransient s n) n 39 32 1) n n x c) := by
  have counted : Only [.regs, .hi, .eng] s (countTransient s n) :=
    only_setEng (only_raiseErr (only_bump (only_refl _ s) (by decide) _ _ _ _ _) (by decide) (by decide) _ _) (by decide) (by decide) _ _
  exact only_drainTile_toVector (only_lastResidue counted (by decide) _ _ _ _) (by decide) (by decide) n n c hd

/-- The task pauses and asks array `p` (R174 step 4). -/
def askPartner (s : State) (n p : Nat) (bad : List Nat) (limited : Bool) : State :=
  setMaRun
    (lastResidue (setF (setF (raiseErr (bump s (unitMA n) 0x118 47 32 1) (unitMA n) 19) (unitMA n) 0x18 20 20 1) (unitMA p) 0x18 21 21 1)
      n 7 0 p) n
    { maRunOf s n with phase := .paused, bad := bad, limited := limited, partner := some p, cells := [] }

theorem askPartner_only (s : State) (n p : Nat) (bad : List Nat) (limited : Bool) :
    Only [.regs, .hi, .eng] s (askPartner s n p bad limited) := by
  have counted : Only [.regs, .hi, .eng] s (raiseErr (bump s (unitMA n) 0x118 47 32 1) (unitMA n) 19) :=
    only_raiseErr (only_bump (only_refl _ s) (by decide) _ _ _ _ _) (by decide) (by decide) _ _
  have asked := only_setF (only_setF counted (by decide) (unitMA n) 0x18 20 20 1) (by decide) (unitMA p) 0x18 21 21 1
  exact only_setMaRun (only_lastResidue asked (by decide) _ _ _ _) (by decide) (by decide) _ _

theorem pauseTile_asks {s : State} {n p : Nat} {x : Task} (hp : choosePartner s n x (maRunOf s n) = some p) (bad : List Nat)
    (limited : Bool) : pauseTile s n x bad limited = askPartner s n p bad limited := by
  simp only [pauseTile, hp, askPartner]

section
variable {s s1 : State} {n : Nat} {x : Task} {c : List (List ExactNum)} (hn : n < 48) (hf : frontTask s (unitMA n) 1 = some x)
  (hph : (maRunOf s n).phase = .again) (hw : s1.rem.wait = false)
  (hrun : runTile { startFront s (unitMA n) with rem := { s.rem with wait := false, full := none } } n n x = (s1, .cells c))

include hn hf hph hw hrun

/-- Without a mismatch and below the limit the second run counts a transient and drains (R174 step 3). -/
theorem residueRecompute_drains (hd : maDest x.desc = 2) (hlim : (engOf s1 (unitMA n)).transients + 1 < getF s1 (unitMA n) 0x110 7 0) :
    residueRecompute s n [] = setF (drainTile (lastResidue (countTransient s1 n) n 39 32 1) n n x c) (unitMA n) 0x18 19 18 0 := by
  have hu := isUnit_unitMA hn
  have limit : getF (countTransient s1 n) (unitMA n) 0x110 7 0 = getF s1 (unitMA n) 0x110 7 0 := by
    simp [countTransient, bump, getF_setEng_apart, getF_raiseErr_apart, getF_setF_apart, hu]
  rw [← limit] at hlim
  simp only [residueRecompute, hf, hph, ne_eq, not_true_eq_false, if_false]
  apply engineWork_of_done
  · unfold countTransient at hlim ⊢
    simp only [hrun, List.isEmpty_nil, if_true, hlim]
  · rw [drained_only s1 n c hd .rem (by decide), hw]

/-- With a mismatch the second run pauses the task and asks the partner R175 chooses (R174 step 4). -/
theorem residueRecompute_asks {bad : List Nat} {p : Nat} (hb : bad ≠ []) (hp : choosePartner s1 n x (maRunOf s1 n) = some p) :
    residueRecompute s n bad =
      setF (askPartner (noteMismatch s1 n (maRunOf s1 n).tile bad) n p bad false) (unitMA n) 0x18 19 18 0 := by
  have sameRun : maRunOf (noteMismatch s1 n (maRunOf s1 n).tile bad) n = maRunOf s1 n :=
    maRunOf_congr (noteMismatch_only s1 n _ bad .eng (by decide)) n
  have chosen : choosePartner (noteMismatch s1 n (maRunOf s1 n).tile bad) n x (maRunOf (noteMismatch s1 n (maRunOf s1 n).tile bad) n) =
      some p := by
    rw [sameRun, choosePartner_congr hn (regsKept_noteMismatch hn s1 _ _) (noteMismatch_only s1 n _ bad .variant (by decide)) (by simp), hp]
  simp only [residueRecompute, hf, hph, ne_eq, not_true_eq_false, if_false]
  apply engineWork_of_done
  · simp only [hrun, List.isEmpty_iff, hb, if_false]
    exact pauseTile_asks chosen bad false
  · rw [askPartner_only _ n p bad false .rem (by decide), noteMismatch_only s1 n _ bad .rem (by decide), hw]

theorem residueRecompute_transient (hd : maDest x.desc = 2) (hlim : (engOf s1 (unitMA n)).transients + 1 < getF s1 (unitMA n) 0x110 7 0) :
    ∃ t, Machine.exec (.residueRecompute n []) s = .next t ∧ (maRunOf t n).phase = .passed ∧ (maRunOf t n).cells = c ∧
      getF t (unitMA n) 0x118 31 0 = min (getF s1 (unitMA n) 0x118 31 0 + 1) (2 ^ 32 - 1) ∧ getF t (unitMA n) 0x120 39 32 = 1 ∧
      getF t (unitMA n) 0x28 18 18 = 1 ∧ (engOf t (unitMA n)).transients = (engOf s1 (unitMA n)).transients + 1 ∧ t.mem = s1.mem := by
  have hu := isUnit_unitMA hn
  have memSame := drained_only s1 n c hd .mem (by decide)
  obtain ⟨r, hr, hpassed, hcells, -⟩ := drainTile_toVector (lastResidue (countTransient s1 n) n 39 32 1) n n c hd
  rw [hr] at memSame
  refine ⟨_, rfl, ?_⟩
  rw [residueRecompute_drains hn hf hph hw hrun hd hlim, hr, maRunOf_congr (setF_eng ..), maRunOf_setMaRun]
  refine ⟨hpassed, hcells, ?_, ?_, ?_, ?_, ?_⟩
  · rw [← getF_bump_same s1 (unitMA n) 0x118 31 0 1 (by decide) rfl]
    simp [getF_setF_apart, getF_setMaRun_apart, bump64, bump, lastResidue, countTransient, getF_setEng_apart, getF_raiseErr_apart, hu, hn]
  · simp [getF_setF_apart, getF_setMaRun_apart, bump64, bump, lastResidue, getF_setF_fits, hu, hn]
  · simp [getF_setF_apart, getF_setMaRun_apart, bump64, bump, lastResidue, countTransient, getF_setEng_apart, getF_raiseErr_same, hu, hn]
  · rw [engOf_congr (setF_eng ..), transients_setMaRun, bump64, bump, engOf_congr (setF_eng ..), lastResidue,
      engOf_congr (setF_eng ..), countTransient, engOf_setEng]
  · rw [setF_mem, memSame]

theorem residueRecompute_pauses {bad : List Nat} {p : Nat} (hb : bad ≠ []) (hp48 : p < 48)
    (hp : choosePartner s1 n x (maRunOf s1 n) = some p) :
    ∃ t, Machine.exec (.residueRecompute n bad) s = .next t ∧ (maRunOf t n).phase = .paused ∧ (maRunOf t n).bad = bad ∧
      (maRunOf t n).partner = some p ∧ getF t (unitMA n) 0x120 7 0 = p ∧ getF t (unitMA n) 0x18 20 20 = 1 ∧
      getF t (unitMA p) 0x18 21 21 = 1 ∧ getF t (unitMA n) 0x118 47 32 = min (getF s1 (unitMA n) 0x118 47 32 + 1) 65535 ∧
      t.mem = s1.mem := by
  have hu := isUnit_unitMA hn
  have hup := isUnit_unitMA hp48
  have memSame := askPartner_only (noteMismatch s1 n (maRunOf s1 n).tile bad) n p bad false .mem (by decide)
  have countSame : getF (noteMismatch s1 n (maRunOf s1 n).tile bad) (unitMA n) 0x118 47 32 = getF s1 (unitMA n) 0x118 47 32 :=
    getF_of_regsKept (regsKept_noteMismatch hn s1 _ _) hu (by decide) (by simp) 47 32
  refine ⟨_, rfl, ?_⟩
  rw [residueRecompute_asks hn hf hph hw hrun hb hp]
  unfold askPartner at memSame ⊢
  rw [maRunOf_congr (setF_eng ..), maRunOf_setMaRun]
  refine ⟨rfl, rfl, rfl, ?_, ?_, ?_, ?_, ?_⟩
  · have fits : p < 2 ^ (7 + 1 - 0) := by omega
    rw [getF_setF_apart _ hu hu (by decide) _ (by decide) (by decide) (by decide),
      getF_setMaRun_apart _ hn _ hu (by decide) (by decide), lastResidue, getF_setF_fits _ _ _ (by decide) fits]
  · simp [getF_setF_apart, getF_setMaRun_apart, lastResidue, getF_setF_fits, hu, hup, hn]
  · simp [getF_setF_apart, getF_setMaRun_apart, lastResidue, getF_setF_fits, hu, hup, hn]
  · rw [← countSame, ← getF_bump_same _ (unitMA n) 0x118 47 32 1 (most := 65535) (by decide) rfl]
    simp [getF_setF_apart, getF_setMaRun_apart, lastResidue, getF_raiseErr_apart, hu, hup, hn]
  · rw [setF_mem, memSame, noteMismatch_only s1 n _ bad .mem (by decide)]

end

/-! ### The partner's run (R174 step 5) and its columns (R176) -/

/-- A record joins those on their way to the flash. -/
def dueRecord (s : State) (y : FlashRec) : State := { s with flashDue := s.flashDue ++ [y] }

theorem dueRecord_flashDue (s : State) (y : FlashRec) : (dueRecord s y).flashDue = s.flashDue ++ [y] := rfl

theorem only_dueRecord {ps : List Part} {s x : State} (h : Only ps s x) (hf : Part.flashDue ∈ ps) (y : FlashRec) :
    Only ps s (dueRecord x y) :=
  only_trans h fun p hp => by
    cases p
    case flashDue => exact absurd hf hp
    all_goals rfl

theorem regsKept_dueRecord {l : List (UnitId × List Nat)} {s x : State} (h : RegsKept l s x) (y : FlashRec) :
    RegsKept l s (dueRecord x y) := regsKept_congr h rfl rfl

/-- A column takes a free spare: the spare map, its event bits and the count of retirements (R176). -/
def takeSpare (n c : Nat) (s : State) : State :=
  let u := unitMA n
  let k := if getF s u 0x108 7 0 = 0xFF then 0 else 1
  countRetired (raiseInt (raiseErr (setF s u 0x108 (8 * k + 7) (8 * k) c) u 3) u 21) 15 8 1

/-- Each column retired takes a spare and leaves one record of its kind for the flash (R176, R516). -/
theorem spareColumn_eq (n c : Nat) (s : State) :
    ∃ y, spareColumn n c s = dueRecord (takeSpare n c s) y ∧ y.type = 0x0001 :=
  ⟨_, rfl, rfl⟩

/-- The registers that the retirement of a column writes: the spare map and the event bits, and DEV RETIRE_SUMMARY. -/
def spareRegs (n : Nat) : List (UnitId × List Nat) := [(unitMA n, [0x108, 0x28, 0x30]), (unitDEV, [0x128])]

theorem only_takeSpare {ps : List Part} {s x : State} (h : Only ps s x) (hr : Part.regs ∈ ps) (hh : Part.hi ∈ ps) (n c : Nat) :
    Only ps s (takeSpare n c x) := by
  unfold takeSpare countRetired
  exact only_bump (only_raiseInt (only_raiseErr (only_setF h hr _ _ _ _ _) hr hh _ _) hr hh _ _) hr _ _ _ _ _

theorem regsKept_takeSpare {n : Nat} (hn : n < 48) (c : Nat) (s : State) : RegsKept (spareRegs n) s (takeSpare n c s) := by
  have hu := isUnit_unitMA hn
  have own {off : Nat} (ho : off ∈ [0x108, 0x28, 0x30]) : ∃ e ∈ spareRegs n, e.1 = unitMA n ∧ off ∈ e.2 :=
    ⟨_, List.mem_cons_self .., rfl, ho⟩
  have dev : ∃ e ∈ spareRegs n, e.1 = unitDEV ∧ 0x128 ∈ e.2 :=
    ⟨_, List.mem_cons_of_mem _ (List.mem_cons_self ..), rfl, List.mem_cons_self ..⟩
  unfold takeSpare countRetired bump
  exact regsKept_setF (regsKept_raiseInt (regsKept_raiseErr (regsKept_setF (regsKept_refl _ s) _ _ _ hu (by decide) (own (by decide)))
    3 hu (own (by decide)) (own (by decide))) 21 hu (own (by decide))) _ _ _ (by decide) (by decide) dev

theorem only_spareColumn {ps : List Part} {s x : State} (h : Only ps s x) (hr : Part.regs ∈ ps) (hh : Part.hi ∈ ps)
    (hf : Part.flashDue ∈ ps) (n c : Nat) : Only ps s (spareColumn n c x) := by
  obtain ⟨y, hy, -⟩ := spareColumn_eq n c x
  rw [hy]
  exact only_dueRecord (only_takeSpare h hr hh n c) hf y

theorem regsKept_spareColumn {s x : State} {n : Nat} (hn : n < 48) (h : RegsKept (spareRegs n) s x) (c : Nat) :
    RegsKept (spareRegs n) s (spareColumn n c x) := by
  obtain ⟨y, hy, -⟩ := spareColumn_eq n c x
  rw [hy]
  exact regsKept_dueRecord (regsKept_trans h (regsKept_takeSpare hn c x)) y

theorem foldOver_cons {α σ : Type} (f : α → σ → σ) (a : α) (l : List α) (s : σ) :
    foldOver f (a :: l) s = foldOver f l (f a s) := rfl

theorem only_foldOver_spareColumn {ps : List Part} {s x : State} (h : Only ps s x) (hr : Part.regs ∈ ps) (hh : Part.hi ∈ ps)
    (hf : Part.flashDue ∈ ps) (n : Nat) (bad : List Nat) : Only ps s (foldOver (spareColumn n) bad x) :=
  keeps_iff.1 (every_foldOver bad (keeps_iff.2 h) fun c _ hx => keeps_iff.2 (only_spareColumn (keeps_iff.1 hx) hr hh hf n c))

theorem regsKept_foldOver_spareColumn {n : Nat} (hn : n < 48) (bad : List Nat) (s : State) :
    RegsKept (spareRegs n) s (foldOver (spareColumn n) bad s) :=
  keeps_iff.1 (every_foldOver bad (keeps_iff.2 (regsKept_refl _ s)) fun c _ h =>
    keeps_iff.2 (regsKept_spareColumn hn (keeps_iff.1 h) c))

theorem foldOver_spareColumn_flashDue (n : Nat) (bad : List Nat) (s : State) :
    ∃ l, (foldOver (spareColumn n) bad s).flashDue = s.flashDue ++ l ∧ l.length = bad.length ∧ ∀ y ∈ l, y.type = 0x0001 := by
  induction bad generalizing s with
  | nil => exact ⟨[], (List.append_nil _).symm, rfl, by simp⟩
  | cons c bad ih =>
    obtain ⟨y, hy, hty⟩ := spareColumn_eq n c s
    obtain ⟨l, hl, hlen, htypes⟩ := ih (spareColumn n c s)
    have first : (spareColumn n c s).flashDue = s.flashDue ++ [y] := by
      rw [hy, dueRecord_flashDue, only_takeSpare (only_refl [.regs, .hi] s) (by decide) (by decide) n c .flashDue (by decide)]
    refine ⟨y :: l, ?_, congrArg (· + 1) hlen, List.forall_mem_cons.2 ⟨hty, htypes⟩⟩
    rw [foldOver_cons, hl, first, List.append_assoc, List.singleton_append]

/-- While the spares suffice every column of the last mismatching run is retired into one (R174 step 5). -/
theorem handleColumns_spares {s : State} {n : Nat} {bad : List Nat} (hb : bad ≠ [])
    (hroom : bad.length + (sparedColumns s n).length ≤ 2) (p : Nat) (t : Task) :
    handleColumns s n p t bad false = lastResidue (foldOver (spareColumn n) bad s) n 39 32 2 := by
  simp [handleColumns, hb, hroom]

/-- The partner's run ends the pause of both arrays. -/
def endPause (s : State) (n p : Nat) : State := setF (setF s (unitMA n) 0x18 20 20 0) (unitMA p) 0x18 21 21 0

theorem only_endPause {ps : List Part} {s x : State} (h : Only ps s x) (hr : Part.regs ∈ ps) (n p : Nat) : Only ps s (endPause x n p) :=
  only_setF (only_setF h hr _ _ _ _ _) hr _ _ _ _ _

/-- No passed tile of another array waits in the cells of array `p`, which may then run one (R174, R175). -/
def cellsFree (s : State) (p : Nat) : Prop :=
  ((maRunOf s p).phase = .fresh ∨ (maRunOf s p).phase = .paused) ∧
    ∀ m ∈ quarterArrays p, (maRunOf s m).byArray = some p → (maRunOf s m).phase ≠ .passed ∧ (maRunOf s m).phase ≠ .held

/-- The tile passed on its partner: the pause is over, the tile drained, and the columns of the last mismatching run are in
the spares. -/
def partnerPassed (s : State) (n p : Nat) (x : Task) (c : List (List ExactNum)) (bad : List Nat) : State :=
  lastResidue (foldOver (spareColumn n) bad (drainTile (endPause s n p) n p x c)) n 39 32 2

section
variable (s : State) (n p : Nat) {x : Task} (c : List (List ExactNum)) (bad : List Nat) (hd : maDest x.desc = 2)

include hd

theorem partnerPassed_only : Only [.regs, .hi, .eng, .flashDue] s (partnerPassed s n p x c bad) := by
  have paused := only_endPause (only_refl [.regs, .hi, .eng, .flashDue] s) (by decide) n p
  have drained := only_drainTile_toVector paused (by decide) (by decide) n p c hd
  have spared := only_foldOver_spareColumn drained (by decide) (by decide) (by decide) n bad
  exact only_lastResidue spared (by decide) n 39 32 2

theorem maRunOf_partnerPassed : (maRunOf (partnerPassed s n p x c bad) n).phase = .passed ∧
    (maRunOf (partnerPassed s n p x c bad) n).cells = c ∧ (maRunOf (partnerPassed s n p x c bad) n).byArray = some p := by
  obtain ⟨r, hr, hpassed, hcells, hby⟩ := drainTile_toVector (endPause s n p) n p c hd
  have spared := only_foldOver_spareColumn (only_refl [.regs, .hi, .flashDue] (drainTile (endPause s n p) n p x c)) (by decide) (by decide)
    (by decide) n bad
  have run : maRunOf (partnerPassed s n p x c bad) n = r := by
    rw [partnerPassed, lastResidue, maRunOf_congr (setF_eng ..), maRunOf_congr (spared .eng (by decide)), hr, maRunOf_setMaRun]
  rw [run]
  exact ⟨hpassed, hcells, hby⟩

theorem getF_partnerPassed_status {n p : Nat} (hn : n < 48) (hp : p < 48) {u : UnitId} (hu : isUnit u = true) {hi lo : Nat}
    (hlo : 17 < lo) : getF (partnerPassed s n p x c bad) u 0x18 hi lo = getF (endPause s n p) u 0x18 hi lo := by
  have hun := isUnit_unitMA hn
  have hup := isUnit_unitMA hp
  obtain ⟨r, hr, -⟩ := drainTile_toVector (endPause s n p) n p c hd
  have spared := getF_of_regsKept (regsKept_foldOver_spareColumn hn bad (drainTile (endPause s n p) n p x c)) hu (off := 0x18) (by decide)
    (by simp [spareRegs]) hi lo
  rw [partnerPassed, lastResidue, getF_setF_apart _ hun hu (by decide) _ (by decide) (by decide) (.inl (by decide)), spared, hr,
    getF_setMaRun_apart _ hn _ hu (by decide) (.inr (.inl hlo)), bump64, bump,
    getF_setF_apart _ hup hu (by decide) _ (by decide) (by decide) (.inl (by decide))]

theorem partnerPassed_flashDue :
    ∃ l, (partnerPassed s n p x c bad).flashDue = s.flashDue ++ l ∧ l.length = bad.length ∧ ∀ y ∈ l, y.type = 0x0001 := by
  have drained := only_drainTile_toVector (only_endPause (only_refl [.regs, .eng] s) (by decide) n p) (by decide) (by decide) n p c hd
  obtain ⟨l, hl, hlen, htypes⟩ := foldOver_spareColumn_flashDue n bad (drainTile (endPause s n p) n p x c)
  exact ⟨l, by rw [partnerPassed, lastResidue, setF_flashDue, hl, drained .flashDue (by decide)], hlen, htypes⟩

end

section
variable {s s1 : State} {n p : Nat} {x : Task} {c : List (List ExactNum)} (hn : n < 48) (hp48 : p < 48)
  (hf : frontTask s (unitMA n) 1 = some x) (hph : (maRunOf s n).phase = .paused) (hp : (maRunOf s n).partner = some p)
  (hd : maDest x.desc = 2) (hlimited : (maRunOf s n).limited = false) (hfree : cellsFree s p)
  (hrun : runTile { s with rem := { s.rem with wait := false, full := none } } n p x = (s1, .cells c)) (hw : s1.rem.wait = false)
  (hb : (maRunOf s n).bad ≠ []) (hroom : (maRunOf s n).bad.length + (sparedColumns s1 n).length ≤ 2)

include hn hp48 hf hph hp hd hlimited hfree hrun hw hb hroom

theorem partnerRun_spares :
    partnerRun s n [] = setF (partnerPassed s1 n p x c (maRunOf s n).bad) (unitMA n) 0x18 19 19 0 := by
  have sparesSame : sparedColumns (drainTile (endPause s1 n p) n p x c) n = sparedColumns s1 n := by
    obtain ⟨r, hr, -⟩ := drainTile_toVector (endPause s1 n p) n p c hd
    rw [hr]
    simp [sparedColumns, getF_setMaRun_apart, bump64, bump, endPause, getF_setF_apart, isUnit_unitMA hn, isUnit_unitMA hp48, hn]
  obtain ⟨hq, hcells⟩ := hfree
  have noneWaits : ((quarterArrays p).any fun m => (maRunOf s m).byArray = some p &&
      ((maRunOf s m).phase = .passed || (maRunOf s m).phase = .held)) = false := by
    simpa [List.any_eq_false] using hcells
  have free : ((maRunOf s p).phase = .fresh || (maRunOf s p).phase = .paused) = true := by simpa using hq
  simp only [partnerRun, hf, hp, hph, noneWaits, free, ne_eq, not_true_eq_false, Bool.not_false, Bool.and_self, Bool.true_eq_false, or_self,
    if_false]
  apply drainWork_of_done
  · rw [← sparesSame] at hroom
    unfold endPause at hroom
    simp only [hrun, List.isEmpty_nil, if_true, hlimited, handleColumns_spares hb hroom]
    rw [partnerPassed, endPause]
  · rw [partnerPassed_only s1 n p c _ hd .rem (by decide), hw]

theorem partnerRun_passes :
    ∃ t, Machine.exec (.partnerRun n []) s = .next t ∧ (maRunOf t n).phase = .passed ∧ (maRunOf t n).cells = c ∧
      (maRunOf t n).byArray = some p ∧ getF t (unitMA n) 0x18 20 20 = 0 ∧ getF t (unitMA p) 0x18 21 21 = 0 ∧
      getF t (unitMA n) 0x120 39 32 = 2 ∧ t.mem = s1.mem ∧
      ∃ l, t.flashDue = s1.flashDue ++ l ∧ l.length = (maRunOf s n).bad.length ∧ ∀ y ∈ l, y.type = 0x0001 := by
  have hu := isUnit_unitMA hn
  have hup := isUnit_unitMA hp48
  have memSame := partnerPassed_only s1 n p c (maRunOf s n).bad hd .mem (by decide)
  obtain ⟨hpassed, hcells, hby⟩ := maRunOf_partnerPassed s1 n p c (maRunOf s n).bad hd
  refine ⟨_, rfl, ?_⟩
  rw [partnerRun_spares hn hp48 hf hph hp hd hlimited hfree hrun hw hb hroom, maRunOf_congr (setF_eng ..), setF_mem, setF_flashDue]
  refine ⟨hpassed, hcells, hby, ?_, ?_, ?_, memSame, partnerPassed_flashDue s1 n p c (maRunOf s n).bad hd⟩
  · rw [getF_setF_apart _ hu hu (by decide) _ (by decide) (by decide) (by decide),
      getF_partnerPassed_status s1 c _ hd hn hp48 hu (by decide),
      endPause, getF_setF_apart _ hup hu (by decide) _ (by decide) (by decide) (by decide), getF_setF_fits _ _ _ (by decide) (by decide)]
  · rw [getF_setF_apart _ hu hup (by decide) _ (by decide) (by decide) (by decide),
      getF_partnerPassed_status s1 c _ hd hn hp48 hup (by decide),
      endPause, getF_setF_fits _ _ _ (by decide) (by decide)]
  · rw [getF_setF_apart _ hu hu (by decide) _ (by decide) (by decide) (by decide), partnerPassed, lastResidue,
      getF_setF_fits _ _ _ (by decide) (by decide)]

end

end Residues

/-- Settles O51: the second run's two outcomes and the partner's run, each from the state it is equal to. -/
theorem matrixResidues : Obligations.MatrixResidues := by
  unfold Obligations.MatrixResidues
  refine ⟨fun s s1 n x c hn hf hph hw hrun => ⟨fun hd hlim => ?_, fun bad p hb hp48 hp => ?_⟩,
    fun s s1 n p x c hn hp48 _ hf hph hp hd hlimited hq hcells hrun hw hb hroom => ?_⟩
  · exact Residues.residueRecompute_transient hn hf hph hw hrun hd hlim
  · exact Residues.residueRecompute_pauses hn hf hph hw hrun hb hp48 hp
  · exact Residues.partnerRun_passes hn hp48 hf hph hp hd hlimited ⟨hq, hcells⟩ hrun hw hb hroom

end Sys2Proof.Machine
end
